-- ==== Sys2Proof/Word.lean ====
section
/-! DEFINITION. Words of the WN3400: bytes, 16-, 32- and 64-bit words and lane masks (R2, R3, R13). -/

namespace Sys2Proof

/-- A byte, the smallest addressable unit. -/
abbrev Byte := BitVec 8
/-- An n16 value, such as an x register (R102). -/
abbrev W16 := BitVec 16
/-- One lane's slice of a vector register (R174). -/
abbrev W32 := BitVec 32
/-- A scalar register (R141) or an address (R207). -/
abbrev W64 := BitVec 64
/-- A set of lanes of a group: bit L stands for lane L (R13, R159). -/
abbrev Lanes := BitVec 32

end Sys2Proof
end

