-- ==== Sys2Proof/Syntax.lean ====
section
/-! DEFINITION. The syntax of the model: the operands of an instruction word (R99 to R103), the data that events
carry, and `Instr`, one constructor per row of the spec's table of operations and events. -/

namespace Sys2Proof

/-- The named special registers 0x40 to 0x50 (R102, R158). -/
inductive SReg where
  | exm | part | prio | gang | seed | nf | fmode | fdepth | spbase | spsize | combid | groupid | core | batch
  | trapvec | fstat | karg
deriving DecidableEq, Repr, Inhabited

/-- A source field: its kind and index (R101 to R103). -/
inductive Src where
  /-- kind 0: vector register vN -/
  | vec (n : BitVec 8)
  /-- kind 1: scalar register sN -/
  | scal (n : BitVec 6)
  /-- kind 2, 0x00 to 0x03: latch bK -/
  | latch (k : BitVec 2)
  /-- kind 2, 0x08 to 0x0F: predicate qN -/
  | pred (n : BitVec 3)
  /-- kind 2, 0x10 to 0x13: index register xK -/
  | idx (k : BitVec 2)
  /-- kind 2, 0x14 to 0x17: the vector register whose number xK holds -/
  | vecAt (k : BitVec 2)
  /-- kind 2, 0x20 to 0x2F: accumulator aN -/
  | acc (n : BitVec 4)
  /-- kind 2, 0x40 to 0x50: a named special register -/
  | spec (r : SReg)
  /-- kind 3, 0x00: IMM sign-extended -/
  | immS
  /-- kind 3, 0x01: IMM zero-extended -/
  | immZ
  /-- kind 3, 0x02: IMM as an f32 -/
  | immF
  /-- kind 3, 0x03: IMM times 2^32 -/
  | immH
deriving DecidableEq, Repr, Inhabited

/-- A destination field (R100, R102). -/
inductive Dst where
  | vec (n : BitVec 8)
  | scal (n : BitVec 6)
  | pred (n : BitVec 3)
  | idx (k : BitVec 2)
  | vecAt (k : BitVec 2)
  | acc (n : BitVec 4)
  | spec (r : SReg)
  /-- DKIND 3; DIDX is the join id of a control transfer (R145) and 0 elsewhere (R105) -/
  | none (j : BitVec 8)
deriving DecidableEq, Repr, Inhabited

/-- The TY names of both tables of R114. -/
inductive Ty where
  | none
  | i8 | i16 | i32 | i64 | n8 | n16 | n32 | n64 | f32 | f16 | bf16
  | b8 | b16 | b32 | b64 | b128 | sc
deriving DecidableEq, Repr, Inhabited

/-- The element types of R48. -/
inductive Fmt where
  | i8 | i16 | i32 | i64 | n8 | n16 | n32 | n64 | f32 | bf16 | f16 | e4m3 | e5m2 | e2m3 | e3m2 | e2m1 | tp8 | tp6 | e8m0
deriving DecidableEq, Repr, Inhabited

/-- The fields of an instruction word but OPC (R99), with operands as their kinds name them. -/
structure Form where
  sub  : BitVec 6 := 0
  ty   : Ty := .none
  /-- [3] negates, [2:0] names q0 to q7; q7 is always true -/
  pred : BitVec 4 := 7
  dst  : Dst := .none 0
  nwb  : Bool := false
  s0   : Src := .vec 0
  s1   : Src := .vec 0
  s2   : Src := .vec 0
  mod  : Bool := false
  imm  : BitVec 32 := 0
deriving DecidableEq, Repr, Inhabited

/-- Names a path: its comb (by serial), its group's GIDX and its path index (R41, R164). -/
structure PathRef where
  comb  : Nat
  group : Nat
  path  : Nat
deriving DecidableEq, Repr, Inhabited

/-- Names a cache of R287: an L1 by its core, an RDC by its hive. -/
inductive CacheId where
  | l1 (core : Nat)
  | rdc (hive : Nat)
deriving DecidableEq, Repr, Inhabited

/-- What became of a packet at the device that acted on it (R340). -/
inductive Verdict where
  | accepted | delivered | late | refused
deriving DecidableEq, Repr, Inhabited

/-- A collective packet: the header of R333 and its payload; `side` holds the sidecars that travel with scaled
lines (R337). -/
structure Packet where
  coded   : Bool := false
  pt      : Bool := false
  nhop    : Nat := 0
  rop     : Nat := 0
  fmt     : Nat := 0
  blk     : Nat := 0
  nanp    : Bool := false
  pers    : Bool := false
  src     : Nat := 0
  cid     : Nat := 0
  chunk   : Nat := 0
  step    : Nat := 0
  contrib : Nat := 0
  ncont   : Nat := 0
  len     : Nat := 0
  /-- HOPOP and DEV of each remaining entry -/
  hops    : List (Nat × Nat) := []
  payload : List Byte := []
  side    : List Byte := []
  /-- the model's own: the local jobs that wait for the packet's verdict, and what a result packet tells the job that
  receives it (R336), for which the header has no field -/
  owners  : List Nat := []
  nskip   : Nat := 0
  flags   : BitVec 7 := 0
deriving DecidableEq, Repr, Inhabited

/-- Kinds of pod messages (R331, R332). -/
inductive PodKind where
  | arrival | init | pending | completion | break_ | notice
  /-- a member waits at the barrier: its home must know it to tell it of a break (R332) -/
  | wait
  /-- the home tells a member that it may use the barrier afresh: a bar.set has cleared a break, or the home's context is
  enabled again (R332) -/
  | reset
  /-- the home tells a member that it holds no such barrier: its context is disabled (R332) -/
  | gone
deriving DecidableEq, Repr, Inhabited

/-- A message about pod barrier `n` of the context whose address-space ID is `asid` (R331, R332). -/
structure PodMsg where
  asid  : Nat
  n     : Nat
  /-- the device that sends it -/
  dev   : Nat
  count : Nat := 0
  /-- bytes added to PENDING (an arrival) or subtracted from it (an engine) -/
  bytes : W64 := 0
  phase : W32 := 0
  kind  : PodKind := .arrival
deriving DecidableEq, Repr, Inhabited

/-- What a remote transaction does (R302, R330). -/
inductive RemoteKind where
  | load
  | store
  | writeBack
  /-- a POD atomic: its SUB of R231, width in bytes and operand; `cas` carries the comparand -/
  | atomic (op : Nat) (a : W64)
  | cas (c n : W64)
deriving DecidableEq, Repr, Inhabited

/-- A UALink transaction that arrives at this device (R330, R344). `cuts` names the snapshots (by CID and cut step)
whose cut point the sender has passed. -/
structure RemoteTx where
  kind  : RemoteKind
  src   : Nat
  asid  : Nat
  va    : Nat
  size  : Nat
  bytes : List Byte := []
  side  : List (Nat × Byte) := []
  cuts  : List (Nat × Nat) := []
  /-- the station that carries it (R330) -/
  station : Nat := 0
  /-- `bytes` is BDZ-coded (R342) -/
  coded   : Bool := false
deriving DecidableEq, Repr, Inhabited

/-- The bytes of BAR0 of function 0 that a host access names (R322). -/
structure RegSpan where
  off  : Nat
  size : Nat
deriving DecidableEq, Repr, Inhabited

/-- A host CXL.mem access to tower memory (R321, R298). -/
structure HostAccess where
  write : Bool
  addr  : Nat
  size  : Nat
  bytes : List Byte := []
deriving DecidableEq, Repr, Inhabited

/-- The rows of the table that are instruction words, by name. -/
inductive Op where
  | nop
  | br
  | brx
  | brxTab
  | call
  | fcall
  | ret
  | retTr
  | trap
  | ipf
  | mfs
  | mts
  | setseed
  | setseedGrp
  | sadd
  | ssub
  | smul
  | smad
  | slog
  | sshf
  | scmp
  | ssel
  | smov
  | sadr
  | sbit
  | smm
  | add
  | sub
  | mul
  | mad
  | log
  | shf
  | cmp
  | sel
  | mov
  | mm
  | bit
  | dot4
  | movxLd
  | movxSt
  | fadd
  | fmul
  | fma
  | fmm
  | fcmp
  | fsf
  | fcls
  | fsgn
  | cvt
  | bmax
  | bscl
  | qnt
  | dqnt
  | rblk
  | pack
  | shfl
  | permLane
  | permByte
  | vote
  | ballot
  | ballotGrp
  | red
  | scan
  | popc
  | ld
  | ldZ
  | st
  | ldsc
  | stsc
  | stmc
  | dpf
  | rcn
  | atom
  | cas
  | ldfeTake
  | ldfePeek
  | stfe
  | stfeForce
  | barMeet
  | barPost
  | barHold
  | barSet
  | bind
  | acq
  | rel
  | fenceAll
  | fenceBank
  | mma
  | mmv
  | accZero
  | accFree
  | accCopy
  | accAdd
  | accRdr
  | accRdc
  | accWrr
  | drain
  | epld
  | bclose
  | bwait
  | launch
deriving DecidableEq, Repr, Inhabited

/-- Every row of spec/opcode_table.json: the device's and the host's events, then the instructions. -/
inductive Instr where
  /-- LQPROD_WRITE (R28): The host writes LQPROD, which rings the doorbell for the context's launch queue. -/
  | lqprodWrite (c : Nat) (v : W64)
  /-- LAUNCH_RECORD_READ (R28): The device reads the next launch record through the context's translation, waiting for the pager if needed, then copies it and advances LQCONS. -/
  | launchRecordRead (c : Nat)
  /-- GATE_EVALUATION (R33): Unmet gates are evaluated again, within 2 µs of a counter write or at least every 4,096 cycles; met gates make the combs dispatchable and a failed counter read discards the launch. -/
  | gateEvaluation (n : Nat)
  /-- DISTRIBUTOR_DISPATCH (R34): A distributor dispatches the next fitting comb of its highest non-empty class to a candidate core. -/
  | distributorDispatch (h : Nat)
  /-- STEAL_REQUEST (R39): A dry distributor sends one steal request to the distributor with the most queued dispatchable combs. -/
  | stealRequest (h : Nat)
  /-- STEAL_ANSWER (R40): The victim answers in one step with a comb that is removed from its queue, or answers empty. -/
  | stealAnswer (h : Nat)
  /-- STOLEN_COMB_PLACE (R40): The thief places the stolen comb off-home on its least-loaded fitting core and raises the off-home counter. -/
  | stolenCombPlace (h : Nat)
  /-- STEAL_SILENCE_EXPIRY (R39): The 512-cycle silence after an empty steal answer ends. -/
  | stealSilenceExpiry (h : Nat)
  /-- ISSUE_CHOICE (R43): In each cycle, each issue slot chooses one eligible path by boost, PRIO and least recent issue. -/
  | issueChoice
  /-- PATH_BOOST (R44): A path that has been eligible and unchosen for 1,024 consecutive cycles becomes boosted. -/
  | pathBoost (r : PathRef)
  /-- BUNDLE_ARRIVAL (R98): A path arrives at a bundle; extent and fetch checks, JOIN merging and the END of an empty bundle are applied. -/
  | bundleArrival (r : PathRef)
  /-- ARM_RELEASE (R154): A waiting arm is released to run on without merging when the other arm ends, mismatches depth, or waits at a bar, ldfe, stfe or bwait. -/
  | armRelease (r : PathRef)
  /-- SIDE_PATH_MERGE (R166): A side path that reaches its waiting origin's point merges back into the origin. -/
  | sidePathMerge (r : PathRef)
  /-- ICACHE_LINE_FILL (R169): A requested instruction-cache line arrives, and the paths stalled on it resume. -/
  | icacheLineFill (core asid line : Nat)
  /-- INSTRUCTION_COMPLETE (R93): An issued instruction completes: its results and latch are written, its SETF flag becomes done and its flags are ORed into NF. -/
  | instructionComplete (fid : Nat)
  /-- LAUNCH_COMPLETE (R31): Once every comb has ended, every job has a status and the launch's stores are released, the device writes STATUS 0x02 and increments counter DIDX. -/
  | launchComplete (n : Nat)
  /-- ABORT_COMPLETE (R167): Once every issued instruction of the aborted launch has completed, the device writes STATUS 0x03. -/
  | abortComplete (n : Nat)
  /-- PAGE_RESOLVED (R165): The pager makes a page present and the parked path becomes a side path that replays its instruction. -/
  | pageResolved (r : PathRef)
  /-- PAGE_FAULT_FATAL (R165): The pager finds a fault fatal: the side path traps, a host fault record is written, and comb and span barriers break. -/
  | pageFaultFatal (r : PathRef)
  /-- MANAGED_PAGE_RESOLVE (R326): The device allocates and zero-fills a managed page, or copies it back from swap, and sets ADDR and P. -/
  | managedPageResolve (c page : Nat)
  /-- LOADER_LOAD (R135): OP = 1 starts a code-object load with STATUS 0x01. -/
  | loaderLoad (c : Nat) (v : W64)
  /-- LOAD_FINISH (R135): The load completes its checks, maps the image, applies relocations and sets STATUS to 0x02 or 0x03, or reports the failing check's status. -/
  | loadFinish (c : Nat)
  /-- LOADER_UNLOAD (R137): OP = 2 unloads a handle: STATUS becomes 0x04, or 0x38 when the handle is not live. -/
  | loaderUnload (c : Nat) (v : W64)
  /-- PREEMPT_SAVE (R172): A PREEMPT write of 1 in PSTATE 0 starts a save of the context. -/
  | preemptSave (c : Nat)
  /-- SAVE_COMPLETE (R172): After paths stop and instructions and jobs settle, state is written under R173, resources are freed and PSTATE becomes 2. -/
  | saveComplete (c : Nat)
  /-- PREEMPT_RESTORE (R172): A PREEMPT write of 2 in PSTATE 2 starts a restore of the saved state. -/
  | preemptRestore (c : Nat)
  /-- RESTORED_COMB_PLACE (R172): A saved comb is placed back on its original core once that core fits it, and its paths continue. -/
  | restoredCombPlace (c k : Nat)
  /-- GANG_TIMEOUT (R250): 65,536 cycles pass without the rendezvous completing; every issued member traps 0x09. -/
  | gangTimeout (comb : Nat) (gang : W16)
  /-- MATRIX_QUEUE_ADVANCE (R251): The matrix engine takes the next queue entry and performs it. -/
  | matrixQueueAdvance (core : Nat)
  /-- JOB_ACCEPT (R300): A GO store drains and consumes the card; the job is checked and enters the TDT with its edges. -/
  | jobAccept (entry : Nat)
  /-- TRANSFORM_COPY (R279): A transform copy job starts and copies LEN bytes, with sidecars when SIDE = 1. -/
  | transformCopy (job : Nat)
  /-- TRANSFORM_CONV (R279): A conv job starts and converts an R×C matrix into the destination type. -/
  | transformConv (job : Nat)
  /-- TRANSFORM_CONVT (R279): A convT job starts and writes the transposed, converted matrix. -/
  | transformConvt (job : Nat)
  /-- GATHER (R280): A gather job starts and copies indexed table rows to consecutive destination rows. -/
  | gather (job : Nat)
  /-- SCATTER (R280): A scatter job starts and copies consecutive source rows to indexed destination rows. -/
  | scatter (job : Nat)
  /-- CHAIN (R281): A chain job starts and runs its eight-word epilogue program over streams A and B. -/
  | chain (job : Nat)
  /-- BANK_MV (R283): A bank-unit mv job starts and computes M matrix-vector rows at the banks. -/
  | bankMv (job : Nat)
  /-- BANK_ACCM (R283): A bank-unit accm job starts and adds the source elementwise into the destination. -/
  | bankAccm (job : Nat)
  /-- BANK_AMAX (R283): A bank-unit amax job starts and writes the largest magnitude of COUNT f32 values. -/
  | bankAmax (job : Nat)
  /-- BANK_FILL (R283): A bank-unit fill job starts and writes a 64-bit pattern to every dword of the destination. -/
  | bankFill (job : Nat)
  /-- BANK_COPY (R283): A bank-unit copy job starts and copies payload and sidecars within one tower. -/
  | bankCopy (job : Nat)
  /-- ALL_REDUCE (R337): An all-reduce collective job starts and sends its contribution chunks. -/
  | allReduce (job : Nat)
  /-- REDUCE_SCATTER (R337): A reduce-scatter collective job starts and sends its contribution chunks. -/
  | reduceScatter (job : Nat)
  /-- ALL_GATHER (R337): An all-gather collective job starts and sends its contribution chunks. -/
  | allGather (job : Nat)
  /-- BROADCAST (R337): A broadcast collective job starts; rank 0's data is delivered to every participant. -/
  | broadcast (job : Nat)
  /-- IN_HOP_REDUCTION (R338): An in-hop reduction job starts and sends one packet per chunk carrying its route. -/
  | inHopReduction (job : Nat)
  /-- SNAPSHOT_ARM (R285): A snapshot arm job starts and awaits the cut at step N of its CID. -/
  | snapshotArm (job : Nat)
  /-- SNAPSHOT_CANCEL (R285): A snapshot cancel job ends a matching arm job with 0x40 and itself receives 0x01. -/
  | snapshotCancel (job : Nat)
  /-- JOB_WRITE_LAND (R300): A job's write is performed at its place and, with PB set, its bytes are subtracted from PENDING. -/
  | jobWriteLand (job : Nat)
  /-- JOB_STATUS (R300): A job receives its status after its writes land and leaves the TDT; batch records and DONE are updated. -/
  | jobStatus (job : Nat) (verdicts : List Verdict)
  /-- SB_DRAIN (R291): A store-buffer entry is written at its place and L1 takes the bytes. -/
  | sbDrain (entry replica : Nat)
  /-- CACHE_FILL (R291): A cache takes a copy of a line from the next part of its route. -/
  | cacheFill (k : CacheId) (line : Nat)
  /-- CACHE_DROP (R291): A clean copy is removed; a dirty RDC line is written back first. -/
  | cacheDrop (k : CacheId) (line : Nat)
  /-- RDC_WRITE_BACK (R291): A dirty RDC line is written to its home device and becomes clean. -/
  | rdcWriteBack (hive line : Nat)
  /-- L1_INVALIDATE (R291): An L1 copy that differs from the home slice is removed. -/
  | l1Invalidate (core line : Nat)
  /-- LOAD_READ (R291): A load lane reads from forwarding, L1 or the banks. -/
  | loadRead (fid lane : Nat)
  /-- ATOMIC_PERFORM (R291): An atomic lane reads and writes its location at its place in one move. -/
  | atomicPerform (fid lane : Nat)
  /-- RELEASE (R294): A release move performs the synchronising step once its region's entries have drained. -/
  | release (fid : Nat)
  /-- BAR_MEET_ARRIVAL (R215): bar.meet's arrival step performs its release and arrival and records the joined phase, before the instruction issues. -/
  | barMeetArrival (r : PathRef)
  /-- RCN_LINE_COPY (R301): rcn writes hive h's replica bytes of one line into another replica. -/
  | rcnLineCopy (fid line replica : Nat)
  /-- BANK_FORWARD (R299): A bank command passes through its home slice, which writes back or drops its copy, and enters the bank queue. -/
  | bankForward (cmd : Nat)
  /-- BANK_FADD2 (R282): Bank command BOP 0 adds two f32 values at T. -/
  | bankFadd2 (cmd : Nat)
  /-- BANK_IADD2 (R282): Bank command BOP 1 adds two i32 values at T, wrapping. -/
  | bankIadd2 (cmd : Nat)
  /-- BANK_IADD64 (R282): Bank command BOP 2 adds one i64 value at T, wrapping. -/
  | bankIadd64 (cmd : Nat)
  /-- BANK_FMAX2 (R282): Bank command BOP 3 takes the fmm max of two f32 values at T. -/
  | bankFmax2 (cmd : Nat)
  /-- BANK_WRITE (R282): Bank command BOP 4 writes the operand at T. -/
  | bankWrite (cmd : Nat)
  /-- FORK_RESOLUTION (R313): A fork resolves: its lanes are classed as committing, mismatched or discarded, then committed, replayed or squashed. -/
  | forkResolution (comb group fork : Nat)
  /-- NOFORK_CLEAR (R317): After 4,096 fcalls run as call at a no-fork site, the mark is cleared. -/
  | noforkClear (core site : Nat)
  /-- HOP_PASS (R334): A packet arriving with HOPOP 0 pops its hop and is sent on to the next hop. -/
  | hopPass (p : Packet)
  /-- HOP_REDUCE (R335): A packet with HOPOP 1 enters its reduction slot: it allocates, joins or is held, is late, or completes the slot. -/
  | hopReduce (p : Packet)
  /-- HOP_DELIVER (R334): A packet with HOPOP 2 writes its payload to the matching local job's destination. -/
  | hopDeliver (p : Packet)
  /-- HOP_COPY (R334): A packet with HOPOP 3 delivers its payload and is also sent on. -/
  | hopCopy (p : Packet)
  /-- HOP_INVALID (R334): A packet with HOPOP 4 to 15 is refused. -/
  | hopInvalid (p : Packet)
  /-- SLOT_EXPIRY (R339): A slot's timeout expires: it issues a partial result with PT = 1 and MISS, or is freed without a result. -/
  | slotExpiry (slot : Nat)
  /-- SNAPSHOT_PAGE_DRAIN (R345): A snapshot engine drains one marked page to the destination and DRAINED rises. -/
  | snapshotPageDrain (job : Nat)
  /-- POD_ARRIVAL_MESSAGE (R331): A pod barrier arrival reaches the home spire and is counted. -/
  | podArrivalMessage (m : PodMsg)
  /-- POD_INIT_MESSAGE (R331): A pod bar.set reaches the home, sets EXPECT and clears BROKEN. -/
  | podInitMessage (m : PodMsg)
  /-- POD_PENDING_MESSAGE (R331): An engine's PENDING subtraction reaches the pod barrier's home. -/
  | podPendingMessage (m : PodMsg)
  /-- POD_COMPLETION_MESSAGE (R331): A member receives a pod barrier completion and its waiters acquire. -/
  | podCompletionMessage (m : PodMsg)
  /-- POD_BREAK_MESSAGE (R332): A break reaches the home, which sets BROKEN and forwards the break to the users. -/
  | podBreakMessage (m : PodMsg)
  /-- POD_BREAK_NOTICE (R332): A member receives a break notice, and its waiting paths take trap 0x13. -/
  | podBreakNotice (m : PodMsg)
  /-- REMOTE_TRANSACTION (R330): A UALink load, store, write-back or POD atomic for a TT 1 line arrives at its home device. -/
  | remoteTransaction (t : RemoteTx)
  /-- HOST_MEM_ACCESS (R321): A host CXL.mem access to tower memory enters at the home slice. -/
  | hostMemAccess (a : HostAccess)
  /-- LINK_DOWN (R321): A host link goes down and its traffic passes to the other link. -/
  | linkDown (k : Nat)
  /-- REGISTER_WRITE (R6): The host writes a register that has no behaviour of its own, under the access codes. -/
  | registerWrite (at_ size : Nat) (v : W64)
  /-- DEVID_WRITE (R323): A write to 0x008 sets PODEN, and sets DEVID only when PODEN was 0 before the write. -/
  | devidWrite (v : W64)
  /-- RWSPLIT_WRITE (R323): A write to RWSPLIT changes the tower lane split within 1 µs without losing any access. -/
  | rwsplitWrite (v : W64)
  /-- CONTEXT_ENABLE (R324): Writing EN = 1 creates the context unless its ASID is already in use. -/
  | contextEnable (c : Nat) (v : W64)
  /-- CONTEXT_DISABLE (R324): Writing EN = 0 aborts the context's launches and frees its pages and references. -/
  | contextDisable (c : Nat) (v : W64)
  /-- INVALIDATE_PAGE (R324): A doorbell with IALL = 0 invalidates the translation of page IVA. -/
  | invalidatePage (c : Nat) (v : W64)
  /-- INVALIDATE_ALL (R324): A doorbell with IALL = 1 invalidates every translation of the context. -/
  | invalidateAll (c : Nat)
  /-- INVALIDATION_COMPLETE (R324): The invalidation has covered every cache, and IBUSY returns to 0. -/
  | invalidationComplete (c : Nat)
  /-- POLKEY_WRITE (R350): A write of POLKEY sets the policy key and logs a kind-4 measurement event. -/
  | polkeyWrite (c k : Nat) (v : W64)
  /-- CHANNEL_RETIRE (R328): A pseudo-channel past the error threshold is retired, its rebuild starts and a 0x21 record goes to every enabled context's ring. -/
  | channelRetire (t p : Nat)
  /-- LINE_REBUILD (R329): One line is rebuilt from parity onto its new pseudo-channel and REBUILD falls. -/
  | lineRebuild (t line : Nat)
  /-- IDLE_ENTRY (R347): An idle device enters the deepest power state whose wake time fits LTOL. -/
  | idleEntry
  /-- WAKE (R347): A register write, host access or pod packet returns the device from A1 or A2 to A0. -/
  | wake
  /-- POWER_ON (R347): The board's power controller wakes the device from A3 or A4. -/
  | powerOn
  /-- DEVICE_RESET (R349): After reset the device exposes only the device page and the boot ROM waits for firmware. -/
  | deviceReset
  /-- FIRMWARE_VERIFY_RUN (R349): FWCMD = 1 starts verification of the firmware image. -/
  | firmwareVerifyRun (v : W64)
  /-- FIRMWARE_VERIFY_DONE (R349): Verification ends: the image runs with FWSTAT 2, or FWSTAT reports the failure. -/
  | firmwareVerifyDone
  /-- WRITE_REPORT (R351): ACMD = 1 starts writing an attestation report, and ASTAT becomes busy. -/
  | writeReport (v : W64)
  /-- REPORT_WRITTEN (R351): The report has been written and ASTAT becomes 2 with a SYSTEM release. -/
  | reportWritten
  /-- LINK_UP (R321): A host link that was down comes back up, and host-bound traffic is again split between the two links by address bit 12. -/
  | linkUp (k : Nat)
  /-- nop (R118): Takes one issue cycle and does nothing. -/
  | nop (f : Form)
  /-- br (R147): Transfers the active lanes to a target, splitting the path when needed. -/
  | br (f : Form)
  /-- brx (R148): Branches to an absolute address held in a register. -/
  | brx (f : Form)
  /-- brx.tab (R148): Branches through an n64 table entry read from memory. -/
  | brxTab (f : Form)
  /-- call (R149): Transfers to a target and pushes the return address. -/
  | call (f : Form)
  /-- fcall.hw|reg|imm (R150): Acts as call and may fork a continuation with predicted return values. -/
  | fcall (f : Form)
  /-- ret (R151): Pops the return stack and transfers the active lanes to the return address. -/
  | ret (f : Form)
  /-- ret.tr (R164): Returns from a trap handler and acts on RESUME. -/
  | retTr (f : Form)
  /-- trap (R161): Raises trap 0x0A with the given number. -/
  | trap (f : Form)
  /-- ipf.l1|l2|l4 (R170): Prefetches 1, 2 or 4 instruction lines. -/
  | ipf (f : Form)
  /-- mfs (R158): Copies a special register into a scalar register. -/
  | mfs (f : Form)
  /-- mts (R158): Writes a special register from a scalar value. -/
  | mts (f : Form)
  /-- setseed (R160): Writes SEED directly. -/
  | setseed (f : Form)
  /-- setseed.grp (R160): Writes SEED mixed with the comb and group index. -/
  | setseedGrp (f : Form)
  /-- sadd[.sat].ty (R142): Scalar add, optionally saturating. -/
  | sadd (f : Form)
  /-- ssub[.sat].ty (R142): Scalar subtract, optionally saturating. -/
  | ssub (f : Form)
  /-- smul[.hi].ty (R142): Scalar multiply, low or high half. -/
  | smul (f : Form)
  /-- smad.ty (R142): Scalar multiply-add. -/
  | smad (f : Form)
  /-- slog.op (R142): Scalar bitwise logic. -/
  | slog (f : Form)
  /-- sshf.op.ty (R142): Scalar shift or rotate. -/
  | sshf (f : Form)
  /-- scmp.rel.ty (R142): Scalar compare giving 0 or 1. -/
  | scmp (f : Form)
  /-- ssel (R142): Scalar select. -/
  | ssel (f : Form)
  /-- smov (R142): Scalar move. -/
  | smov (f : Form)
  /-- sadr.mK|pmK (R143): Forms a scaled address from a register base or the bundle address. -/
  | sadr (f : Form)
  /-- sbit.op.ty (R142): Scalar popcount, leading zeros, trailing zeros or bit reversal. -/
  | sbit (f : Form)
  /-- smm.min|max.ty (R142): Scalar minimum or maximum. -/
  | smm (f : Form)
  /-- add[.sat].ty (R181): Lane integer add. -/
  | add (f : Form)
  /-- sub[.sat].ty (R181): Lane integer subtract. -/
  | sub (f : Form)
  /-- mul[.hi].ty (R181): Lane integer multiply, low or high half. -/
  | mul (f : Form)
  /-- mad[.sat].ty (R181): Lane integer multiply-add. -/
  | mad (f : Form)
  /-- log.op (R181): Lane bitwise logic. -/
  | log (f : Form)
  /-- shf.op.ty (R181): Lane shift or rotate. -/
  | shf (f : Form)
  /-- cmp.rel.ty (R181): Lane integer compare. -/
  | cmp (f : Form)
  /-- sel (R181): Lane select. -/
  | sel (f : Form)
  /-- mov (R181): Lane move. -/
  | mov (f : Form)
  /-- mm.min|max.ty (R181): Lane integer minimum or maximum. -/
  | mm (f : Form)
  /-- bit.op.ty (R181): Lane bit count or reversal. -/
  | bit (f : Form)
  /-- dot4[.sat].ty (R181): Four-element dot product accumulated into an i32. -/
  | dot4 (f : Form)
  /-- movx.ld (R182): Reads a register chosen per lane by an index. -/
  | movxLd (f : Form)
  /-- movx.st (R182): Writes a register chosen per lane by an index. -/
  | movxSt (f : Form)
  /-- fadd[.sub].rm.ty (R183): Lane floating-point add or subtract. -/
  | fadd (f : Form)
  /-- fmul.rm.ty (R183): Lane floating-point multiply. -/
  | fmul (f : Form)
  /-- fma[.v].rm.ty (R183): Lane fused multiply-add in four sign variants. -/
  | fma (f : Form)
  /-- fmm.op.ty (R184): Floating-point min, max, minnum, maxnum or amax. -/
  | fmm (f : Form)
  /-- fcmp.rel.f32 (R185): f32 compare into a predicate or register. -/
  | fcmp (f : Form)
  /-- fsf.fn.rm.ty (R186): Correctly rounded special function. -/
  | fsf (f : Form)
  /-- fcls.ty (R185): Tests the class of a value against a mask. -/
  | fcls (f : Form)
  /-- fsgn.op.ty (R187): Sign-bit abs, neg, copy or xor. -/
  | fsgn (f : Form)
  /-- cvt.rm.dfmt.sfmt (R189): Converts between plain types. -/
  | cvt (f : Form)
  /-- bmax.nK.f32 (R190): Largest magnitude within a tile. -/
  | bmax (f : Form)
  /-- bscl.fmt (R191): Chooses a block scale from a magnitude. -/
  | bscl (f : Form)
  /-- qnt.rm.fmt.blk (R192): Quantises f32 values into a scaled register pair. -/
  | qnt (f : Form)
  /-- dqnt.rm.fmt.blk (R193): Dequantises a scaled pair into f32. -/
  | dqnt (f : Form)
  /-- rblk.fmt.blk (R194): Re-expresses a scaled pair under a new scale. -/
  | rblk (f : Form)
  /-- pack.extI|insI.fmt (R195): Extracts or inserts an element's bits. -/
  | pack (f : Form)
  /-- shfl.mode (R199): Reads a value from another lane of the tile. -/
  | shfl (f : Form)
  /-- perm.lane (R199): Reads a value from any lane by index. -/
  | permLane (f : Form)
  /-- perm.byte (R199): Selects bytes from two operands by nibble selectors. -/
  | permByte (f : Form)
  /-- vote.op (R200): Tile vote: every, some or same. -/
  | vote (f : Form)
  /-- ballot (R200): Tile ballot mask per lane. -/
  | ballot (f : Form)
  /-- ballot.grp (R200): Group-wide ballot into a scalar register. -/
  | ballotGrp (f : Form)
  /-- red.op.ty (R202): Tree reduction within a tile. -/
  | red (f : Form)
  /-- scan.op.ty (R203): Inclusive or exclusive scan within a tile. -/
  | scan (f : Form)
  /-- popc[.pre] (R200): Counts the true lanes of the tile, or the prefix count. -/
  | popc (f : Form)
  /-- ld[.hint][.sx].ty (R218): Loads bytes into a lane or uniform destination. -/
  | ld (f : Form)
  /-- ld.z[.sx].ty (R228): Loads from a compressed region by logical offset. -/
  | ldZ (f : Form)
  /-- st[.strm].ty (R219): Stores bytes from each active lane. -/
  | st (f : Form)
  /-- ldsc[.mx].fmt.sc (R221): Loads a scaled line into a scaled register pair. -/
  | ldsc (f : Form)
  /-- stsc[.mx].fmt.sc (R221): Stores a scaled register pair as a scaled line. -/
  | stsc (f : Form)
  /-- stmc[.strm].ty (R222): Stores to every replica of a replicated region. -/
  | stmc (f : Form)
  /-- dpf.l1|l2 (R225): Data prefetch hint. -/
  | dpf (f : Form)
  /-- rcn (R224): Reconciles a replicated range from hive h's replica. -/
  | rcn (f : Form)
  /-- atom.op.ty.scope[.ord] (R231): Atomic read-modify-write. -/
  | atom (f : Form)
  /-- cas.ty.scope[.ord] (R232): Atomic compare and swap. -/
  | cas (f : Form)
  /-- ldfe.take.b32.scope (R233): Waits until its words are full, reads them and sets them empty. -/
  | ldfeTake (f : Form)
  /-- ldfe.peek.b32.scope (R233): Waits until its words are full and reads them. -/
  | ldfePeek (f : Form)
  /-- stfe.b32.scope (R233): Waits until its words are empty, writes them and sets them full. -/
  | stfe (f : Form)
  /-- stfe.force.b32.scope (R233): Writes its words and sets them full without waiting. -/
  | stfeForce (f : Form)
  /-- bar.meet[.cnt][.pb] (R236): Waits for the joined phase to complete, then acquires. -/
  | barMeet (f : Form)
  /-- bar.post[.cnt][.pb] (R236): Releases and arrives without waiting and returns the joined phase. -/
  | barPost (f : Form)
  /-- bar.hold (R236): Waits until PHASE passes p, then acquires. -/
  | barHold (f : Form)
  /-- bar.set (R236): Sets EXPECT, clears BROKEN and tests completion. -/
  | barSet (f : Form)
  /-- bind.kind (R240): Writes a binding-table entry. -/
  | bind (f : Form)
  /-- acq.scope (R242): Acquires the region of a binding entry. -/
  | acq (f : Form)
  /-- rel.scope (R242): Releases the region of a binding entry. -/
  | rel (f : Form)
  /-- fence.all.scope (R243): Full fence at a scope. -/
  | fenceAll (f : Form)
  /-- fence.bank (R244): Waits for the bank commands over a range. -/
  | fenceBank (f : Form)
  /-- mma.fa[.ba].fb[.bb].kK[.ca][.cb][.za] (R255): Gang matrix multiply of scratchpad operands into an accumulator tile. -/
  | mma (f : Form)
  /-- mmv.fv[.bv].fw.bw.kK.mM[.za] (R259): Gang matrix-vector product with bank-resident weights. -/
  | mmv (f : Form)
  /-- acc.zero (R262): Zeroes an accumulator tile. -/
  | accZero (f : Form)
  /-- acc.free (R262): Releases a tile binding. -/
  | accFree (f : Form)
  /-- acc.copy (R262): Copies one tile to another. -/
  | accCopy (f : Form)
  /-- acc.add (R262): Adds one tile into another. -/
  | accAdd (f : Form)
  /-- acc.rdr (R262): Reads a half row of a tile into lanes. -/
  | accRdr (f : Form)
  /-- acc.rdc (R262): Reads a half column of a tile into lanes. -/
  | accRdc (f : Form)
  /-- acc.wrr (R262): Writes a half row of a tile from lanes. -/
  | accWrr (f : Form)
  /-- drain[.rm].fmt[.blk].pcN[.free] (R266): Runs the epilogue over a tile and writes the output to scratchpad. -/
  | drain (f : Form)
  /-- epld.oF.nC (R263): Loads epilogue program entries. -/
  | epld (f : Form)
  /-- bclose (R276): Closes the group's open jobs into a batch. -/
  | bclose (f : Form)
  /-- bwait (R277): Waits for batches and acquires their destinations. -/
  | bwait (f : Form)
  /-- launch (R162): Launches work from a device program. -/
  | launch (f : Form)
deriving DecidableEq, Repr, Inhabited

/-- Rows of the table, part 1. -/
def Op.rows1 : List Op := [.nop, .br, .brx, .brxTab, .call, .fcall, .ret, .retTr, .trap, .ipf, .mfs, .mts, .setseed, .setseedGrp, .sadd, .ssub, .smul, .smad, .slog, .sshf, .scmp, .ssel, .smov, .sadr, .sbit, .smm]

/-- Rows of the table, part 2. -/
def Op.rows2 : List Op := [.add, .sub, .mul, .mad, .log, .shf, .cmp, .sel, .mov, .mm, .bit, .dot4, .movxLd, .movxSt, .fadd, .fmul, .fma, .fmm, .fcmp, .fsf, .fcls, .fsgn, .cvt, .bmax, .bscl, .qnt]

/-- Rows of the table, part 3. -/
def Op.rows3 : List Op := [.dqnt, .rblk, .pack, .shfl, .permLane, .permByte, .vote, .ballot, .ballotGrp, .red, .scan, .popc, .ld, .ldZ, .st, .ldsc, .stsc, .stmc, .dpf, .rcn, .atom, .cas, .ldfeTake, .ldfePeek, .stfe, .stfeForce]

/-- Rows of the table, part 4. -/
def Op.rows4 : List Op := [.barMeet, .barPost, .barHold, .barSet, .bind, .acq, .rel, .fenceAll, .fenceBank, .mma, .mmv, .accZero, .accFree, .accCopy, .accAdd, .accRdr, .accRdc, .accWrr, .drain, .epld, .bclose, .bwait, .launch]

/-- Every instruction-word row. -/
def Op.all : List Op := Op.rows1 ++ Op.rows2 ++ Op.rows3 ++ Op.rows4

/-- The row and the fields of an instruction word; `none` for an event. -/
def Instr.form? : Instr → Option (Op × Form)
  | .nop f => some (.nop, f)
  | .br f => some (.br, f)
  | .brx f => some (.brx, f)
  | .brxTab f => some (.brxTab, f)
  | .call f => some (.call, f)
  | .fcall f => some (.fcall, f)
  | .ret f => some (.ret, f)
  | .retTr f => some (.retTr, f)
  | .trap f => some (.trap, f)
  | .ipf f => some (.ipf, f)
  | .mfs f => some (.mfs, f)
  | .mts f => some (.mts, f)
  | .setseed f => some (.setseed, f)
  | .setseedGrp f => some (.setseedGrp, f)
  | .sadd f => some (.sadd, f)
  | .ssub f => some (.ssub, f)
  | .smul f => some (.smul, f)
  | .smad f => some (.smad, f)
  | .slog f => some (.slog, f)
  | .sshf f => some (.sshf, f)
  | .scmp f => some (.scmp, f)
  | .ssel f => some (.ssel, f)
  | .smov f => some (.smov, f)
  | .sadr f => some (.sadr, f)
  | .sbit f => some (.sbit, f)
  | .smm f => some (.smm, f)
  | .add f => some (.add, f)
  | .sub f => some (.sub, f)
  | .mul f => some (.mul, f)
  | .mad f => some (.mad, f)
  | .log f => some (.log, f)
  | .shf f => some (.shf, f)
  | .cmp f => some (.cmp, f)
  | .sel f => some (.sel, f)
  | .mov f => some (.mov, f)
  | .mm f => some (.mm, f)
  | .bit f => some (.bit, f)
  | .dot4 f => some (.dot4, f)
  | .movxLd f => some (.movxLd, f)
  | .movxSt f => some (.movxSt, f)
  | .fadd f => some (.fadd, f)
  | .fmul f => some (.fmul, f)
  | .fma f => some (.fma, f)
  | .fmm f => some (.fmm, f)
  | .fcmp f => some (.fcmp, f)
  | .fsf f => some (.fsf, f)
  | .fcls f => some (.fcls, f)
  | .fsgn f => some (.fsgn, f)
  | .cvt f => some (.cvt, f)
  | .bmax f => some (.bmax, f)
  | .bscl f => some (.bscl, f)
  | .qnt f => some (.qnt, f)
  | .dqnt f => some (.dqnt, f)
  | .rblk f => some (.rblk, f)
  | .pack f => some (.pack, f)
  | .shfl f => some (.shfl, f)
  | .permLane f => some (.permLane, f)
  | .permByte f => some (.permByte, f)
  | .vote f => some (.vote, f)
  | .ballot f => some (.ballot, f)
  | .ballotGrp f => some (.ballotGrp, f)
  | .red f => some (.red, f)
  | .scan f => some (.scan, f)
  | .popc f => some (.popc, f)
  | .ld f => some (.ld, f)
  | .ldZ f => some (.ldZ, f)
  | .st f => some (.st, f)
  | .ldsc f => some (.ldsc, f)
  | .stsc f => some (.stsc, f)
  | .stmc f => some (.stmc, f)
  | .dpf f => some (.dpf, f)
  | .rcn f => some (.rcn, f)
  | .atom f => some (.atom, f)
  | .cas f => some (.cas, f)
  | .ldfeTake f => some (.ldfeTake, f)
  | .ldfePeek f => some (.ldfePeek, f)
  | .stfe f => some (.stfe, f)
  | .stfeForce f => some (.stfeForce, f)
  | .barMeet f => some (.barMeet, f)
  | .barPost f => some (.barPost, f)
  | .barHold f => some (.barHold, f)
  | .barSet f => some (.barSet, f)
  | .bind f => some (.bind, f)
  | .acq f => some (.acq, f)
  | .rel f => some (.rel, f)
  | .fenceAll f => some (.fenceAll, f)
  | .fenceBank f => some (.fenceBank, f)
  | .mma f => some (.mma, f)
  | .mmv f => some (.mmv, f)
  | .accZero f => some (.accZero, f)
  | .accFree f => some (.accFree, f)
  | .accCopy f => some (.accCopy, f)
  | .accAdd f => some (.accAdd, f)
  | .accRdr f => some (.accRdr, f)
  | .accRdc f => some (.accRdc, f)
  | .accWrr f => some (.accWrr, f)
  | .drain f => some (.drain, f)
  | .epld f => some (.epld, f)
  | .bclose f => some (.bclose, f)
  | .bwait f => some (.bwait, f)
  | .launch f => some (.launch, f)
  | .lqprodWrite _ _ => none
  | .launchRecordRead _ => none
  | .gateEvaluation _ => none
  | .distributorDispatch _ => none
  | .stealRequest _ => none
  | .stealAnswer _ => none
  | .stolenCombPlace _ => none
  | .stealSilenceExpiry _ => none
  | .issueChoice => none
  | .pathBoost _ => none
  | .bundleArrival _ => none
  | .armRelease _ => none
  | .sidePathMerge _ => none
  | .icacheLineFill _ _ _ => none
  | .instructionComplete _ => none
  | .launchComplete _ => none
  | .abortComplete _ => none
  | .pageResolved _ => none
  | .pageFaultFatal _ => none
  | .managedPageResolve _ _ => none
  | .loaderLoad _ _ => none
  | .loadFinish _ => none
  | .loaderUnload _ _ => none
  | .preemptSave _ => none
  | .saveComplete _ => none
  | .preemptRestore _ => none
  | .restoredCombPlace _ _ => none
  | .gangTimeout _ _ => none
  | .matrixQueueAdvance _ => none
  | .jobAccept _ => none
  | .transformCopy _ => none
  | .transformConv _ => none
  | .transformConvt _ => none
  | .gather _ => none
  | .scatter _ => none
  | .chain _ => none
  | .bankMv _ => none
  | .bankAccm _ => none
  | .bankAmax _ => none
  | .bankFill _ => none
  | .bankCopy _ => none
  | .allReduce _ => none
  | .reduceScatter _ => none
  | .allGather _ => none
  | .broadcast _ => none
  | .inHopReduction _ => none
  | .snapshotArm _ => none
  | .snapshotCancel _ => none
  | .jobWriteLand _ => none
  | .jobStatus _ _ => none
  | .sbDrain _ _ => none
  | .cacheFill _ _ => none
  | .cacheDrop _ _ => none
  | .rdcWriteBack _ _ => none
  | .l1Invalidate _ _ => none
  | .loadRead _ _ => none
  | .atomicPerform _ _ => none
  | .release _ => none
  | .barMeetArrival _ => none
  | .rcnLineCopy _ _ _ => none
  | .bankForward _ => none
  | .bankFadd2 _ => none
  | .bankIadd2 _ => none
  | .bankIadd64 _ => none
  | .bankFmax2 _ => none
  | .bankWrite _ => none
  | .forkResolution _ _ _ => none
  | .noforkClear _ _ => none
  | .hopPass _ => none
  | .hopReduce _ => none
  | .hopDeliver _ => none
  | .hopCopy _ => none
  | .hopInvalid _ => none
  | .slotExpiry _ => none
  | .snapshotPageDrain _ => none
  | .podArrivalMessage _ => none
  | .podInitMessage _ => none
  | .podPendingMessage _ => none
  | .podCompletionMessage _ => none
  | .podBreakMessage _ => none
  | .podBreakNotice _ => none
  | .remoteTransaction _ => none
  | .hostMemAccess _ => none
  | .linkDown _ => none
  | .registerWrite _ _ _ => none
  | .devidWrite _ => none
  | .rwsplitWrite _ => none
  | .contextEnable _ _ => none
  | .contextDisable _ _ => none
  | .invalidatePage _ _ => none
  | .invalidateAll _ => none
  | .invalidationComplete _ => none
  | .polkeyWrite _ _ _ => none
  | .channelRetire _ _ => none
  | .lineRebuild _ _ => none
  | .idleEntry => none
  | .wake => none
  | .powerOn => none
  | .deviceReset => none
  | .firmwareVerifyRun _ => none
  | .firmwareVerifyDone => none
  | .writeReport _ => none
  | .reportWritten => none
  | .linkUp _ => none

/-- The instruction of a row with given fields. -/
def Op.mk : Op → Form → Instr
  | .nop, f => .nop f
  | .br, f => .br f
  | .brx, f => .brx f
  | .brxTab, f => .brxTab f
  | .call, f => .call f
  | .fcall, f => .fcall f
  | .ret, f => .ret f
  | .retTr, f => .retTr f
  | .trap, f => .trap f
  | .ipf, f => .ipf f
  | .mfs, f => .mfs f
  | .mts, f => .mts f
  | .setseed, f => .setseed f
  | .setseedGrp, f => .setseedGrp f
  | .sadd, f => .sadd f
  | .ssub, f => .ssub f
  | .smul, f => .smul f
  | .smad, f => .smad f
  | .slog, f => .slog f
  | .sshf, f => .sshf f
  | .scmp, f => .scmp f
  | .ssel, f => .ssel f
  | .smov, f => .smov f
  | .sadr, f => .sadr f
  | .sbit, f => .sbit f
  | .smm, f => .smm f
  | .add, f => .add f
  | .sub, f => .sub f
  | .mul, f => .mul f
  | .mad, f => .mad f
  | .log, f => .log f
  | .shf, f => .shf f
  | .cmp, f => .cmp f
  | .sel, f => .sel f
  | .mov, f => .mov f
  | .mm, f => .mm f
  | .bit, f => .bit f
  | .dot4, f => .dot4 f
  | .movxLd, f => .movxLd f
  | .movxSt, f => .movxSt f
  | .fadd, f => .fadd f
  | .fmul, f => .fmul f
  | .fma, f => .fma f
  | .fmm, f => .fmm f
  | .fcmp, f => .fcmp f
  | .fsf, f => .fsf f
  | .fcls, f => .fcls f
  | .fsgn, f => .fsgn f
  | .cvt, f => .cvt f
  | .bmax, f => .bmax f
  | .bscl, f => .bscl f
  | .qnt, f => .qnt f
  | .dqnt, f => .dqnt f
  | .rblk, f => .rblk f
  | .pack, f => .pack f
  | .shfl, f => .shfl f
  | .permLane, f => .permLane f
  | .permByte, f => .permByte f
  | .vote, f => .vote f
  | .ballot, f => .ballot f
  | .ballotGrp, f => .ballotGrp f
  | .red, f => .red f
  | .scan, f => .scan f
  | .popc, f => .popc f
  | .ld, f => .ld f
  | .ldZ, f => .ldZ f
  | .st, f => .st f
  | .ldsc, f => .ldsc f
  | .stsc, f => .stsc f
  | .stmc, f => .stmc f
  | .dpf, f => .dpf f
  | .rcn, f => .rcn f
  | .atom, f => .atom f
  | .cas, f => .cas f
  | .ldfeTake, f => .ldfeTake f
  | .ldfePeek, f => .ldfePeek f
  | .stfe, f => .stfe f
  | .stfeForce, f => .stfeForce f
  | .barMeet, f => .barMeet f
  | .barPost, f => .barPost f
  | .barHold, f => .barHold f
  | .barSet, f => .barSet f
  | .bind, f => .bind f
  | .acq, f => .acq f
  | .rel, f => .rel f
  | .fenceAll, f => .fenceAll f
  | .fenceBank, f => .fenceBank f
  | .mma, f => .mma f
  | .mmv, f => .mmv f
  | .accZero, f => .accZero f
  | .accFree, f => .accFree f
  | .accCopy, f => .accCopy f
  | .accAdd, f => .accAdd f
  | .accRdr, f => .accRdr f
  | .accRdc, f => .accRdc f
  | .accWrr, f => .accWrr f
  | .drain, f => .drain f
  | .epld, f => .epld f
  | .bclose, f => .bclose f
  | .bwait, f => .bwait f
  | .launch, f => .launch f

end Sys2Proof
end

