-- ==== Sys2Proof/WellFormed.lean ====
section
/-! DEFINITION. Which instructions the encoding admits: the static part of R49, R100 to R105 and R116, and each
entry's own table of SUB, TY, kinds and IMM. A form that fails is an illegal-instruction trap when it would issue. -/

namespace Sys2Proof

/-! ### Element types (R48) -/

/-- The 5-bit format code (R48). -/
def Fmt.code : Fmt → Nat
  | .i8 => 0x00 | .i16 => 0x01 | .i32 => 0x02 | .i64 => 0x03 | .n8 => 0x04 | .n16 => 0x05 | .n32 => 0x06
  | .n64 => 0x07 | .f32 => 0x08 | .bf16 => 0x09 | .f16 => 0x0A | .e4m3 => 0x0B | .e5m2 => 0x0C | .e2m3 => 0x0D
  | .e3m2 => 0x0E | .e2m1 => 0x0F | .tp8 => 0x10 | .tp6 => 0x11 | .e8m0 => 0x12

/-- The type that a format code names; reserved codes name none (R48). -/
def Fmt.ofCode : Nat → Option Fmt
  | 0x00 => some .i8 | 0x01 => some .i16 | 0x02 => some .i32 | 0x03 => some .i64 | 0x04 => some .n8
  | 0x05 => some .n16 | 0x06 => some .n32 | 0x07 => some .n64 | 0x08 => some .f32 | 0x09 => some .bf16
  | 0x0A => some .f16 | 0x0B => some .e4m3 | 0x0C => some .e5m2 | 0x0D => some .e2m3 | 0x0E => some .e3m2
  | 0x0F => some .e2m1 | 0x10 => some .tp8 | 0x11 => some .tp6 | 0x12 => some .e8m0 | _ => none

/-- Bits of one element (R174). -/
def Fmt.bits : Fmt → Nat
  | .e2m1 => 4 | .e2m3 => 6 | .e3m2 => 6 | .tp6 => 6
  | .i8 => 8 | .n8 => 8 | .e4m3 => 8 | .e5m2 => 8 | .tp8 => 8 | .e8m0 => 8
  | .i16 => 16 | .n16 => 16 | .f16 => 16 | .bf16 => 16
  | .i32 => 32 | .n32 => 32 | .f32 => 32 | .i64 => 64 | .n64 => 64

/-- K of R174: plain elements in one register, 1 for a 64-bit type. -/
def Fmt.perReg (t : Fmt) : Nat := if t.bits = 64 then 1 else if t.bits = 6 then 5 else 32 / t.bits

/-- The element types of R75, legal in a nested block (R48). -/
def Fmt.nestedOk : Fmt → Bool
  | .e4m3 | .e5m2 | .e2m3 | .e3m2 | .e2m1 | .i8 | .tp8 | .tp6 => true
  | _ => false

/-- The element types legal in an MX block (R48). -/
def Fmt.mxOk : Fmt → Bool
  | .e4m3 | .e5m2 | .e2m3 | .e3m2 | .e2m1 | .i8 => true
  | _ => false

/-- Whether block form `blk` is legal for a type (R48). -/
def Fmt.blkOk (t : Fmt) (blk : Nat) : Bool :=
  match blk with
  | 0 => true
  | 1 => t.nestedOk
  | 2 => t.mxOk
  | _ => false

/-- Whether a format code and a block form are a legal pair, by a further condition (R49). -/
def fmtBlkOk (code blk : Nat) (p : Fmt → Nat → Bool) : Bool :=
  match Fmt.ofCode code with
  | some t => t.blkOk blk && p t blk
  | none => false

/-! ### Fields of a form -/

namespace Form

/-- RM of an instruction that takes a rounding mode (R115). -/
def rm (f : Form) : Nat := (f.sub.extractLsb' 0 3).toNat
/-- The variant in SUB[5:3]. -/
def variant (f : Form) : Nat := (f.sub.extractLsb' 3 3).toNat
/-- A bit range of IMM as a number: `n` bits from bit `a`. -/
def immBits (f : Form) (a n : Nat) : Nat := (f.imm.extractLsb' a n).toNat
/-- FMT of family 0x4 (R188). -/
def fmt (f : Form) : Nat := f.immBits 0 5
/-- BLK of family 0x4 (R188). -/
def blk (f : Form) : Nat := f.immBits 5 2
/-- SFMT of family 0x4 (R188). -/
def sfmt (f : Form) : Nat := f.immBits 8 5
/-- SCOPE of families 0x6 and 0x7 (R211). -/
def scope (f : Form) : Nat := f.immBits 29 3
/-- ORD of families 0x6 and 0x7 (R211). -/
def ord (f : Form) : Nat := f.immBits 27 2
/-- DISP of families 0x6 and 0x7, sign-extended to 64 bits (R211). -/
def disp (f : Form) : W64 := (f.imm.extractLsb' 0 26).signExtend 64

end Form

/-! ### Source and destination kinds -/

namespace Src

/-- The zero field, which an unused source must hold (R105). -/
def zero (s : Src) : Bool := s == .vec 0
def isImm : Src → Bool
  | .immS | .immZ | .immF | .immH => true
  | _ => false
def isVec : Src → Bool
  | .vec _ | .vecAt _ => true
  | _ => false
def isLatch : Src → Bool
  | .latch _ => true
  | _ => false
def isScal : Src → Bool
  | .scal _ => true
  | _ => false
def isIdx : Src → Bool
  | .idx _ => true
  | _ => false
def isPred : Src → Bool
  | .pred _ => true
  | _ => false
def isAcc : Src → Bool
  | .acc _ => true
  | _ => false
def isSpec : Src → Bool
  | .spec _ => true
  | _ => false

/-- kind 1 or a latch (R145, R148). -/
def scalLatch (s : Src) : Bool := s.isScal || s.isLatch
/-- kind 1, a latch or x0 to x3: what a uniform field of families 0x6 to 0x8 accepts (R212, R255). -/
def uniform (s : Src) : Bool := s.isScal || s.isLatch || s.isIdx
/-- Operands of the scalar family (R141). -/
def scalar (s : Src) : Bool := s.uniform || s.isImm
/-- Operands of the lane integer family (R180). -/
def lane (s : Src) : Bool := s.scalar || s.isVec
/-- Operands of R183. -/
def float (s : Src) : Bool := s.isVec || s.scalLatch || s.isImm
/-- Address and data operands of families 0x6 and 0x7 (R212, R219). -/
def mem (s : Src) : Bool := s.isVec || s.uniform
/-- shfl's b (R198). -/
def shuffle (s : Src) : Bool := (match s with | .vec _ => true | _ => false) || s.scalar
/-- A predicate source (R198). -/
def predicate (s : Src) : Bool := s.isPred || s.isVec || s.isLatch
/-- Operands of mts, bclose and bwait (R158, R276). -/
def special (s : Src) : Bool := s.scalLatch || s == .immS || s == .immZ
/-- A kind-0 number that is a multiple of `n`; v[xK] is checked when it issues (R85, R174, R213). -/
def aligned (n : Nat) : Src → Bool
  | .vec k => k.toNat % n == 0
  | _ => true

end Src

namespace Dst

def isNone : Dst → Bool
  | .none _ => true
  | _ => false
/-- DKIND 3 with DIDX 0 (R105). -/
def zero (d : Dst) : Bool := d == .none 0
def isVec : Dst → Bool
  | .vec _ => true
  | _ => false
def isVecAt : Dst → Bool
  | .vecAt _ => true
  | _ => false
def isScal : Dst → Bool
  | .scal _ => true
  | _ => false
def isIdx : Dst → Bool
  | .idx _ => true
  | _ => false
def isPred : Dst → Bool
  | .pred _ => true
  | _ => false
def isAcc : Dst → Bool
  | .acc _ => true
  | _ => false
/-- DKIND 0, or v[x0] to v[x3]. -/
def lane (d : Dst) : Bool := d.isVec || d.isVecAt
def aligned (n : Nat) : Dst → Bool
  | .vec k => k.toNat % n == 0
  | _ => true

end Dst

/-- The registers that mts may name (R158). -/
def SReg.writable : SReg → Bool
  | .exm | .part | .prio | .gang | .seed | .nf | .fmode | .trapvec | .fstat => true
  | _ => false

namespace Ty

/-- The eight integer types of R181. -/
def int : Ty → Bool
  | .i8 | .i16 | .i32 | .i64 | .n8 | .n16 | .n32 | .n64 => true
  | _ => false
/-- i32, i64, n32, n64. -/
def wideInt : Ty → Bool
  | .i32 | .i64 | .n32 | .n64 => true
  | _ => false
def float : Ty → Bool
  | .f32 | .f16 | .bf16 => true
  | _ => false
/-- b8 to b128. -/
def access : Ty → Bool
  | .b8 | .b16 | .b32 | .b64 | .b128 => true
  | _ => false
/-- Width in bits of an element or of an access; 0 for the nameless type. -/
def bits : Ty → Nat
  | .none => 0 | .i8 => 8 | .i16 => 16 | .i32 => 32 | .i64 => 64 | .n8 => 8 | .n16 => 16 | .n32 => 32 | .n64 => 64
  | .f32 => 32 | .f16 => 16 | .bf16 => 16 | .b8 => 8 | .b16 => 16 | .b32 => 32 | .b64 => 64 | .b128 => 128 | .sc => 0
def signed : Ty → Bool
  | .i8 | .i16 | .i32 | .i64 => true
  | _ => false
/-- Registers that one lane operand of the type spans: a pair for 64-bit types (R174), four for b128 (R213). -/
def span (t : Ty) : Nat := if t.bits == 128 then 4 else if t.bits == 64 then 2 else 1

end Ty

/-- A legal rounding-mode code in an instruction field (R63). -/
def rmOk (rm : Nat) : Bool := rm != 5 && rm != 6

/-! ### The entries -/

/-- IMM is zero, or a source field reads it (R105, R179). -/
def immRead (f : Form) : Bool := f.s0.isImm || f.s1.isImm || f.s2.isImm || f.imm == 0

/-- The fields that every entry but a few leaves unused (R105). -/
def plain (f : Form) : Bool := !f.mod && immRead f

/-- NWB may be 1 with DKIND 0 or 1 only (R105, R111). -/
def nwbOk (f : Form) : Bool := !f.nwb || f.dst.isVec || f.dst.isScal

/-- The scalar family (R141): `n` operands. -/
def scalarOk (f : Form) (n : Nat) : Bool :=
  (f.dst.isScal || f.dst.isIdx) && (!f.nwb || f.dst.isScal) && plain f
    && f.s0.scalar && (if n ≥ 2 then f.s1.scalar else f.s1.zero) && (if n ≥ 3 then f.s2.scalar else f.s2.zero)

/-- The lane integer family (R180): `n` operands. -/
def laneOk (f : Form) (n : Nat) : Bool :=
  nwbOk f && plain f && f.s0.lane && (if n ≥ 2 then f.s1.lane else f.s1.zero)
    && (if n ≥ 3 then f.s2.lane || f.s2.isPred else f.s2.zero)

/-- A 64-bit lane operand or destination names an even register (R174). -/
def pairOk (f : Form) : Bool :=
  f.ty.bits != 64 || (f.s0.aligned 2 && f.s1.aligned 2 && f.s2.aligned 2)

/-- The lane floating-point entries with R183's kinds: `n` operands. -/
def floatOk (f : Form) (n : Nat) : Bool :=
  f.ty.float && nwbOk f && plain f && f.s0.float && (if n ≥ 2 then f.s1.float else f.s1.zero)
    && (if n ≥ 3 then f.s2.float else f.s2.zero)

/-- Family 0x4 (R188): no field of kind 3, TY 0, reserved IMM bits zero. -/
def blockOk (f : Form) : Bool :=
  !f.mod && nwbOk f && f.ty == .none && f.immBits 13 19 == 0 && f.immBits 7 1 == 0 && f.s2.zero

/-- A scaled operand's format fields: BLK 1 or 2, legal for FMT (R192 to R194). -/
def scaledFmtOk (f : Form) : Bool :=
  f.sfmt == 0 && f.blk != 0 && fmtBlkOk f.fmt f.blk (fun _ _ => true)

/-- A source of qnt's and rblk's scale (R192). -/
def scaleSrc (s : Src) : Bool := s.isVec || s.scalLatch

/-- Family 0x5 (R198): what every entry shares. -/
def crossOk (f : Form) : Bool := nwbOk f && plain f

/-- SUB of red and scan (R198): 0 to 5, and for f32 add, min and max only. -/
def reduceOk (f : Form) (s : Nat) : Bool :=
  match f.ty with
  | .i32 | .n32 => s ≤ 5
  | .f32 => s ≤ 2
  | _ => false

/-- The address fields SRC0, SRC1 and MOD (R212); `u` when the entry requires them uniform. -/
def addrOk (f : Form) (u : Bool) : Bool :=
  (if u then f.s0.uniform else f.s0.mem) && (if f.mod then (if u then f.s1.uniform else f.s1.mem) else f.s1.zero)

/-- A data register of b64 or b128 (R213). -/
def dataOk (s : Src) (t : Ty) : Bool :=
  s.mem && (match t with
    | .b64 => s.aligned 2
    | .b128 => s.isVec && s.aligned 4
    | _ => true)

/-- IMM with SCOPE = ORD = 0 (R211). -/
def immPlain (f : Form) : Bool := f.scope == 0 && f.ord == 0 && f.immBits 26 1 == 0

/-- IMM that carries SCOPE and ORD (R211). -/
def immScoped (f : Form) : Bool := f.scope != 7 && f.immBits 26 1 == 0

/-- st and stmc (R219, R222). -/
def storeOk (f : Form) : Bool :=
  f.sub.toNat ≤ 1 && f.ty.access && f.dst.zero && !f.nwb && addrOk f false && dataOk f.s2 f.ty && immPlain f

/-- ld, and ld.z by `z` (R218, R228). -/
def loadOk (f : Form) (z : Bool) : Bool :=
  (if z then f.rm == 4 else f.rm ≤ 3) && (f.sub.extractLsb' 4 2 == 0#2)
    && f.ty.access && (!f.sub.getLsbD 3 || f.ty == .b8 || f.ty == .b16)
    && (f.dst.lane || (f.dst.isScal && !z && f.ty != .b128)) && nwbOk f
    && (match f.ty with | .b64 => f.dst.aligned 2 | .b128 => f.dst.aligned 4 | _ => true)
    && (if z then f.s0.uniform && (if f.mod then f.s1.mem else f.s1.zero) else addrOk f f.dst.isScal)
    && f.s2.zero && immPlain f

/-- bar (R236): SUB[3] is pb, SUB[4] is cnt. -/
def barOk (f : Form) (arrives : Bool) : Bool :=
  f.ty == .none && (!f.nwb || f.dst.isScal) && f.sub.getLsbD 5 == false
    && (if f.mod then f.s2.uniform && f.imm == 0 else f.s2.zero && f.immBits 15 17 == 0)
    && (if arrives then
          (if f.sub.getLsbD 4 then f.s0.uniform else f.s0.zero) && (if f.sub.getLsbD 3 then f.s1.uniform else f.s1.zero)
        else f.variant == 0)

/-- A control transfer (R145). -/
def transferOk (f : Form) : Bool := f.ty == .none && f.dst.isNone && !f.nwb && !f.mod && f.s2.zero

/-- A branch target in SRC0 (R145). -/
def targetOk (f : Form) : Bool := (f.s0 == .immS) || (f.s0.scalLatch && f.imm == 0)

/-- Whether mma accepts an operand pair: the accumulator is i32 (`some true`), f32 (`some false`) or the pair is
refused (R256). -/
def mmaPair (fa : Fmt) (ba : Nat) (fb : Fmt) (bb : Nat) : Option Bool :=
  let narrow : Fmt → Bool := fun t => match t with
    | .e4m3 | .e5m2 | .e2m3 | .e3m2 | .e2m1 | .tp8 | .tp6 => true
    | _ => false
  if ba != 0 && bb != 0 then (if fa.blkOk ba && fb.blkOk bb then some false else none)
  else if ba == 0 && bb == 0 then
    if fa == .i8 && fb == .i8 then some true
    else if narrow fa && narrow fb then some false
    else if fa == .bf16 && fb == .bf16 then some false
    else if fa == .f16 && fb == .f16 then some false
    else none
  else none

/-- mma's IMM (R255). -/
def mmaOk (f : Form) : Bool :=
  match Fmt.ofCode (f.immBits 0 5), Fmt.ofCode (f.immBits 5 5) with
  | some fa, some fb => (mmaPair fa (f.immBits 10 2) fb (f.immBits 12 2)).isSome && f.immBits 28 4 == 0
  | _, _ => false

/-- mmv's formats: a scaled weight type, and a scaled vector type or plain bf16 (R259, R283). -/
def mmvFmtOk (fv bv fw bw : Nat) : Bool :=
  fmtBlkOk fw bw (fun _ b => b != 0) && fmtBlkOk fv bv (fun t b => b != 0 || t == .bf16)

/-- drain's output format (R266). -/
def drainFmtOk (fmt blk : Nat) : Bool :=
  fmtBlkOk fmt blk (fun t b => match t with
    | .f32 | .bf16 | .f16 | .i8 | .i16 | .i32 => b == 0
    | .e4m3 | .e5m2 | .e2m3 | .e3m2 | .e2m1 | .tp8 | .tp6 => true
    | _ => false)

/-- The SUB values of each row (R113 and each entry); rows that share an OPC share no SUB. -/
def Op.subOk (o : Op) (sub : BitVec 6) : Bool :=
  let n := sub.toNat
  let lo := n % 8
  let hi := n / 8
  match o with
  | .brxTab | .retTr | .setseedGrp | .movxSt | .permByte | .ballotGrp | .ldfePeek | .stfeForce | .fenceBank
  | .accFree => n == 1
  | .fcall | .ipf | .vote | .bind | .accCopy => if o == .accCopy then n == 2 else n ≤ 2
  | .sadd | .ssub | .smul | .smm | .add | .sub | .mul | .mad | .mm | .dot4 | .popc | .st | .stmc | .dpf => n ≤ 1
  | .slog | .log | .scmp | .cmp => n ≤ 5
  | .sshf | .shf | .fmm => n ≤ 4
  | .sbit | .bit | .fsgn | .shfl => n ≤ 3
  | .sadr => lo ≤ 4 && hi ≤ 1
  | .fadd => rmOk lo && hi ≤ 1
  | .fmul | .cvt | .qnt | .dqnt => rmOk lo && hi == 0
  | .fma => rmOk lo && hi ≤ 3
  | .fcmp => n ≤ 7
  | .fsf => rmOk lo && hi ≤ 6
  | .bmax => n ≤ 15
  | .pack => hi ≤ 1
  | .red => n ≤ 5
  | .scan => lo ≤ 5 && hi ≤ 1
  | .ld => lo ≤ 3 && hi ≤ 1
  | .ldZ => lo == 4 && hi ≤ 1
  | .ldsc | .stsc => true
  | .atom => n ≤ 9
  | .barMeet => lo == 0 && hi ≤ 3
  | .barPost => lo == 1 && hi ≤ 3
  | .barHold => n == 2
  | .barSet => n == 3
  | .accAdd => n == 3
  | .accRdr => n == 4
  | .accRdc => n == 5
  | .accWrr => n == 6
  | .nop | .br | .brx | .call | .ret | .trap | .mfs | .mts | .setseed | .smad | .ssel | .smov | .sel | .mov | .movxLd
  | .fcls | .bscl | .rblk | .permLane | .ballot | .rcn | .cas | .ldfeTake | .stfe | .acq | .rel | .fenceAll | .mma | .mmv
  | .accZero | .drain | .epld | .bclose | .bwait | .launch => n == 0

/-- The fields an entry admits besides SUB and PRED. -/
def Op.fieldsOk (o : Op) (f : Form) : Bool :=
  match o with
  | .nop => f.ty == .none && f.dst.zero && !f.nwb && f.s0.zero && f.s1.zero && f.s2.zero && !f.mod && f.imm == 0
  | .br | .call => transferOk f && targetOk f && f.s1.zero
  | .brx => transferOk f && f.s0.scalLatch && f.s1.zero && f.imm == 0
  | .brxTab => transferOk f && f.s0.scalLatch && f.s1.scalLatch && f.imm == 0
  | .fcall => transferOk f && (match f.sub.toNat with
      | 0 => targetOk f && f.s1.zero
      | 1 => targetOk f && (f.s1.isVec || f.s1.scalLatch)
      | _ => f.s0.scalLatch && (f.s1 == .immS || f.s1 == .immZ || f.s1 == .immF))
  | .ret => transferOk f && f.s0.zero && f.s1.zero && f.imm == 0
  | .retTr => transferOk f && f.s0.zero && f.s1.zero && f.imm == 0 && f.pred == 7
  | .trap => transferOk f && f.s0 == .immZ && f.s1.zero && f.immBits 16 16 == 0
  | .ipf => f.ty == .none && f.dst.zero && !f.nwb && !f.mod && targetOk f && f.s1.zero && f.s2.zero
  | .mfs => f.ty == .none && f.dst.isScal && f.s0.isSpec && f.s1.zero && f.s2.zero && !f.mod && f.imm == 0
  | .mts => f.ty == .none && (match f.dst with | .spec r => r.writable | _ => false) && !f.nwb && f.s0.special
      && f.s1.zero && f.s2.zero && plain f
  | .setseed | .setseedGrp => f.ty == .none && f.dst.zero && !f.nwb && (f.s0.scalLatch || f.s0.isImm) && f.s1.zero
      && f.s2.zero && plain f
  | .sadd | .ssub | .smul | .smm => f.ty.wideInt && scalarOk f 2
  | .smad => f.ty.wideInt && scalarOk f 3
  | .slog => f.ty == .none && scalarOk f 2
  | .sshf => (f.ty == .n32 || f.ty == .n64) && scalarOk f 2
  | .scmp => f.ty.wideInt && (scalarOk f 2 || (f.dst.isPred && !f.nwb && plain f && f.s0.scalar && f.s1.scalar && f.s2.zero))
  | .ssel => f.ty == .none && scalarOk f 3
  | .smov => f.ty == .none && scalarOk f 1
  | .sbit => (f.ty == .n32 || f.ty == .n64) && scalarOk f 1
  | .sadr => f.ty == .none && (if f.variant == 0 then scalarOk f 2
      else (f.dst.isScal || f.dst.isIdx) && nwbOk f && plain f && f.s0.zero && f.s1.scalar && f.s2.zero)
  | .add | .sub | .mul | .mm => f.ty.int && f.dst.lane && laneOk f 2 && pairOk f && (f.ty.bits != 64 || f.dst.aligned 2)
  | .mad => f.ty.int && f.dst.lane && laneOk f 3 && !f.s2.isPred && pairOk f && (f.ty.bits != 64 || f.dst.aligned 2)
  | .log => f.ty == .none && f.dst.lane && laneOk f 2
  | .shf => (f.ty == .n8 || f.ty == .n16 || f.ty == .n32 || f.ty == .n64) && f.dst.lane && laneOk f 2 && pairOk f
      && (f.ty.bits != 64 || f.dst.aligned 2)
  | .cmp => f.ty.wideInt && (f.dst.lane || f.dst.isPred) && laneOk f 2 && pairOk f
  | .sel => f.ty == .none && f.dst.lane && laneOk f 3
  | .mov => f.ty == .none && f.dst.lane && laneOk f 1
  | .bit => (f.ty == .n32 || f.ty == .n64) && f.dst.lane && laneOk f 1 && pairOk f && (f.ty.bits != 64 || f.dst.aligned 2)
  | .dot4 => (f.ty == .i8 || f.ty == .n8) && f.dst.lane && laneOk f 3 && !f.s2.isPred
  | .movxLd => f.ty == .none && f.dst.lane && nwbOk f && plain f && f.s0.isVec && f.s1.shuffle && f.s2.zero
  | .movxSt => f.ty == .none && f.dst.lane && !f.nwb && plain f && f.s0.lane && f.s1.shuffle && f.s2.zero
  | .fadd | .fmul => f.dst.lane && floatOk f 2
  | .fma => f.dst.lane && floatOk f 3
  | .fmm => f.dst.lane && floatOk f 2
  | .fcmp => f.ty == .f32 && (f.dst.lane || f.dst.isPred) && floatOk f 2
  | .fcls => (f.dst.lane || (f.dst.isPred && f.ty == .f32)) && f.ty.float && nwbOk f && plain f && f.s0.float
      && (f.s1.isScal || f.s1.isImm) && f.s2.zero
  | .fsf => f.dst.lane && floatOk f 1
  | .fsgn => f.dst.lane && floatOk f (if f.sub.toNat ≤ 1 then 1 else 2)
  | .cvt => blockOk f && f.blk == 0 && f.dst.lane && (f.s0.isVec || f.s0.isLatch) && f.s1.zero && (
      match Fmt.ofCode f.fmt, Fmt.ofCode f.sfmt with
      | some d, some s =>
        let wide : Fmt → Bool := fun t => t == .i32 || t == .n32 || t == .f32
        (wide d || wide s)
          && (s.bits != 64 || f.s0.aligned 2) && (d.bits != 64 || f.dst.aligned 2)
          && (!f.s0.isLatch || (s.bits != 64 && (!wide s || d.perReg == 1)))
      | _, _ => false)
  | .bmax => f.ty == .f32 && f.dst.isVec && f.imm == 0 && f.s0.isVec && f.s2.zero
      && (if f.mod then (match f.s1 with | .vec _ => true | .latch _ => true | _ => false) else f.s1.zero)
  | .bscl => blockOk f && f.sfmt == 0 && f.blk == 0 && fmtBlkOk f.fmt 1 (fun _ _ => true) && f.dst.isVec
      && (f.s0.isVec || f.s0.scalLatch) && f.s1.zero
  | .qnt => blockOk f && scaledFmtOk f && f.dst.isVec && f.dst.aligned 2 && f.s0.isVec && scaleSrc f.s1
  | .dqnt => blockOk f && scaledFmtOk f && f.dst.isVec && f.s0.isVec && f.s0.aligned 2 && f.s1.zero
  | .rblk => blockOk f && scaledFmtOk f && f.dst.isVec && f.dst.aligned 2 && f.s0.isVec && f.s0.aligned 2 && scaleSrc f.s1
  | .pack => blockOk f && f.sfmt == 0 && f.blk == 0 && f.dst.lane && (f.s0.isVec || f.s0.scalLatch)
      && (if f.variant == 0 then f.s1.zero else f.s1.isVec || f.s1.scalLatch)
      && fmtBlkOk f.fmt 0 (fun t _ => 2 ≤ t.perReg && f.rm < t.perReg)
  | .shfl => f.ty == .none && crossOk f && f.dst.isVec && (f.s0.isVec || f.s0.isLatch) && f.s1.shuffle && f.s2.zero
  | .permLane => f.ty == .none && crossOk f && f.dst.isVec && (f.s0.isVec || f.s0.isLatch) && f.s1.shuffle && f.s2.zero
  | .permByte => f.ty == .none && crossOk f && f.dst.isVec && f.s0.lane && f.s1.shuffle && f.s2.shuffle
  | .vote => f.ty == .none && crossOk f && (f.dst.isVec || f.dst.isPred) && f.s0.predicate && f.s1.zero && f.s2.zero
  | .ballot | .popc => f.ty == .none && crossOk f && f.dst.isVec && f.s0.predicate && f.s1.zero && f.s2.zero
  | .ballotGrp => f.ty == .none && crossOk f && f.dst.isScal && f.s0.predicate && f.s1.zero && f.s2.zero
  | .red => reduceOk f f.sub.toNat && crossOk f && f.dst.isVec && (f.s0.isVec || f.s0.isLatch) && f.s1.zero && f.s2.zero
  | .scan => reduceOk f f.rm && crossOk f && f.dst.isVec && (f.s0.isVec || f.s0.isLatch) && f.s1.zero && f.s2.zero
  | .ld => loadOk f false
  | .ldZ => loadOk f true
  | .st | .stmc => storeOk f
  | .ldsc => f.ty == .sc && f.dst.isVec && f.dst.aligned 2 && nwbOk f && f.s0.uniform && f.s1.zero && f.s2.zero && !f.mod
      && immPlain f && fmtBlkOk (f.sub.toNat % 32) (f.sub.toNat / 32 + 1) (fun _ _ => true)
  | .stsc => f.ty == .sc && f.dst.zero && !f.nwb && f.s2.isVec && f.s2.aligned 2 && f.s0.uniform && f.s1.zero && !f.mod
      && immPlain f && fmtBlkOk (f.sub.toNat % 32) (f.sub.toNat / 32 + 1) (fun _ _ => true)
  | .dpf => f.ty == .none && f.dst.zero && !f.nwb && addrOk f false && f.s2.zero && immPlain f
  | .rcn => f.ty == .none && f.dst.zero && !f.nwb && f.s0.uniform && f.s1.uniform && f.s2.zero && !f.mod
      && f.immBits 2 30 == 0
  | .atom => (f.ty == .b32 || (f.ty == .b64 && f.sub.toNat != 9)) && (f.dst.isVec || f.dst.isScal || f.dst.zero) && nwbOk f
      && (f.ty != .b64 || f.dst.aligned 2) && addrOk f f.dst.isScal && dataOk f.s2 f.ty && immScoped f
  | .cas => (f.ty == .b32 || f.ty == .b64) && (f.dst.isVec || f.dst.isScal || f.dst.zero) && nwbOk f
      && (f.ty != .b64 || f.dst.aligned 2) && !f.mod && (if f.dst.isScal then f.s0.uniform else f.s0.mem)
      && dataOk f.s1 f.ty && dataOk f.s2 f.ty && immScoped f
  | .ldfeTake | .ldfePeek => f.ty == .b32 && (f.dst.isVec || f.dst.isScal) && nwbOk f && addrOk f f.dst.isScal && f.s2.zero
      && immScoped f && f.ord == 0
  | .stfe | .stfeForce => f.ty == .b32 && f.dst.zero && !f.nwb && addrOk f false && dataOk f.s2 f.ty && immScoped f
      && f.ord == 0
  | .barMeet => barOk f true && f.dst.zero
  | .barPost => barOk f true && (f.dst.isScal || f.dst.zero)
  | .barHold => barOk f false && f.dst.zero && f.s0.zero && f.s1.uniform
  | .barSet => barOk f false && f.dst.zero && f.s0.uniform && f.s1.zero
  | .bind => f.ty == .none && f.dst.zero && !f.nwb && f.s0.uniform && f.s1.uniform && f.s2.uniform && !f.mod
      && f.immBits 4 28 == 0
  | .acq | .rel => f.ty == .none && f.dst.zero && !f.nwb && f.s0.zero && f.s1.zero && f.s2.zero && !f.mod
      && f.scope ≤ 5 && f.immBits 4 25 == 0
  | .fenceAll => f.ty == .none && f.dst.zero && !f.nwb && f.s0.zero && f.s1.zero && f.s2.zero && !f.mod
      && f.scope ≤ 5 && f.immBits 0 29 == 0
  | .fenceBank => f.ty == .none && f.dst.zero && !f.nwb && f.s0.uniform && f.s1.uniform && f.s2.zero && !f.mod && f.imm == 0
  | .mma => f.ty == .none && f.pred == 7 && f.dst.isAcc && !f.nwb && f.s0.uniform && f.s1.uniform && f.s2.zero && !f.mod
      && mmaOk f
  | .mmv => f.ty == .none && f.pred == 7 && !f.nwb && (if f.mod then f.dst.zero else f.dst.isAcc) && f.s0.uniform
      && f.s1.uniform && f.s2.uniform && mmvFmtOk (f.immBits 0 5) (f.immBits 5 2) (f.immBits 7 5) (f.immBits 12 2)
  | .accZero | .accFree => f.ty == .none && f.dst.isAcc && !f.nwb && f.s0.zero && f.s1.zero && f.s2.zero && plain f
  | .accCopy | .accAdd => f.ty == .none && f.dst.isAcc && !f.nwb && f.s0.isAcc && f.s1.zero && f.s2.zero && plain f
  | .accRdr | .accRdc => f.ty == .none && f.dst.lane && nwbOk f && f.s0.isAcc && f.s1.scalar && f.s2.zero && plain f
  | .accWrr => f.ty == .none && f.dst.isAcc && !f.nwb && (f.s0.isVec || f.s0.isLatch) && f.s1.scalar && f.s2.zero && plain f
  | .drain => f.ty == .none && f.pred == 7 && f.dst.zero && !f.nwb && f.s0.isAcc && f.s1.scalLatch && f.s2.scalLatch
      && !f.mod && f.immBits 17 15 == 0 && rmOk (f.immBits 7 3) && drainFmtOk (f.immBits 0 5) (f.immBits 5 2)
  | .epld => f.ty == .none && f.dst.zero && !f.nwb && f.s0.scalLatch && f.s1.zero && f.s2.zero && !f.mod
      && f.immBits 12 20 == 0 && f.immBits 0 6 + f.immBits 6 6 + 1 ≤ 64
  | .bclose | .bwait => f.ty == .none && (f.dst.isScal || f.dst.zero) && !f.nwb && f.s0.special && f.s1.zero && f.s2.zero
      && plain f
  | .launch => f.ty == .none && (f.dst.isScal || f.dst.zero) && nwbOk f && f.s0.scalLatch && f.s1.zero && f.s2.zero && plain f

/-- An instruction word that the encoding admits (R116); PRED 0b1111 is never admitted (R104). -/
def Op.legal (o : Op) (f : Form) : Bool := o.subOk f.sub && f.pred != 15 && o.fieldsOk f

/-! ### Events -/

/-- A path reference that can name a path: a group of at most 16, path indices 0 to 5 and three continuations. -/
def PathRef.ok (r : PathRef) : Bool := r.group < 16 && r.path < 9

/-- The parts of a packet header fit their fields (R333). -/
def Packet.ok (p : Packet) : Bool :=
  p.nhop ≤ 8 && p.hops.length == p.nhop && p.rop < 16 && p.fmt < 32 && p.blk < 4 && p.src < 1024 && p.cid < 65536
    && p.chunk < 65536 && p.step < 2 ^ 64 && p.contrib < 65536 && p.ncont < 65536 && p.len < 2 ^ 32
    && p.hops.all (fun h => h.1 < 16 && h.2 < 1024)

/-- Whether an instruction is one that can be written down: a legal word, or an event that names a part the device
has (R9, R10, R324, R327, R331). -/
def Instr.wellFormed (i : Instr) : Bool :=
  match i.form? with
  | some (o, f) => o.legal f
  | none =>
    match i with
    | .lqprodWrite c _ | .launchRecordRead c | .loaderLoad c _ | .loadFinish c | .loaderUnload c _ | .preemptSave c
    | .saveComplete c | .preemptRestore c | .contextEnable c _ | .contextDisable c _ | .invalidatePage c _
    | .invalidateAll c | .invalidationComplete c => c < 64
    | .restoredCombPlace c _ => c < 64
    | .managedPageResolve c page => c < 64 && page < 2 ^ 40
    | .polkeyWrite c k _ => c < 64 && k < 4
    | .distributorDispatch h | .stealRequest h | .stealAnswer h | .stolenCombPlace h | .stealSilenceExpiry h => h < 4
    | .pathBoost r | .bundleArrival r | .armRelease r | .sidePathMerge r | .pageResolved r | .pageFaultFatal r
    | .barMeetArrival r => r.ok
    | .icacheLineFill core asid _ => core < 256 && asid < 65536
    | .matrixQueueAdvance core | .l1Invalidate core _ => core < 256
    | .noforkClear core _ => core < 256
    | .rdcWriteBack h _ => h < 4
    | .cacheFill k _ | .cacheDrop k _ => (match k with | .l1 core => core < 256 | .rdc h => h < 4)
    | .loadRead _ lane | .atomicPerform _ lane => lane < 32
    | .sbDrain _ rep | .rcnLineCopy _ _ rep => rep < 4
    | .hopPass p | .hopReduce p | .hopDeliver p | .hopCopy p | .hopInvalid p => p.ok
    | .linkDown k | .linkUp k => k < 2
    | .registerWrite x n _ => x < 2 ^ 20 && 0 < n && n ≤ 64
    | .channelRetire t p => t < 8 && p < 64
    | .lineRebuild t _ => t < 8
    | .podArrivalMessage m | .podInitMessage m | .podPendingMessage m | .podCompletionMessage m | .podBreakMessage m
    | .podBreakNotice m => m.n < 16 && m.dev < 1024
    | .remoteTransaction t => t.src < 1024 && t.va < 2 ^ 56
    | .hostMemAccess a => a.addr < 2 ^ 39
    | _ => true

end Sys2Proof
end

