-- ==== Sys2Proof/Decode.lean ====
section
/-! DEFINITION. Decoding bundles and instruction words (R90 to R105, R113, R114), and the encoder written from the
same tables. Every word that is not an instruction is refused. -/

namespace Sys2Proof

/-! ### Bytes (R3) -/

/-- Little-endian number of a list of bytes (R3). -/
def leNat : List Byte → Nat
  | [] => 0
  | b :: bs => b.toNat + 256 * leNat bs

/-- `n` little-endian bytes of a number (R3). -/
def leBytes (n v : Nat) : List Byte :=
  match n with
  | 0 => []
  | k + 1 => BitVec.ofNat 8 v :: leBytes k (v / 256)

/-! ### Field codes -/

/-- Indexes of the named special registers (R102). -/
def SReg.code : SReg → Nat
  | .exm => 0x40 | .part => 0x41 | .prio => 0x42 | .gang => 0x43 | .seed => 0x44 | .nf => 0x45 | .fmode => 0x46
  | .fdepth => 0x47 | .spbase => 0x48 | .spsize => 0x49 | .combid => 0x4A | .groupid => 0x4B | .core => 0x4C
  | .batch => 0x4D | .trapvec => 0x4E | .fstat => 0x4F | .karg => 0x50

/-- The special register of an index (R102). -/
def SReg.ofCode : Nat → Option SReg
  | 0x40 => some .exm | 0x41 => some .part | 0x42 => some .prio | 0x43 => some .gang | 0x44 => some .seed
  | 0x45 => some .nf | 0x46 => some .fmode | 0x47 => some .fdepth | 0x48 => some .spbase | 0x49 => some .spsize
  | 0x4A => some .combid | 0x4B => some .groupid | 0x4C => some .core | 0x4D => some .batch | 0x4E => some .trapvec
  | 0x4F => some .fstat | 0x50 => some .karg | _ => none

/-- A 10-bit source field: kind in [9:8], index in [7:0] (R99, R101 to R103) (DEDUCED, log 99). -/
def Src.encode : Src → Nat
  | .vec n => n.toNat
  | .scal n => 0x100 + n.toNat
  | .latch k => 0x200 + k.toNat
  | .pred n => 0x208 + n.toNat
  | .idx k => 0x210 + k.toNat
  | .vecAt k => 0x214 + k.toNat
  | .acc n => 0x220 + n.toNat
  | .spec r => 0x200 + r.code
  | .immS => 0x300
  | .immZ => 0x301
  | .immF => 0x302
  | .immH => 0x303

/-- The operand that a source field names; reserved and illegal values name none (R101 to R103). -/
def Src.decode (w : Nat) : Option Src :=
  let i := w % 256
  match w / 256 with
  | 0 => some (.vec (BitVec.ofNat 8 i))
  | 1 => if i < 64 then some (.scal (BitVec.ofNat 6 i)) else none
  | 2 =>
    if i < 4 then some (.latch (BitVec.ofNat 2 i))
    else if i < 8 then none
    else if i < 16 then some (.pred (BitVec.ofNat 3 i))
    else if i < 20 then some (.idx (BitVec.ofNat 2 i))
    else if i < 24 then some (.vecAt (BitVec.ofNat 2 i))
    else if i < 32 then none
    else if i < 48 then some (.acc (BitVec.ofNat 4 i))
    else (SReg.ofCode i).map Src.spec
  | 3 =>
    match i with
    | 0 => some .immS
    | 1 => some .immZ
    | 2 => some .immF
    | 3 => some .immH
    | _ => none
  | _ => none

/-- The 10-bit destination field: DKIND in [9:8], DIDX in [7:0] (R99, R100, R102). -/
def Dst.encode : Dst → Nat
  | .vec n => n.toNat
  | .scal n => 0x100 + n.toNat
  | .pred n => 0x208 + n.toNat
  | .idx k => 0x210 + k.toNat
  | .vecAt k => 0x214 + k.toNat
  | .acc n => 0x220 + n.toNat
  | .spec r => 0x200 + r.code
  | .none j => 0x300 + j.toNat

/-- The destination that a destination field names (R100, R102). -/
def Dst.decode (w : Nat) : Option Dst :=
  let i := w % 256
  match w / 256 with
  | 0 => some (.vec (BitVec.ofNat 8 i))
  | 1 => if i < 64 then some (.scal (BitVec.ofNat 6 i)) else Option.none
  | 2 =>
    if i < 8 then Option.none
    else if i < 16 then some (.pred (BitVec.ofNat 3 i))
    else if i < 20 then some (.idx (BitVec.ofNat 2 i))
    else if i < 24 then some (.vecAt (BitVec.ofNat 2 i))
    else if i < 32 then Option.none
    else if i < 48 then some (.acc (BitVec.ofNat 4 i))
    else (SReg.ofCode i).map Dst.spec
  | 3 => some (.none (BitVec.ofNat 8 i))
  | _ => Option.none

/-- TY code (R114); the two tables share no name but the nameless type. -/
def Ty.code : Ty → Nat
  | .none => 0 | .i8 => 1 | .i16 => 2 | .i32 => 3 | .i64 => 4 | .n8 => 5 | .n16 => 6 | .n32 => 7 | .n64 => 8
  | .f32 => 9 | .f16 => 10 | .bf16 => 11
  | .b8 => 1 | .b16 => 2 | .b32 => 3 | .b64 => 4 | .b128 => 5 | .sc => 6

/-- The arithmetic table of R114. -/
def Ty.arith : Nat → Option Ty
  | 0 => some .none | 1 => some .i8 | 2 => some .i16 | 3 => some .i32 | 4 => some .i64 | 5 => some .n8
  | 6 => some .n16 | 7 => some .n32 | 8 => some .n64 | 9 => some .f32 | 10 => some .f16 | 11 => some .bf16
  | _ => Option.none

/-- The access table of R114. -/
def Ty.ofAccess : Nat → Option Ty
  | 0 => some .none | 1 => some .b8 | 2 => some .b16 | 3 => some .b32 | 4 => some .b64 | 5 => some .b128
  | 6 => some .sc | _ => Option.none

/-- TY read through the table of the word's family (R114). -/
def Ty.decode (opc ty : Nat) : Option Ty :=
  match opc / 16 with
  | 6 | 7 => Ty.ofAccess ty
  | 0 | 9 => if ty = 0 then some .none else Option.none
  | _ => Ty.arith ty

/-- The major opcode of a row (R113). -/
def Op.opc : Op → Nat
  | .nop => 0x00 | .br => 0x01 | .brx => 0x02 | .brxTab => 0x02 | .call => 0x03 | .fcall => 0x04 | .ret => 0x05
  | .retTr => 0x05 | .trap => 0x06 | .ipf => 0x07 | .mfs => 0x08 | .mts => 0x09 | .setseed => 0x0A
  | .setseedGrp => 0x0A | .sadd => 0x10 | .ssub => 0x11 | .smul => 0x12 | .smad => 0x13 | .slog => 0x14
  | .sshf => 0x15 | .scmp => 0x16 | .ssel => 0x17 | .smov => 0x18 | .sadr => 0x19 | .sbit => 0x1A | .smm => 0x1B
  | .add => 0x20 | .sub => 0x21 | .mul => 0x22 | .mad => 0x23 | .log => 0x24 | .shf => 0x25 | .cmp => 0x26
  | .sel => 0x27 | .mov => 0x28 | .mm => 0x29 | .bit => 0x2A | .dot4 => 0x2B | .movxLd => 0x2C | .movxSt => 0x2C
  | .fadd => 0x30 | .fmul => 0x31 | .fma => 0x32 | .fmm => 0x33 | .fcmp => 0x34 | .fsf => 0x35 | .fcls => 0x36
  | .fsgn => 0x37 | .cvt => 0x40 | .bmax => 0x41 | .bscl => 0x42 | .qnt => 0x43 | .dqnt => 0x44 | .rblk => 0x45
  | .pack => 0x46 | .shfl => 0x50 | .permLane => 0x51 | .permByte => 0x51 | .vote => 0x52 | .ballot => 0x53
  | .ballotGrp => 0x53 | .red => 0x54 | .scan => 0x55 | .popc => 0x56 | .ld => 0x60 | .ldZ => 0x60 | .st => 0x61
  | .ldsc => 0x62 | .stsc => 0x63 | .stmc => 0x64 | .dpf => 0x65 | .rcn => 0x66 | .atom => 0x70 | .cas => 0x71
  | .ldfeTake => 0x72 | .ldfePeek => 0x72 | .stfe => 0x73 | .stfeForce => 0x73 | .barMeet => 0x74 | .barPost => 0x74
  | .barHold => 0x74 | .barSet => 0x74 | .bind => 0x75 | .acq => 0x76 | .rel => 0x77 | .fenceAll => 0x78
  | .fenceBank => 0x78 | .mma => 0x80 | .mmv => 0x81 | .accZero => 0x82 | .accFree => 0x82 | .accCopy => 0x82
  | .accAdd => 0x82 | .accRdr => 0x82 | .accRdc => 0x82 | .accWrr => 0x82 | .drain => 0x83 | .epld => 0x84
  | .bclose => 0x90 | .bwait => 0x91 | .launch => 0x92

/-- The row that an OPC and a SUB select among some rows (R113). -/
def Op.select (opc : Nat) (sub : BitVec 6) : List Op → Option Op
  | [] => none
  | o :: os => if o.opc == opc && o.subOk sub then some o else Op.select opc sub os

/-! ### Instruction words (R99) -/

/-- The fields of an instruction word (R99), when every operand and the type are named. -/
def decodeForm (w : BitVec 96) : Option Form :=
  match Ty.decode (w.extractLsb' 88 8).toNat (w.extractLsb' 78 4).toNat,
      Dst.decode (w.extractLsb' 64 10).toNat, Src.decode (w.extractLsb' 53 10).toNat,
      Src.decode (w.extractLsb' 43 10).toNat, Src.decode (w.extractLsb' 33 10).toNat with
  | some ty, some d, some a, some b, some c =>
    some { sub := w.extractLsb' 82 6, ty := ty, pred := w.extractLsb' 74 4, dst := d, nwb := w.getLsbD 63,
           s0 := a, s1 := b, s2 := c, mod := w.getLsbD 32, imm := w.extractLsb' 0 32 }
  | _, _, _, _, _ => none

/-- The row and the fields of an instruction word; `none` where R116 makes it an illegal instruction. -/
def decodeOp (w : BitVec 96) : Option (Op × Form) :=
  match decodeForm w with
  | none => none
  | some f =>
    match Op.select (w.extractLsb' 88 8).toNat f.sub Op.all with
    | none => none
    | some o => if o.legal f then some (o, f) else none

/-- The instruction of a word, or `none` for an illegal instruction (R116). -/
def decodeWord (w : BitVec 96) : Option Instr := (decodeOp w).map fun p => Op.mk p.1 p.2

/-- The word of a row and fields, from the layout of R99. -/
def encodeOp (o : Op) (f : Form) : BitVec 96 :=
  BitVec.ofNat 8 o.opc ++ f.sub ++ BitVec.ofNat 4 f.ty.code ++ f.pred ++ BitVec.ofNat 10 f.dst.encode
    ++ BitVec.ofBool f.nwb ++ BitVec.ofNat 10 f.s0.encode ++ BitVec.ofNat 10 f.s1.encode
    ++ BitVec.ofNat 10 f.s2.encode ++ BitVec.ofBool f.mod ++ f.imm

/-- The 96-bit words of an instruction: one for an instruction row, none for an event, which has no encoding. -/
def encode (i : Instr) : List (BitVec 96) :=
  match i.form? with
  | some (o, f) => [encodeOp o f]
  | none => []

/-! ### Bundles (R90, R91) -/

/-- One slot's control field (R91). -/
structure Ctl where
  valid : Bool
  dist  : Nat
  wait  : BitVec 12
  setf  : Nat
  /-- reserved bits [2:0] -/
  resv  : BitVec 3
deriving DecidableEq, Repr, Inhabited

/-- A bundle (R90, R91). -/
structure Bundle where
  ctls   : List Ctl
  join   : Bool
  joinId : Nat
  fin    : Bool
  /-- the bundle-level reserved field is zero, and JOINID is zero while JOIN is 0 (R96) -/
  clean  : Bool
  words  : List (BitVec 96)
deriving DecidableEq, Repr, Inhabited

/-- A slot's control field from its 24 bits (R91). -/
def Ctl.decode (c : BitVec 24) : Ctl :=
  { valid := c.getLsbD 23, dist := (c.extractLsb' 19 4).toNat, wait := c.extractLsb' 7 12,
    setf := (c.extractLsb' 3 4).toNat, resv := c.extractLsb' 0 3 }

/-- A bundle from its 64 bytes (R90, R91). -/
def Bundle.decode (bs : List Byte) : Bundle :=
  let c : BitVec 128 := BitVec.ofNat 128 (leNat (bs.take 16))
  { ctls := [Ctl.decode (c.extractLsb' 0 24), Ctl.decode (c.extractLsb' 24 24), Ctl.decode (c.extractLsb' 48 24),
      Ctl.decode (c.extractLsb' 72 24)],
    join := c.getLsbD 96, joinId := (c.extractLsb' 97 8).toNat, fin := c.getLsbD 105,
    clean := (c.extractLsb' 106 22).toNat == 0 && (c.getLsbD 96 || (c.extractLsb' 97 8).toNat == 0),
    words := [BitVec.ofNat 96 (leNat ((bs.drop 16).take 12)), BitVec.ofNat 96 (leNat ((bs.drop 28).take 12)),
      BitVec.ofNat 96 (leNat ((bs.drop 40).take 12)), BitVec.ofNat 96 (leNat ((bs.drop 52).take 12))] }

namespace Bundle

def ctl (b : Bundle) (k : Nat) : Ctl := (b.ctls[k]?).getD default
def word (b : Bundle) (k : Nat) : BitVec 96 := (b.words[k]?).getD 0
def valid (b : Bundle) (k : Nat) : Bool := (b.ctl k).valid

/-- The first valid slot from slot `k` on (R41). -/
def nextValid (b : Bundle) (k : Nat) : Option Nat := ([0, 1, 2, 3].filter fun j => k ≤ j && b.valid j).head?

/-- Whether slot `k` is the last valid slot (R95, R97). -/
def lastValid (b : Bundle) (k : Nat) : Bool := b.valid k && (b.nextValid (k + 1)).isNone

/-- Whether the control word allows slot `k` to issue: R96, with a bundle-level fault at the first valid slot. -/
def ctlOk (b : Bundle) (k : Nat) : Bool :=
  let c := b.ctl k
  c.resv == 0 && !(12 ≤ c.setf && c.setf ≤ 14) && (b.clean || b.nextValid 0 != some k)

end Bundle

/-- The rows that R97 names: a control transfer stands in the last valid slot. -/
def Op.transfers : Op → Bool
  | .br | .brx | .brxTab | .call | .fcall | .ret | .retTr | .trap => true
  | _ => false

/-- What slot `k` of a bundle holds: an instruction, or `none` for an illegal one (R96, R97, R116). -/
def Bundle.slotOp (b : Bundle) (k : Nat) : Option (Op × Form) :=
  if b.ctlOk k then
    match decodeOp (b.word k) with
    | some (o, f) => if o.transfers && !b.lastValid k then none else some (o, f)
    | none => none
  else none

/-- The bytes of a bundle that holds one word in slot 0 with control field `ctl` and nothing else (R90, R91). -/
def oneWordBundle (ctl : Nat) (w : BitVec 96) : List Byte :=
  leBytes 16 ctl ++ leBytes 12 w.toNat ++ List.replicate 36 0

/-- The instruction that the decoder reads from a word whose bits are `w`; `nbits` of them are given and the others
are zero. The word is laid out as the device stores it (R90) and read back. -/
def decodeTableWord (nbits w : Nat) : Option Instr :=
  decodeWord (BitVec.ofNat 96 (leNat (leBytes 12 (w % 2 ^ nbits))))

end Sys2Proof
end

