-- ==== Sys2Proof/Config.lean ====
section
/-! DEFINITION. What one device fixes or the spec leaves open: the fused values and the free values. Every constant
here is opaque: no proof can learn a value of it. The entries of the assumption log say where each is used. -/

namespace Sys2Proof.Config

/-- Free: the event that happens next when nothing else is decided (R288; log 1). -/
opaque freeEvent : Nat → Instr
/-- Free: how many free events happen before every pending move has its turn (R288, R293; log 1). -/
opaque patience : Nat → Nat
/-- Fused: the bank of its pseudo-channel in which a byte of a tower lies; the arguments are the tower and the byte (R287, R299;
log 51). -/
opaque bankOf : Nat → Nat → Nat
/-- Free: a scratchpad byte of a comb's window at comb start (R20; log 4). The arguments are the comb and the key. -/
opaque freeByte : Nat → Nat → Byte
/-- Free: lane `L` of vector register `n` at comb start (R20; log 4). The arguments are the group's number, n and L. -/
opaque freeLane : Nat → Nat → Nat → W32
/-- Free: a latency within the bounds of a rule (R178, R214; log 5). -/
opaque freeLatency : Nat → Nat
/-- Free: a 64-bit value that the spec leaves open (log 20). -/
opaque freeWord : Nat → W64
/-- Free: a choice of page, swap page or scratchpad run (log 14). -/
opaque freePick : Nat → Nat
/-- Free: the parity group of a line of a tower (R328; log 16). -/
opaque parityGroup : Nat → Nat → Nat
/-- Free: whether a parity group of a tower has a line on a pseudo-channel (R328; log 16). -/
opaque groupOn : Nat → Nat → Nat → Bool
/-- Fused: the wake time of A4 in µs, which R347 does not state; none if no LTOL admits A4 (log 97). -/
opaque offWake : Option Nat
/-- Fused: byte k of the identity key's 32-byte seed (R351; log 7). -/
opaque idSeed : Nat → Byte
/-- Fused: byte k of the 16-byte serial number (R351; log 7). -/
opaque serial : Nat → Byte
/-- Fused: byte k of the 64-byte digest of the firmware signer's key (R349; log 7). -/
opaque fwKeyDigest : Nat → Byte

end Sys2Proof.Config
end

