-- ==== Sys2Proof/Machine/State.lean ====
section
/-! DEFINITION. The state of the device: everything the spec gives the machine, as plain data, and the state after
reset. Counts, cycles, addresses used as keys and serial numbers are natural numbers; what software reads as words is
a bit vector. -/

namespace Sys2Proof.Machine

/-! ### Stops -/

/-- Reasons for which the machine could stop with a fault (DEDUCED, log 101). -/
inductive Fault where
  /-- Raised by no meaning: every row of the table answers a next state. Safe. -/
  | none
deriving DecidableEq, Repr, Inhabited

/-- Reasons for which the model could refuse an instruction. -/
inductive Refusal where
  /-- Raised by an arm of `exec` whose instruction has no meaning yet. Safe. -/
  | notModelled (mnemonic : String)
deriving DecidableEq, Repr, Inhabited

/-- The outcome of a step. -/
abbrev Out (σ : Type) := Host.Outcome σ Fault Refusal

/-! ### Memory -/

/-- Memory as one list of cells. A key is `region * 2^88 + address`. The regions are: 0 tower (R10), 1 tower
sidecars (R82), 2 scratchpads (R11), 3 scratchpad sidecars, 4 host (R205), 5 spire buffer, 6 spire sidecars, 7 memory
of other devices (R330), 8 their sidecars. A sidecar key is `line * 32 + k` for byte k of a line (R82). -/
structure Memory where
  cells : List Host.Cell := []
deriving DecidableEq, Repr, Inhabited

/-! ### Small parts -/

/-- A vector register: 32 lanes of 32 bits. -/
abbrev VReg := List W32

/-- A bypass latch (R108, R109). -/
inductive Latch where
  | lost
  | vec (v : VReg)
  | scal (v : W64)
deriving DecidableEq, Repr, Inhabited

/-- A place in program order (R289): the stream, the position in it, and for each earlier stream the position up to
which its accesses come before. -/
structure Order where
  sid  : Nat := 0
  pos  : Nat := 0
  past : List (Nat × Nat) := []
deriving DecidableEq, Repr, Inhabited

/-- A return address (R137, R149): a code object and an offset; `fork` names the fork whose fcall pushed it. -/
structure RetAddr where
  obj  : Nat
  off  : Nat
  fork : Option Nat := none
deriving DecidableEq, Repr, Inhabited

/-- An entry of a reconvergence stack (R152, R153). -/
structure RecEntry where
  pc     : Nat
  pl     : Lanes
  exm    : Lanes
  pend   : List (Nat × Nat) := []
  rstack : List RetAddr := []
  depth  : Nat := 0
  jid    : Nat := 0
  held   : Bool := false
  /-- the part returned through the entry of this fork and waits for its resolution (R313) -/
  returned : Option Nat := none
  /-- forks whose caller had this entry before the fcall: it is no part of their callees -/
  outer : List Nat := []
deriving DecidableEq, Repr, Inhabited

/-- Kinds of paths (R173), and continuations (R305). -/
inductive PathKind where
  | main | arm | side | cont
deriving DecidableEq, Repr, Inhabited

/-- What an access asks of a page (R325). -/
inductive Access where
  | read | write | exec
deriving DecidableEq, Repr, Inhabited

/-- One lane's translation fault (R165). `code` is set when the fault is fatal whatever the pager does. -/
structure LaneFault where
  lane : Nat
  va   : W64
  need : Access
  code : Option Nat := none
deriving DecidableEq, Repr, Inhabited

/-- Why a path does not run. -/
inductive Wait where
  /-- it runs -/
  | run
  /-- it stands at a JOIN bundle or at its END and waits for the other arm or for its side path (R154, R166) -/
  | point
  /-- parked (R165); `fetch` for a fetch fault, `side` when it left an origin behind -/
  | parked (faults : List LaneFault) (fetch : Bool) (side : Bool)
  /-- held in a rendezvous latch (R249) -/
  | gang
  /-- stands at the return target of an unresolved fork (R313) -/
  | returned (fork : Nat)
  /-- a continuation that stalls until commit (R311, R312) -/
  | deferred
  /-- stopped by a save (R172) -/
  | stopped
deriving DecidableEq, Repr, Inhabited

/-- What a trap record holds that the device restores from (R164); `arrival` when the trap was taken on arriving at the
bundle. -/
structure TrapRec where
  code    : Nat
  slot    : Nat
  bundle  : Nat
  exmsave : Lanes
  lanes   : Lanes
  info    : W64
  s63save : W64
  arrival : Bool := false
  /-- the trap slot that holds the record: the path index under which the trap was taken -/
  home    : Nat := 0
  /-- a host fault record was written for it already (R165, R167) -/
  recorded : Bool := false
deriving DecidableEq, Repr, Inhabited

/-- A path (R41). Index 0 to 5 for the paths of R173, 6 to 8 for continuations. -/
structure Path where
  pix       : Nat := 0
  kind      : PathKind := .main
  /-- the path a side or parked path left (R166) -/
  origin    : Option Nat := none
  /-- bundle address -/
  pc        : Nat := 0
  /-- the next instruction is the first valid slot from this one on -/
  slot      : Nat := 0
  /-- the arrival of R98 has been performed at this bundle -/
  arrived   : Bool := false
  pl        : Lanes := 0
  exm       : Lanes := 0
  /-- pending flags, each with the flight that makes it done (R93) -/
  pend      : List (Nat × Nat) := []
  depth     : Nat := 0
  rstack    : List RetAddr := []
  cstack    : List RecEntry := []
  latches   : List Latch := [.lost, .lost, .lost, .lost]
  /-- how often the latches were lost: an instruction issued before the last loss fills none (R109) -/
  epoch     : Nat := 0
  inHandler : Bool := false
  trap      : Option TrapRec := none
  lastIssue : Option Nat := none
  nextOk    : Nat := 0
  unchosen  : Nat := 0
  boosted   : Bool := false
  fdepth    : BitVec 2 := 0
  born      : Nat := 0
  wait      : Wait := .run
  /-- the phase that bar.meet's arrival step joined (R215) -/
  joined    : Option W32 := none
  /-- released from the wait for its side path at the JOIN or END where it stands, though the side path lives (R166) -/
  freed     : Bool := false
  /-- so released at the bar that is its next instruction (R166) -/
  freedBar  : Bool := false
  /-- released from the wait for the other arm at the JOIN bundle where it stands (R154) -/
  freedArm  : Bool := false
  sid       : Nat := 0
  past      : List (Nat × Nat) := []
  /-- the last valid slot of an END bundle issued as a gang instruction: the path ends when it proceeds (R95) -/
  endAfter  : Bool := false
  /-- returned from a trap to go on after its slot, once its bundle's line is there (R164) -/
  goOn      : Bool := false
deriving DecidableEq, Repr, Inhabited

/-- A register lane or register that a continuation wrote, with its value (R309). -/
structure Over where
  /-- 0 vector register, 1 scalar, 2 x, 3 predicate -/
  file : Nat
  num  : Nat
  lane : Nat
  val  : W64
deriving DecidableEq, Repr, Inhabited

/-- A store that a continuation holds back (R310): payload and sidecar bytes by key, per lane. -/
structure SpecEntry where
  ord   : Order := {}
  lane  : Nat := 0
  va    : W64 := 0
  tt    : Nat := 0
  data  : List (Nat × Byte) := []
  side  : List (Nat × Byte) := []
  reps  : List Nat := []
deriving DecidableEq, Repr, Inhabited

/-- An unresolved fork (R305 to R315). -/
structure Fork where
  num      : Nat
  site     : Nat
  /-- the shadow group slot -/
  shadow   : Nat
  /-- path index of the continuation -/
  pix      : Nat
  lanes    : Lanes
  /-- lanes of the caller's PL that its EXM disabled: outside the fork (R305) -/
  outside  : Lanes := 0
  /-- the caller's call depth before the push (R305) -/
  depth    : Nat := 0
  pred     : List (Option VReg) := []
  reads    : List Lanes := []
  wrote    : List Over := []
  undo     : List Nat := []
  scalarW  : Bool := false
  crossL   : Bool := false
  specSB   : List SpecEntry := []
  tracked  : List Nat := []
  /-- the bytes that the continuation's loads have read otherwise than from its own held-back stores (R303) -/
  seen     : List (Nat × Byte) := []
  /-- the values of BATCH that the continuation has read (R316) -/
  batches  : List W64 := []
  squash   : Bool := false
  /-- NF bits held (R72): those of uniform results, and those of each lane -/
  nf       : BitVec 7 := 0
  nfl      : List (BitVec 7) := []
  /-- the caller's stream before the fork and its position, and the callee's first stream -/
  calleeSid : Nat := 0
  contSid   : Nat := 0
deriving DecidableEq, Repr, Inhabited

/-- A barrier (R235). -/
structure Barrier where
  expect  : W32 := 0
  arrived : W32 := 0
  pending : W64 := 0
  phase   : W32 := 0
  broken  : Bool := false
deriving DecidableEq, Repr, Inhabited

/-- An entry of the binding table (R239). -/
structure Binding where
  kind   : Nat := 0
  obj    : W64 := 0
  base   : W64 := 0
  extent : W64 := 0
deriving DecidableEq, Repr, Inhabited

/-- A job of a batch or an open job (R268, R276): its number, its status entry and its destination footprint. -/
structure BatchJob where
  num    : Nat
  status : Option W64 := none
  dst    : List (Nat × Nat) := []
deriving DecidableEq, Repr, Inhabited

/-- A batch (R275, R276): its number, its record and its jobs with their status entries. -/
structure Batch where
  num    : W32
  record : W64 := 0
  jobs   : List BatchJob := []
deriving DecidableEq, Repr, Inhabited

/-- A group (R13, R102, R155, R159, R267, R275). -/
structure Group where
  gidx      : Nat := 0
  gslot     : Nat := 0
  s         : List W64 := []
  x         : List W16 := []
  q         : List Lanes := []
  v         : List VReg := []
  logw      : BitVec 3 := 5
  prio      : BitVec 4 := 0
  /-- The model's own: the cycle at which the last write of PRIO completed, and the PRIO that choices of that cycle use (R25). -/
  prioAt    : Nat := 0
  prioOld   : BitVec 4 := 0
  gang      : W16 := 0
  seed      : W64 := 0
  nf        : BitVec 7 := 0
  satf      : Bool := false
  frm       : BitVec 3 := 0
  trapvec   : W64 := 0
  closed    : W32 := 0
  done      : W32 := 0
  prevWait  : W32 := 0
  card      : List (Option W64) := [none, none, none, none]
  openJobs  : List BatchJob := []
  batches   : List Batch := []
  /-- tower page of the stack page, and the aperture base at group start (R155, R353) -/
  stack     : Option Nat := none
  stkap     : Nat := 0
  /-- split id and split depth of the open dual path (R152) -/
  dual      : Option (Nat × Nat) := none
  launched  : Lanes := 0
  exited    : Lanes := 0
  paths     : List Path := []
  forks     : List Fork := []
  ended     : Bool := false
deriving DecidableEq, Repr, Inhabited

/-- A bound accumulator tile (R252): its elements row-major. -/
structure Tile where
  num   : Nat
  isInt : Bool := false
  el    : List W32 := []
  used  : Nat := 0
  spill : Option Nat := none
deriving DecidableEq, Repr, Inhabited

/-- A claimed rendezvous latch (R249): the GANG value, the word, the members that issued with their flights, and the
cycle of the first issue. -/
structure GangLatch where
  gang    : W16
  op      : Op
  form    : Form
  members : List (Nat × Nat)
  since   : Nat
deriving DecidableEq, Repr, Inhabited

/-- A comb (R13, R18, R23). -/
structure Comb where
  id      : Nat
  launch  : Nat
  cx      : Nat := 0
  cy      : Nat := 0
  cz      : Nat := 0
  core    : Nat := 0
  offh    : Bool := false
  /-- offset of the window in the core's array, its virtual base and its size -/
  spOff   : Nat := 0
  spBase  : W64 := 0
  scratch : Nat := 0
  /-- the aperture base the comb started under (R208) -/
  spap    : Nat := 0
  salt    : Nat := 0
  g       : Nat := 1
  regs    : Nat := 16
  lanes   : Nat := 32
  shadow  : List Nat := []
  /-- every group slot that the comb takes (R19) -/
  slots   : List Nat := []
  binds   : List Binding := []
  bars    : List Barrier := []
  eprog   : List W32 := []
  tiles   : List Tile := []
  gangs   : List GangLatch := []
  groups  : List Group := []
deriving DecidableEq, Repr, Inhabited

/-! ### In-flight instructions -/

/-- A register write that a flight makes when it completes (R107). -/
inductive RegWrite where
  | s (n : Nat) (v : W64)
  | x (k : Nat) (v : W16)
  | q (n : Nat) (mask val : Lanes)
  | v (n : Nat) (mask : Lanes) (val : VReg)
  | sreg (r : SReg) (v : W64)
  | bind (e : Nat) (b : Binding)
deriving DecidableEq, Repr, Inhabited

/-- What one lane of a flight still has to do in memory. -/
inductive AccKind where
  | load
  /-- atomic: SUB of R231 -/
  | atom (op : Nat)
  | cas
deriving DecidableEq, Repr, Inhabited

/-- One lane's access (R291): where it is performed, and the value it returned. -/
structure Acc where
  lane : Nat
  va   : W64
  tt   : Nat := 0
  key  : Nat
  size : Nat
  kind : AccKind := .load
  a    : W64 := 0
  b    : W64 := 0
  /-- sidecar bytes that are read with the payload bytes (R84) -/
  side : List Nat := []
  /-- the value read, as a number of `size` bytes and then the sidecar bytes -/
  val  : Option Nat := none
deriving DecidableEq, Repr, Inhabited

/-- What a flight does when its accesses are done. -/
inductive Fin where
  /-- nothing but its register writes -/
  | regs
  /-- the loaded values go to the destination (R218, R231) -/
  | loaded (dst : Dst) (num : Nat) (ty : Ty) (sx : Bool)
  /-- the lanes' stores enter the store buffer (R214) -/
  | store
  /-- a scaled line goes to a register pair (R221) -/
  | scaled (num : Nat) (fmt : Fmt) (mx : Bool)
  /-- the performed entry of the matrix queue completes it (R246) -/
  | engine
deriving DecidableEq, Repr, Inhabited

/-- A synchronising step that a release move performs (R294). -/
inductive SyncStep where
  | post (b : Nat) (count : W32) (bytes : W64) (dst : Dst)
  | set (b : Nat) (expect : W32)
  | hold (b : Nat)
  | acq (e : Nat) (scope : Nat)
  | rel (e : Nat) (scope : Nat)
  | fence (scope : Nat)
  | fenceBank (base extent : W64)
  | fe (take set : Bool) (words : List Nat) (scope : Nat)
  | atomRel (scope : Nat)
  | launchRec (addr : W64) (dst : Dst)
  | bwait (n : W32)
  | bclose (record : W64) (dst : Dst)
deriving DecidableEq, Repr, Inhabited

/-- An issued instruction that has not completed (R93, R107). -/
structure Flight where
  fid    : Nat
  comb   : Nat
  group  : Nat
  path   : Nat
  op     : Op := .nop
  form   : Form := {}
  bundle : Nat := 0
  slot   : Nat := 0
  setf   : Option Nat := none
  /-- first cycle in which it may complete -/
  due    : Nat := 0
  lanes  : Lanes := 0
  ord    : Order := {}
  writes : List RegWrite := []
  latch  : Option Latch := none
  epoch  : Nat := 0
  nf     : BitVec 7 := 0
  /-- the flags by lane, where the result is made lane by lane -/
  nfl    : List (BitVec 7) := []
  accs   : List Acc := []
  stores : List SpecEntry := []
  fin    : Fin := .regs
  sync   : Option SyncStep := none
  /-- ORD of an atomic (R241) and its scope -/
  orde   : Nat := 0
  scope  : Nat := 0
  /-- the bindings as they stood at issue (R240) -/
  binds  : List Binding := []
  /-- the fork whose continuation issued it -/
  cont   : Option Nat := none
  /-- lines, and for each the replicas that rcn still has to write (R301) -/
  rcn    : List (Nat × Nat) := []
  /-- what it waits for: the bank commands of a fence.bank (R244), the store-buffer entries of a store to GO (R268) -/
  cmds   : List Nat := []
  /-- FMODE of the group at issue (R73) -/
  frm    : BitVec 3 := 0
  satf   : Bool := false
  /-- operands of an entry of the matrix queue -/
  ops    : List W64 := []
deriving DecidableEq, Repr, Inhabited

/-! ### The ordering machine (R287) -/

/-- An entry of a store buffer. -/
structure SBEntry where
  eid    : Nat
  core   : Nat
  launch : Nat
  comb   : Nat
  group  : Nat
  fid    : Nat := 0
  ctx    : Nat := 0
  asid   : Nat := 0
  ord    : Order := {}
  va     : W64 := 0
  tt     : Nat := 0
  data   : List (Nat × Byte) := []
  side   : List (Nat × Byte) := []
  /-- replicas still to be written: one for a plain store, four for stmc (R301) -/
  reps   : List Nat := []
  /-- the GO store of a job also carries the FMODE.RM of its group (R278) -/
  frm    : BitVec 3 := 0
  satf   : Bool := false
  /-- entries that a GO waits for: stores completed before it issued (R268) -/
  after  : List Nat := []
deriving DecidableEq, Repr, Inhabited

/-- A copy of a line in an L1 or an RDC; `dirty` lists the bytes (0 to 127, sidecar 128 to 159) not written back, and `born`
is the serial number at the moment the copy was taken (R220). -/
structure CacheLine where
  cache : CacheId
  line  : Nat
  data  : List Byte := []
  side  : List Byte := []
  dirty : List Nat := []
  born  : Nat := 0
deriving DecidableEq, Repr, Inhabited

/-- A line of an instruction cache (R169). -/
structure ILine where
  core : Nat
  asid : Nat
  line : Nat
  data : List Byte := []
  used : Nat := 0
deriving DecidableEq, Repr, Inhabited

/-- A bank command (R261, R299). -/
structure BankCmd where
  num   : Nat
  launch : Nat := 0
  comb  : Nat
  group : Nat
  ord   : Order := {}
  key   : Nat
  bop   : Nat := 0
  a     : W64 := 0
  /-- a BANK-scope atomic's flight and lane -/
  atom  : Option (Nat × Nat) := none
  queued : Bool := false
deriving DecidableEq, Repr, Inhabited

/-- A cached translation (R206, R324): the leaf that a walk found, or the fault it met. -/
structure TlbEntry where
  asid : Nat
  /-- virtual page number in 64 KiB pages -/
  page : Nat
  leaf : W64 := 0
  big  : Bool := false
  code : Option Nat := none
deriving DecidableEq, Repr, Inhabited

/-- An entry of a core's matrix engine queue (R251). -/
structure QEntry where
  core    : Nat
  comb    : Nat
  op      : Op
  form    : Form
  /-- the flights of the members, lowest GIDX first -/
  fids    : List Nat := []
  ops     : List W64 := []
  seed    : W64 := 0
  frm     : BitVec 3 := 0
  satf    : Bool := false
  /-- k-steps already completed (R258) -/
  kdone   : Nat := 0
  /-- the translated weight range of an mmv: keys and lengths of its pieces (R259) -/
  keys    : List (Nat × Nat) := []
  /-- once its turn has come: the units of bytes that it has still to read, and the bytes it has read (R257, R261, R288) -/
  todo    : Option (List (List Nat)) := none
  got     : List (Nat × Byte) := []
  /-- once it has computed: its line writes that have still to be performed, its flags and a lane result -/
  out     : Option (List (List (Nat × Byte)) × BitVec 7 × Option VReg) := none
deriving DecidableEq, Repr, Inhabited

/-- The caches, buffers and queues of the ordering machine. -/
structure Coh where
  sb    : List SBEntry := []
  lines : List CacheLine := []
  il    : List ILine := []
  ireq  : List (Nat × Nat × Nat) := []
  tlb   : List TlbEntry := []
  bank  : List BankCmd := []
  mq    : List QEntry := []
deriving DecidableEq, Repr, Inhabited

/-! ### Launches, objects, contexts -/

/-- A copy of a kernel descriptor (R131). -/
structure Desc where
  entry    : Nat := 0
  gen      : Nat := 3
  forken   : Bool := false
  shadow   : Nat := 0
  scr4k    : Nat := 0
  regs     : Nat := 16
  g        : Nat := 1
  prio     : BitVec 4 := 0
  gangw    : Nat := 0
  keymask  : Nat := 0
  tbase    : Nat := 0
  stx      : W64 := 0
  sty      : W64 := 0
  stz      : W64 := 0
  codebase : Nat := 0
  codelen  : Nat := 0
  nbind    : Nat := 0
  bindtab  : Nat := 0
deriving DecidableEq, Repr, Inhabited

/-- A span barrier's name within its launch (R234): origin, log sizes, number. -/
structure SpanId where
  x  : Nat
  y  : Nat
  lw : Nat
  lh : Nat
  n  : Nat
deriving DecidableEq, Repr, Inhabited

/-- The first trap of an aborted launch (R167, R168). -/
structure FaultRec where
  code   : Nat := 0
  lanes  : Lanes := 0
  core   : Nat := 0
  gslot  : Nat := 0
  slot   : Nat := 0
  bundle : W64 := 0
  info   : W64 := 0
  comb   : W64 := 0
  launch : W64 := 0
deriving DecidableEq, Repr, Inhabited

/-- An accepted launch (R29 to R34). -/
structure Launch where
  num     : Nat
  ctx     : Nat
  recAddr : W64 := 0
  lid     : W64 := 0
  device  : Bool := false
  gx      : Nat := 1
  gy      : Nat := 1
  gz      : Nat := 1
  lanes   : Nat := 1
  x0      : Nat := 0
  y0      : Nat := 0
  w       : Nat := 1
  h       : Nat := 1
  pclass  : Nat := 0
  gates   : List (Nat × W64) := []
  gated   : Bool := false
  doneEn  : Bool := false
  didx    : Nat := 0
  karg    : W64 := 0
  desc    : Desc := {}
  g       : Nat := 1
  regs    : Nat := 16
  scratch : Nat := 0
  shadow  : Nat := 0
  binds   : List (Nat × Binding) := []
  obj     : Nat := 0
  /-- linear indexes of the combs taken from the queue -/
  started : List Nat := []
  ended   : Nat := 0
  spans   : List (SpanId × Barrier) := []
  /-- pod barriers that a path arrived at or waited on (R332) -/
  podUsed : List Nat := []
  aborted : Bool := false
  /-- groups of combs that have gone, with their comb's id, whose jobs may still want a status (R275, R286) -/
  orphans : List (Nat × Group) := []
  /-- the cycle of the last evaluation of its gates (R33) -/
  looked  : Nat := 0
  /-- the model's own: the serial number when the launch began: at its acceptance, or when its gates were met (R33, R220) -/
  began   : Nat := 0
deriving DecidableEq, Repr, Inhabited

/-- A distributor (R39, R40). `answer` is the victim's answer: a comb's launch and linear index, or empty. -/
structure Dist where
  victim : Option Nat := none
  answer : Option (Option (Nat × Nat)) := none
  silent : Option Nat := none
deriving DecidableEq, Repr, Inhabited

/-- A loaded code object in a context (R135 to R137, R354). -/
structure CodeObj where
  handle  : W32
  /-- the resident code object: shared by contexts that loaded equal code (R136) -/
  obj     : Nat
  imgBase : Nat := 0
  codeVa  : Nat := 0
  codeLen : Nat := 0
  hash    : List Byte := []
  vsize1  : Nat := 0
  vsize2  : List Nat := []
  kernels : List Nat := []
  /-- virtual page and tower page of shared and of private image pages -/
  shared  : List (Nat × Nat) := []
  priv    : List (Nat × Nat) := []
  unloaded : Bool := false
deriving DecidableEq, Repr, Inhabited

/-- A managed page held in a tower (R326): its virtual page, its tower page, whether it is a 2 MiB page, its last
touch. Page numbers count 64 KiB. -/
structure Held where
  page  : Nat
  tower : Nat
  big   : Bool := false
  used  : Nat := 0
deriving DecidableEq, Repr, Inhabited

/-- A pod-barrier entry of a context page (R331). -/
structure PodReg where
  pexp  : W32 := 0
  pv    : Bool := false
  phome : BitVec 10 := 0
deriving DecidableEq, Repr, Inhabited

/-- A pod barrier at its home device (R331, R332). -/
structure PodBar where
  n       : Nat
  bar     : Barrier := {}
  phased  : List Nat := []
  users   : List Nat := []
deriving DecidableEq, Repr, Inhabited

/-- What a member knows of a pod barrier: the phases completed and whether it broke. -/
structure PodView where
  n      : Nat
  phase  : W32 := 0
  broken : Bool := false
  /-- the home holds no such barrier: its context is disabled (R332) -/
  gone   : Bool := false
  /-- the home has been told that this device uses the barrier (R332) -/
  waited : Bool := false
  /-- the home has told this device of the barrier: its phase, its break or its end (R332) -/
  told   : Bool := false
deriving DecidableEq, Repr, Inhabited

/-- Why the launch queue is not read (R28). -/
inductive LqStop where
  | run
  /-- overflow: writes of LQPROD and of LQLOG since -/
  | overflow (prod log : Bool)
  /-- an unreadable record: resumes at the next write of LQPROD -/
  | unreadable
deriving DecidableEq, Repr, Inhabited

/-- The registers a loader doorbell copied (R135). -/
structure LoadCmd where
  addr   : W64
  len    : W32
  base   : W64
  sigreq : Bool
  polkey : List W64
deriving DecidableEq, Repr, Inhabited

/-- A saved comb with where its record lies (R173). -/
structure SavedComb where
  comb : Comb
  base : Nat
  back : Bool := false
  /-- the comb's entries of the matrix queue and its flights (R173, R258) -/
  queue : List QEntry := []
  flights : List Flight := []
  /-- the sidecar bytes of its window -/
  side : List Byte := []
deriving DecidableEq, Repr, Inhabited

/-- The state of a context and of its register page (R27, R134, R168, R171, R324, R331, R353). -/
structure Ctx where
  en       : Bool := false
  asid     : W16 := 0
  ptroot   : W64 := 0
  poolmax  : W32 := 0
  resmax   : W32 := 0
  poolused : W32 := 0
  /-- a running invalidation: of one page, or of all -/
  inval    : Option (Option Nat) := none
  swapbase : W64 := 0
  swaplen  : W32 := 0
  lqbase   : W64 := 0
  lqlog    : BitVec 5 := 0
  lqprod   : W32 := 0
  lqcons   : W32 := 0
  lqstop   : LqStop := .run
  ccbase   : W64 := 0
  objaddr  : W64 := 0
  objlen   : W32 := 0
  imgbase  : W64 := 0
  handle   : W32 := 0
  lstatus  : Byte := 0
  sigreq   : Bool := false
  polkey   : List W64 := [0, 0, 0, 0]
  loading  : Option LoadCmd := none
  ctxtv    : W64 := 0
  frbase   : W64 := 0
  frlog    : BitVec 5 := 0
  frprod   : W32 := 0
  frcons   : W32 := 0
  frdrop   : W32 := 0
  pstate   : BitVec 2 := 0
  savebase : W64 := 0
  savelen  : W64 := 0
  spap     : BitVec 28 := 0xFFFFFFF
  stkap    : BitVec 26 := 0x3FFFFFE
  pods     : List PodReg := []
  podBars  : List PodBar := []
  podViews : List PodView := []
  objs     : List CodeObj := []
  /-- tables that the loader allocated: the tower address of the entry that links each, and its tower page (R354) -/
  tabs     : List (Nat × Nat) := []
  nextHandle : W32 := 1
  /-- device-issued launches accepted so far (R168) -/
  devLaunches : Nat := 0
  held     : List Held := []
  swapped  : List Nat := []
  /-- home hive of each touched 2 MiB granule (R206) -/
  homes    : List (Nat × Nat) := []
  saved    : List SavedComb := []
  saveSalt : Nat := 0
  /-- enabled again while launches of its former life have not ended: their end frees what it held (R324) -/
  reviving : Bool := false
deriving DecidableEq, Repr, Inhabited

/-! ### Jobs, collectives, snapshots -/

/-- A write that a job has not landed yet: keys with bytes, bytes copied from other keys when it lands, whether it adds
f32 (`false`) or i32 (`true`) words to what it finds (R283), and how many of its bytes count for PENDING (R273). -/
structure JobWrite where
  data  : List (Nat × Byte) := []
  copy  : List (Nat × Nat) := []
  add   : Option Bool := none
  count : Nat := 0
deriving DecidableEq, Repr, Inhabited

/-- Where a job stands. -/
inductive JobPhase where
  | waiting
  /-- it reads its sources: lines that it may still read before its result is decided (R300) -/
  | reading (todo : List Nat)
  | running
  /-- its result is decided: status and detail, given when its writes have landed -/
  | ending (code detail : Nat)
deriving DecidableEq, Repr, Inhabited

/-- The spire's part of a collective job (R284, R337 to R340): the descriptor copy; from the start on, the ranks' devices,
this job's rank, the EXPECT and the remaining route that it gives to slots, and its chunks. -/
structure Coll where
  desc     : List W64 := []
  peers    : List Nat := []
  rank     : Nat := 0
  expect   : Nat := 0
  route    : List (Nat × Nat) := []
  chunks   : Nat := 0
  /-- the lines of its contribution that it may still read, once all local jobs have started (R300) -/
  todo     : Option (List Nat) := none
  /-- the contribution has been sent -/
  sent     : Bool := false
  /-- local jobs of its instance that have received a status since it was accepted -/
  gone     : Nat := 0
  /-- packets that have no verdict yet in this device, and the chunks of packets sent to other devices -/
  here     : Nat := 0
  away     : List Nat := []
  /-- the first failure met in this device, with its DETAIL, the failures that other devices tell, and the chunks that failed -/
  fail     : Option (Nat × Nat) := none
  far      : List Nat := []
  bad      : List Nat := []
  /-- a result is routed to this job; the parts delivered: contribution and chunk -/
  want     : Bool := false
  got      : List (Nat × Nat) := []
  nskip    : Nat := 0
  miss     : List Nat := []
  partly   : Bool := false
deriving DecidableEq, Repr, Inhabited

/-- An accepted job (R268 to R273). -/
structure Job where
  num    : Nat
  ctx    : Nat
  asid   : Nat
  launch : Nat
  comb   : Nat
  core   : Nat
  group  : Nat
  card   : List W64 := []
  pb     : Bool := false
  bar    : Nat := 0
  frm    : BitVec 3 := 0
  satf   : Bool := false
  ord    : Order := {}
  winBase : Nat := 0
  winLen  : Nat := 0
  /-- writes, by index, that it has made while it still read its sources (R300) -/
  early  : List Nat := []
  /-- footprints as ranges of lines of virtual addresses (R270) -/
  src    : List (Nat × Nat) := []
  dst    : List (Nat × Nat) := []
  edges  : List Nat := []
  phase  : JobPhase := .waiting
  /-- the source bytes that it has read (R300) -/
  got    : List (Nat × Byte) := []
  writes : List JobWrite := []
  /-- destination bytes that count for PENDING and have not landed (R273) -/
  owed   : Nat := 0
  flags  : BitVec 7 := 0
  coll   : Option Coll := none
deriving DecidableEq, Repr, Inhabited

/-- A page of a snapshot (R343 to R346). -/
structure SnapPage where
  va     : Nat
  tower  : Nat
  big    : Bool := false
  shadow : List (Nat × Nat) := []
  done   : Bool := false
deriving DecidableEq, Repr, Inhabited

/-- A job recorded at a cut (R343, R346). -/
structure SnapJob where
  batch  : W32
  index  : Nat
  gslot  : Nat
  core   : Nat
  eng    : Nat
  op     : Nat
  status : Nat
deriving DecidableEq, Repr, Inhabited

/-- A chunk of a collective that was in flight at a cut: CID, STEP and chunk, and the job's status, none yet (R343). -/
structure SnapChunk where
  cid    : Nat
  step   : Nat
  chunk  : Nat
  status : Nat := 0
deriving DecidableEq, Repr, Inhabited

/-- A snapshot (R285, R343 to R346). -/
structure Snap where
  job    : Nat
  ctx    : Nat
  desc   : W64
  cid    : Nat
  step   : Nat
  extent : Nat
  dest   : W64
  cut    : Bool := false
  pages  : List SnapPage := []
  jobs   : List SnapJob := []
  chunks : List SnapChunk := []
  drained : Nat := 0
deriving DecidableEq, Repr, Inhabited

/-- A reduction slot (R335, R339, R341). -/
structure Slot where
  num    : Nat
  cid    : Nat
  step   : Nat
  chunk  : Nat
  pers   : Bool := false
  expect : Option Nat := none
  job    : Option Nat := none
  /-- of the job that gave EXPECT: the remaining route, the timeout in µs, and the participants -/
  route  : List (Nat × Nat) := []
  tmo    : Nat := 0
  ranks  : Nat := 0
  packs  : List Packet := []
  held   : List Packet := []
  next   : Option Packet := none
  born   : Nat := 0
deriving DecidableEq, Repr, Inhabited

/-- The spire (R331 to R342). -/
structure Spire where
  slots   : List Slot := []
  /-- packets that wait for a free slot -/
  waiting : List Packet := []
  /-- packets whose next hop is this device -/
  loc     : List Packet := []
  /-- packets sent to other devices, and verdicts sent to the senders of packets -/
  sent    : List Packet := []
  verdicts : List (Packet × Verdict) := []
  /-- the last 512 expired keys: CID, STEP unless PERS = 1, and CHUNK (R335, R339) -/
  expired : List (Nat × Option Nat × Nat) := []
  /-- late drops by CID since the last completed job of that CID (R339) -/
  late    : List (Nat × Nat) := []
  /-- contributions of this device already accepted: CID and STEP (R343) -/
  contributed : List (Nat × Nat) := []
  /-- devices that were told that a barrier is gone: address-space ID, barrier, device (R332) -/
  podTold : List (Nat × Nat × Nat) := []
  /-- pod messages sent: the destination device, and a message -/
  podOut  : List (Nat × PodMsg) := []
  /-- pod messages, packets and verdicts that the stations hold while PODEN = 0, oldest first (R323) -/
  podHeld : List (Nat × PodMsg) := []
  packHeld : List Packet := []
  verdHeld : List (Packet × Verdict) := []
  /-- remote transactions sent to other devices -/
  remoteOut : List RemoteTx := []
deriving DecidableEq, Repr, Inhabited

/-- A write of the device to a context's memory that waits until the pager has made its page present (R352): bytes, an
increment of a completion counter, or a host fault record. -/
inductive DevWrite where
  | bytes (c va : Nat) (bs : List Byte) (lid : W64)
  | bump (c va : Nat) (lid : W64)
  | record (c : Nat) (r : FaultRec)
deriving DecidableEq, Repr, Inhabited

/-! ### The device -/

/-- The device page (R323, R349, R351) and what boot and attestation hold. -/
structure Dev where
  poden   : Bool := false
  devid   : BitVec 10 := 0
  ltol    : W32 := 0
  astate  : BitVec 3 := 0
  pwrlim  : W16 := 2900
  tmodef  : W32 := 1000
  lcthr   : BitVec 7 := 48
  rwsplit : W16 := 0x5555
  offhome : List W64 := [0, 0, 0, 0]
  latecnt : W64 := 0
  retired : List W64 := [0, 0, 0, 0, 0, 0, 0, 0]
  rebuild : List W32 := [0, 0, 0, 0, 0, 0, 0, 0]
  /-- tower and line of each line still to be rebuilt (R329), and tower and number of each parity group that was lost -/
  stale   : List (Nat × Nat) := []
  lost    : List (Nat × Nat) := []
  fwaddr  : W64 := 0
  fwlen   : W32 := 0
  fwcmd   : Byte := 0
  fwstat  : Byte := 0
  fwRun   : Option (W64 × W32) := none
  anonce  : List W64 := [0, 0, 0, 0]
  arpt    : W64 := 0
  acmd    : Byte := 0
  astat   : Byte := 0
  /-- the measurement log and its events (R350) -/
  measure : List Byte := []
  events  : List (List Byte) := []
  /-- link 0 and link 1 are up (R321) -/
  link0   : Bool := true
  link1   : Bool := true
deriving DecidableEq, Repr, Inhabited

/-- An entry of a core's return-value predictor (R307): per return register a valid bit, U and 32 lanes. -/
structure PredEntry where
  core  : Nat
  index : Nat
  regs  : List (Bool × Bool × VReg) := []
deriving DecidableEq, Repr, Inhabited

/-- Squashes in a row at a call site of a core, and the fcalls that still run as call (R317). -/
structure SiteMark where
  core : Nat
  site : Nat
  rowN : Nat := 0
  left : Nat := 0
deriving DecidableEq, Repr, Inhabited

/-- The cores' own registers (R307, R317, R319); unlisted FSTAT is 0, unlisted predictor entries are invalid. -/
structure Cores where
  fstat : List (Nat × W64) := []
  pred  : List PredEntry := []
  sites : List SiteMark := []
deriving DecidableEq, Repr, Inhabited

/-- The model's own bookkeeping of time and of order (DESIGN CHOICE, log 11). -/
structure Clock where
  /-- cycles since reset (R4) -/
  cycle   : Nat := 0
  /-- argument of the next `Config.freeEvent` -/
  tick    : Nat := 0
  /-- free events before every pending move is performed once more (R288, R293; log 1) -/
  calm    : Nat := 0
  /-- argument of the next free value -/
  free    : Nat := 0
  /-- the next serial number -/
  serial  : Nat := 1
  /-- the paths chosen in this cycle that have not issued yet (R43) -/
  issuing : List PathRef := []
  /-- the path whose instruction the step performs -/
  cur     : Option PathRef := none
  /-- events already decided -/
  agenda  : List Instr := []
deriving DecidableEq, Repr, Inhabited

/-- The state of the device. -/
structure State where
  clk     : Clock
  dev     : Dev
  ctxs    : List Ctx
  mem     : Memory
  /-- scratchpad words that are full, by `core * 2^18 + word` (R11) -/
  full    : List Nat
  /-- tower pages of 64 KiB that the device holds, by tower address divided by 2^16 (R326, R354) -/
  pages   : List Nat
  coh     : Coh
  dists   : List Dist
  launches : List Launch
  combs   : List Comb
  flights : List Flight
  jobs    : List Job
  /-- writes of the device that wait for their pages, oldest first (R352) -/
  devq    : List DevWrite
  snaps   : List Snap
  spire   : Spire
  cores   : Cores
deriving DecidableEq, Repr, Inhabited

/-- A context after reset (R27, R134, R168, R171, R324, R331, R353) (DEDUCED, log 22). -/
def Ctx.reset : Ctx := { pods := List.replicate 16 {} }

/-- The device page after reset (R323, R349 to R351), with both links up (DESIGN CHOICE, log 12). -/
def Dev.reset : Dev := { measure := List.replicate 64 0 }

/-- The device right after reset (R349): the registers of every page at their reset values, no launch, no comb, no
job, and memory with nothing listed. -/
def State.reset : State where
  clk := {}
  dev := Dev.reset
  ctxs := List.replicate 64 Ctx.reset
  mem := {}
  full := []
  pages := []
  coh := {}
  dists := List.replicate 4 {}
  launches := []
  combs := []
  flights := []
  jobs := []
  devq := []
  snaps := []
  spire := {}
  cores := {}

end Sys2Proof.Machine
end

