-- ==== Sys2Proof/Machine/Mem.lean ====
section
/-! DEFINITION. Memory: keys of places, reading and writing bytes in the canonical form, and the state's memory
operations, on which every access rests (R10, R11, R82, R205, R290). -/

namespace Sys2Proof.Machine

/-! ### Keys -/

/-- Size of one region of keys. -/
def regionSize : Nat := 2 ^ 88

def key (region a : Nat) : Nat := region * regionSize + a
/-- The region of a key. -/
def keyRegion (k : Nat) : Nat := k / regionSize
/-- The address of a key in its region. -/
def keyAddr (k : Nat) : Nat := k % regionSize

/-- Tower memory: the tower number in bits [38:36], the byte offset in [35:0] (R324). -/
def kTower (a : Nat) : Nat := key 0 a
/-- Scratchpad byte `off` of a core. -/
def kScratch (core off : Nat) : Nat := key 2 (core * 2 ^ 20 + off)
/-- Host physical memory. -/
def kHost (a : Nat) : Nat := key 4 a
/-- The spire's chunk buffers. -/
def kSpire (a : Nat) : Nat := key 5 a
/-- Memory of another pod device, by device id, address-space ID and virtual address (R325, R330)
(DESIGN CHOICE, log 9). -/
def kRemote (dev asid va : Nat) : Nat := key 7 (dev * 2 ^ 72 + asid * 2 ^ 56 + va)

/-- Key of sidecar byte `j` of the line that holds payload key `k` (R82); host memory has no sidecars. -/
def sideKey (k j : Nat) : Nat := key (keyRegion k + 1) (keyAddr k / 128 * 32 + j)

/-- Payload keys that a sidecar key belongs to: the first byte of its line. -/
def sideLine (k : Nat) : Nat := key (keyRegion k - 1) (keyAddr k / 32 * 128)

/-- Whether a key is a sidecar key. -/
def isSide (k : Nat) : Bool := keyRegion k == 1 || keyRegion k == 3 || keyRegion k == 6 || keyRegion k == 8

/-! ### The canonical form -/

namespace Memory

/-- What an unlisted byte reads as: 0 (log 3), or nothing for scratchpads, whose contents are undefined at comb start
(R20; log 4). -/
def dflt (k : Nat) : Option Byte :=
  if keyRegion k == 2 || keyRegion k == 3 then none else some 0

/-- Strictly rising keys above a bound, and no entry equal to what an unlisted byte reads as. -/
def wfFrom : Option Nat → List Host.Cell → Bool
  | _, [] => true
  | lo, (k, b) :: cs => (match lo with | none => true | some l => decide (l < k)) && decide (dflt k ≠ some b) && wfFrom (some k) cs

/-- The canonical form. -/
def wf (m : Memory) : Bool := wfFrom none m.cells

/-- The listed byte at a key. -/
def find (k : Nat) : List Host.Cell → Option Byte
  | [] => none
  | (j, b) :: cs => if j = k then some b else if k < j then none else find k cs

/-- Lists a byte at a key. -/
def put (k : Nat) (b : Byte) : List Host.Cell → List Host.Cell
  | [] => [(k, b)]
  | (j, c) :: cs => if j = k then (k, b) :: cs else if k < j then (k, b) :: (j, c) :: cs else (j, c) :: put k b cs

/-- Unlists a key. -/
def drop (k : Nat) (cs : List Host.Cell) : List Host.Cell := cs.filter fun c => c.1 != k

/-- The byte at a key: listed, or what an unlisted byte reads as. -/
def get (m : Memory) (k : Nat) : Option Byte :=
  match find k m.cells with
  | some b => some b
  | none => dflt k

/-- Writes one byte. -/
def set (m : Memory) (k : Nat) (b : Byte) : Memory :=
  { cells := if dflt k = some b then drop k m.cells else put k b m.cells }

/-- Writes bytes in order. -/
def setAll (m : Memory) : List (Nat × Byte) → Memory
  | [] => m
  | (k, b) :: rest => (m.set k b).setAll rest

/-- Forgets the bytes of a range of keys: they read as unlisted. -/
def clear (m : Memory) (base len : Nat) : Memory :=
  { cells := m.cells.filter fun c => !(base ≤ c.1 && c.1 < base + len) }

/-- Copies a range of keys to another, both with the same unlisted value. -/
def copy (m : Memory) (src dst len : Nat) : Memory :=
  (m.clear dst len).setAll
    ((m.cells.filter fun c => src ≤ c.1 && c.1 < src + len).map fun c => (dst + (c.1 - src), c.2))

/-- Copies a page of `n` times 64 KiB and its sidecars, a quarter of its size. -/
def copyPage (m : Memory) (src dst ssrc sdst n : Nat) : Memory :=
  (m.copy src dst (n * 65536)).copy ssrc sdst (n * 16384)

end Memory

/-! ### Reading through the state -/

namespace State

/-- The salt of the undefined bytes of the window that holds a scratchpad byte (R20). -/
def saltAt (s : State) (core off : Nat) : Nat :=
  match s.combs.find? fun c => c.core == core && c.spOff ≤ off && off < c.spOff + c.scratch with
  | some c => c.salt
  | none => 0

/-- The byte at a place. -/
def byteAt (s : State) (k : Nat) : Byte :=
  match s.mem.get k with
  | some b => b
  | none =>
    let a := if keyRegion k == 3 then keyAddr k / 32 * 128 else keyAddr k
    Config.freeByte (s.saltAt (a / 2 ^ 20) (a % 2 ^ 20)) k

/-- `n` bytes from a key on. -/
def bytesAt (s : State) (k : Nat) : Nat → List Byte
  | 0 => []
  | n + 1 => s.byteAt k :: s.bytesAt (k + 1) n

/-- The little-endian number of `n` bytes from a key on (R3). -/
def natAt (s : State) (k n : Nat) : Nat := leNat (s.bytesAt k n)

/-- The 64-bit word at a key. -/
def wordAt (s : State) (k : Nat) : W64 := BitVec.ofNat 64 (s.natAt k 8)

/-- Sidecar bytes of the line of a payload key. -/
def sideAt (s : State) (k : Nat) : List Byte := s.bytesAt (sideKey k 0) 32

end State

/-- Bytes laid out from a key on. -/
def cellsFrom (k : Nat) : List Byte → List (Nat × Byte)
  | [] => []
  | b :: bs => (k, b) :: cellsFrom (k + 1) bs

end Sys2Proof.Machine
end

