-- ==== Sys2Proof/Machine/Access.lean ====
section
/-! DEFINITION. Finding and changing the parts of the state, free values, performed writes with their hooks (R314,
R329, R345), translation and the pager (R208, R324 to R326, R353), and the device's own reads and writes (R352, R168). -/

namespace Sys2Proof.Machine

/-! ### Geometry (R9) -/

def coreX (core : Nat) : Nat := core % 16
def coreY (core : Nat) : Nat := core / 16
/-- The core at (x, y). -/
def coreAt (x y : Nat) : Nat := 16 * y + x
/-- The hive of the core at (x, y) (R9). -/
def hiveXY (x y : Nat) : Nat := (if 8 ≤ x then 1 else 0) + 2 * (if 8 ≤ y then 1 else 0)
def hiveOf (core : Nat) : Nat := hiveXY (coreX core) (coreY core)
/-- Cluster id (R9). -/
def clusterOf (core : Nat) : Nat := coreX core / 4 + 4 * (coreY core / 4)
/-- Quad (R9). -/
def quadOf (core : Nat) : Nat := coreX core % 8 / 2 + 4 * (coreY core % 8 / 2)
/-- The tower of a tower-memory key, and the hive that owns it (R10, R324). -/
def towerOf (k : Nat) : Nat := keyAddr k / 2 ^ 36 % 8
def homeHive (k : Nat) : Nat := towerOf k / 2

/-! ### Lists -/

/-- Replaces element `i` of a list. -/
def setAt (l : List α) (i : Nat) (a : α) : List α :=
  match l, i with
  | [], _ => []
  | _ :: xs, 0 => a :: xs
  | x :: xs, i + 1 => x :: setAt xs i a

/-- Element `i`, or a default. -/
def getAt [Inhabited α] (l : List α) (i : Nat) : α := (l[i]?).getD default

/-- Bit `i` of a lane mask. -/
def lane (m : Lanes) (i : Nat) : Bool := m.getLsbD i
/-- The mask of one lane. -/
def laneBit (i : Nat) : Lanes := BitVec.ofNat 32 (2 ^ i)
/-- Lanes 0 to 31 in order. -/
def allLanes : List Nat := List.range 32
/-- The lanes of a mask in ascending order (R7). -/
def lanesOf (m : Lanes) : List Nat := allLanes.filter fun i => lane m i
/-- The mask of the lanes that satisfy a test. -/
def maskOf (p : Nat → Bool) : Lanes := allLanes.foldl (fun m i => if p i then m ||| laneBit i else m) 0
/-- A vector register from its lanes. -/
def vreg (f : Nat → W32) : VReg := allLanes.map f
/-- Lane `i` of a vector register. -/
def vlane (v : VReg) (i : Nat) : W32 := (v[i]?).getD 0

/-- The pseudo-channel that holds the line at byte `a` of a tower (R327), when `retired` are the retired ones. -/
def channelOf (retired : W64) (a : Nat) : Nat :=
  let f := fun (lo w : Nat) => a / 2 ^ lo % 2 ^ w
  let p := f 7 6 ^^^ f 13 6 ^^^ f 19 6 ^^^ f 25 6 ^^^ f 31 5
  if !retired.getLsbD p then p
  else
    let live := (List.range 64).filter fun q => !retired.getLsbD q
    getAt live (a / 128 % max live.length 1)

/-- Whether the ranges [a, a+n) and [b, b+m) meet. -/
def meets (a n b m : Nat) : Bool := n != 0 && m != 0 && a < b + m && b < a + n

namespace State

/-! ### Finding and changing parts -/

def ctx (s : State) (c : Nat) : Ctx := (s.ctxs[c]?).getD {}
def modCtx (s : State) (c : Nat) (f : Ctx → Ctx) : State := { s with ctxs := setAt s.ctxs c (f (s.ctx c)) }
def comb? (s : State) (id : Nat) : Option Comb := s.combs.find? fun c => c.id == id
def modComb (s : State) (id : Nat) (f : Comb → Comb) : State :=
  { s with combs := s.combs.map fun c => if c.id == id then f c else c }
def launch? (s : State) (n : Nat) : Option Launch := s.launches.find? fun l => l.num == n
def modLaunch (s : State) (n : Nat) (f : Launch → Launch) : State :=
  { s with launches := s.launches.map fun l => if l.num == n then f l else l }
def flight? (s : State) (fid : Nat) : Option Flight := s.flights.find? fun f => f.fid == fid
def modFlight (s : State) (fid : Nat) (g : Flight → Flight) : State :=
  { s with flights := s.flights.map fun f => if f.fid == fid then g f else f }
def job? (s : State) (n : Nat) : Option Job := s.jobs.find? fun j => j.num == n
def modJob (s : State) (n : Nat) (f : Job → Job) : State :=
  { s with jobs := s.jobs.map fun j => if j.num == n then f j else j }
def dist (s : State) (h : Nat) : Dist := (s.dists[h]?).getD {}
def modDist (s : State) (h : Nat) (f : Dist → Dist) : State := { s with dists := setAt s.dists h (f (s.dist h)) }

end State

namespace Comb

def group? (c : Comb) (g : Nat) : Option Group := c.groups.find? fun x => x.gidx == g
def modGroup (c : Comb) (g : Nat) (f : Group → Group) : Comb :=
  { c with groups := c.groups.map fun x => if x.gidx == g then f x else x }

end Comb

namespace Group

def path? (g : Group) (p : Nat) : Option Path := g.paths.find? fun x => x.pix == p
def modPath (g : Group) (p : Nat) (f : Path → Path) : Group :=
  { g with paths := g.paths.map fun x => if x.pix == p then f x else x }
def fork? (g : Group) (n : Nat) : Option Fork := g.forks.find? fun f => f.num == n
def modFork (g : Group) (n : Nat) (h : Fork → Fork) : Group :=
  { g with forks := g.forks.map fun f => if f.num == n then h f else f }
/-- The fork whose continuation path `p` is. -/
def contFork? (g : Group) (p : Nat) : Option Fork := g.forks.find? fun f => f.pix == p

end Group

namespace State

def modGroup (s : State) (c g : Nat) (f : Group → Group) : State := s.modComb c fun x => x.modGroup g f
def modPath (s : State) (r : PathRef) (f : Path → Path) : State := s.modGroup r.comb r.group fun g => g.modPath r.path f
def group? (s : State) (c g : Nat) : Option Group := (s.comb? c).bind fun x => x.group? g
def path? (s : State) (r : PathRef) : Option Path := (s.group? r.comb r.group).bind fun g => g.path? r.path

/-- A comb that runs, or that a save holds (R172). -/
def combHome? (s : State) (id : Nat) : Option Comb :=
  match s.comb? id with
  | some c => some c
  | none => ((s.ctxs.map fun x => (x.saved.filter fun v => !v.back).map fun v => v.comb).flatten).find? fun c => c.id == id

/-- Changes a comb that runs, or that a save holds. -/
def modCombHome (s : State) (id : Nat) (f : Comb → Comb) : State :=
  if (s.comb? id).isSome then s.modComb id f
  else { s with ctxs := s.ctxs.map fun x => { x with saved := x.saved.map fun v => if v.comb.id == id && !v.back then { v with comb := f v.comb } else v } }

/-- The context of a comb. -/
def ctxOf (s : State) (c : Comb) : Nat := ((s.launch? c.launch).map fun l => l.ctx).getD 0
/-- The address-space ID of a context (R324). -/
def asid (s : State) (c : Nat) : Nat := (s.ctx c).asid.toNat

/-! ### Serial numbers and free values -/

/-- Takes a fresh serial number. -/
def bump (s : State) : State := { s with clk := { s.clk with serial := s.clk.serial + 1 } }
/-- Moves to the next free value. -/
def spend (s : State) : State := { s with clk := { s.clk with free := s.clk.free + 1 } }
/-- The next free 64-bit value. -/
def freeW (s : State) : W64 := Config.freeWord s.clk.free

/-! ### Performed writes -/

/-- Pages of the reserve pool that the snapshots of a context hold (R345). -/
def reserved (s : State) (c : Nat) : Nat :=
  (s.snaps.filter fun n => n.ctx == c).foldl (fun k n => k + (n.pages.map fun p => p.shadow.length).sum) 0

/-- 64 KiB pages of one tower that the device holds. -/
def heldIn (s : State) (t : Nat) : Nat := (s.pages.filter fun p => p / 2 ^ 20 == t).length

/-- 64 KiB pages of a tower: 60 GiB, less 960 MiB for each retired pseudo-channel (R10, R328). -/
def capacity (s : State) (t : Nat) : Nat :=
  983040 - 15360 * ((List.range 64).filter fun p => ((s.dev.retired[t]?).getD 0).getLsbD p).length

/-- Free pages of a tower. -/
def freePages (s : State) (t : Nat) : Nat := s.capacity t - s.heldIn t

/-- Whether an armed snapshot still has to read one of `n` tower pages from `p` on. -/
def snapNames (s : State) (p n : Nat) : Bool :=
  s.snaps.any fun x => x.cut && x.pages.any fun g => !g.done && g.shadow.isEmpty && meets p n g.tower (if g.big then 32 else 1)

/-- Pages that armed snapshots name. -/
def snapPages (s : State) : Nat := (s.snaps.map fun x => x.pages.length).sum

/-- The first aligned run of `n` pages of tower `t` from run `i` on of which the device holds none. -/
def probe (s : State) (t n i : Nat) : Nat → Option Nat
  | 0 => none
  | fuel + 1 =>
    let p := t * 2 ^ 20 + i % (983040 / n) * n
    if (s.pages.any fun q => p ≤ q && q < p + n) || s.snapNames p n then s.probe t n (i + 1) fuel else some p

/-- Takes an aligned run of `n` pages of tower `t`: which one is free (log 14). No cache keeps a copy of what they held. -/
def takeRun (s : State) (t n : Nat) : Option (Nat × State) :=
  if s.freePages t < n then none
  else
    match s.probe t n (Config.freePick s.clk.free) (s.pages.length + 32 * s.snapPages + 1) with
    | none => none
    | some p =>
      let mine := fun (l : Nat) => keyRegion l == 0 && p * 65536 ≤ keyAddr l && keyAddr l < (p + n) * 65536
      some (p, { s.spend with pages := (List.range n).map (fun i => p + i) ++ s.pages
                              coh := { s.coh with lines := s.coh.lines.filter fun x => !mine x.line } })

/-- Takes one page of tower `t`. -/
def takePage (s : State) (t : Nat) : Option (Nat × State) := s.takeRun t 1

/-- Returns pages. -/
def freePagesOf (s : State) (ps : List Nat) : State := { s with pages := s.pages.filter fun p => !ps.contains p }

/-- Zero-fills `n` tower pages and their sidecars (R326). -/
def zeroPages (s : State) (p n : Nat) : State :=
  { s with mem := (s.mem.clear (kTower (p * 65536)) (n * 65536)).clear (key 1 (p * 16384)) (n * 16384) }

/-- Copies a tower page with its sidecars. -/
def copyPage (s : State) (src dst : Nat) : State :=
  { s with mem := s.mem.copyPage (kTower (src * 65536)) (kTower (dst * 65536)) (key 1 (src * 16384)) (key 1 (dst * 16384)) 1 }

/-- Gives up a snapshot: marks and shadows are released, and its arm job ends with a status (R345, R285). -/
def dropSnap (s : State) (n : Snap) (code : Nat) : State :=
  let sh := (n.pages.map fun (p : SnapPage) => p.shadow.map fun x => x.2).flatten
  ({ s with snaps := s.snaps.filter fun x => x.job != n.job }.freePagesOf sh).modJob n.job
    fun j => match j.phase with | .ending _ _ => j | _ => { j with phase := .ending code 0 }

/-- Takes shadows for the 64 KiB parts `is` of a marked page (R345); none when no page is free. -/
def takeShadows (s : State) (t base : Nat) : List Nat → Option (List (Nat × Nat) × State)
  | [] => some ([], s)
  | i :: is =>
    match s.takePage t with
    | none => none
    | some (p, s) =>
      match (s.copyPage (base + i) p).takeShadows t base is with
      | none => none
      | some (l, s) => some ((i, p) :: l, s)

/-- Before a write to a page of a cut snapshot that has not drained: the page is copied to a shadow, or the snapshot
is abandoned at RESMAX (R345). -/
def shadowFor (s : State) (job page : Nat) : State :=
  match s.snaps.find? fun n => n.job == job with
  | none => s
  | some n =>
    match n.pages.find? fun p => p.tower ≤ page && page < p.tower + (if p.big then 32 else 1) && !p.done && p.shadow.isEmpty with
    | none => s
    | some p =>
        let k := if p.big then 32 else 1
        if (s.ctx n.ctx).resmax.toNat < s.reserved n.ctx + k then s.dropSnap n 0x1D
        else
          match s.takeShadows (p.tower / 2 ^ 20) p.tower (List.range k) with
          | none => s.dropSnap n 0x1D
          | some (l, s) =>
            { s with snaps := s.snaps.map fun x => if x.job == job then
                { x with pages := x.pages.map fun q => if q.tower == p.tower then { q with shadow := l } else q } else x }

/-! ### Lines and copies -/

end State

/-- The line of a payload or sidecar key. -/
def lineKey (k : Nat) : Nat := (if isSide k then sideLine k else k) / 128 * 128

/-- The index of a key in a line's copy: 0 to 127 payload, 128 to 159 sidecar. -/
def lineIdx (k : Nat) : Nat := if isSide k then 128 + keyAddr k % 32 else k % 128

/-- The byte of a copy. -/
def CacheLine.byte (c : CacheLine) (i : Nat) : Byte := if i < 128 then (c.data[i]?).getD 0 else (c.side[i - 128]?).getD 0

/-- A copy with one byte changed. -/
def CacheLine.put (c : CacheLine) (i : Nat) (b : Byte) : CacheLine :=
  if i < 128 then { c with data := setAt c.data i b } else { c with side := setAt c.side (i - 128) b }

/-- A copy with the written bytes of its line. -/
def CacheLine.take (c : CacheLine) (data : List (Nat × Byte)) : CacheLine :=
  data.foldl (fun c d => if lineKey d.1 == c.line then c.put (lineIdx d.1) d.2 else c) c

/-- Whether a cache is an RDC. -/
def isRdc : CacheId → Bool
  | .rdc _ => true
  | .l1 _ => false

namespace State

/-- CXL.cache keeps the RDCs' copies of host lines coherent: they take the bytes of every write (R290). -/
def hostHook (s : State) (data : List (Nat × Byte)) : State :=
  match data.filter fun d => keyRegion d.1 == 4 with
  | [] => s
  | host => { s with coh := { s.coh with lines := s.coh.lines.map fun c => if isRdc c.cache then c.take host else c } }

/-- The hook of R345 for one written key. -/
def snapHook (s : State) (k : Nat) : State :=
  if keyRegion k == 0 then
    (s.snaps.filter fun n => n.cut).foldl (fun s n => s.shadowFor n.job (keyAddr k / 65536)) s
  else if keyRegion k == 1 then
    (s.snaps.filter fun n => n.cut).foldl (fun s n => s.shadowFor n.job (keyAddr k / 32 * 128 / 65536)) s
  else s

/-- The 32-byte sector of a key; a sidecar byte stands for the first sector of its line (R310). -/
def sectorOf (k : Nat) : Nat := if isSide k then sideLine k / 32 else k / 32

/-- Whether a byte's key lies in a sector; a sidecar byte lies in every sector of its line. -/
def inSector (k t : Nat) : Bool := t == sectorOf k || (isSide k && t / 4 == sectorOf k / 4)

/-- A write to a tracked sector squashes the continuation that tracks it (R314). -/
def squashHook (s : State) (ks : List Nat) : State :=
  { s with combs := s.combs.map fun c => { c with groups := c.groups.map fun g =>
      { g with forks := g.forks.map fun f =>
          if ks.any fun k => f.tracked.any fun t => inSector k t then { f with squash := true } else f } } }

/-- A write to a line that is being rebuilt updates it at its new place, and the rebuild skips it (R329). -/
def rebuildHook (s : State) (ks : List Nat) : State :=
  let hit := fun (x : Nat × Nat) => ks.any fun k => keyRegion k == 0 && towerOf k == x.1 && keyAddr k % 2 ^ 36 / 128 == x.2
  if s.dev.stale.any hit then
    { s with dev := { s.dev with
        stale := s.dev.stale.filter fun x => !hit x
        rebuild := (List.range 8).map fun t =>
          BitVec.ofNat 32 ((s.dev.stale.filter fun x => !hit x).filter fun x => x.1 == t).length } }
  else s

/-- The key in a shadow page that stands for a key of the page `base`, if any. -/
def shadowKey (base page k : Nat) : Option Nat :=
  if keyRegion k == 0 && keyAddr k / 65536 == base then some (kTower (page * 65536 + keyAddr k % 65536))
  else if keyRegion k == 1 && keyAddr k / 16384 == base then some (key 1 (page * 16384 + keyAddr k % 16384))
  else none

/-- Writes that reach a page which was copied before a snapshot's cut point go to its copy too (R344), but for snapshots
whose cut point the writer has passed. -/
def mirror (s : State) (passed : List (Nat × Nat)) (data : List (Nat × Byte)) : List (Nat × Byte) :=
  ((s.snaps.filter fun n => !n.cut && !passed.contains (n.cid, n.step)).map fun n => (n.pages.map fun p => (p.shadow.map fun x =>
    data.filterMap fun d => (shadowKey (p.tower + x.1) x.2 d.1).map fun k => (k, d.2)).flatten).flatten).flatten

/-- Performs a write of bytes at their place (R290), with what follows from it; `passed` names the snapshots whose cut
point the writer has passed (R344). -/
def performRaw (s : State) (passed : List (Nat × Nat)) (data : List (Nat × Byte)) : State :=
  let ks := data.map fun d => d.1
  let s := ks.foldl (fun s k => s.snapHook k) s
  let s := s.rebuildHook ks
  let s : State := { s with mem := (s.mem.setAll data).setAll (s.mirror passed data) }
  let s := s.hostHook data
  if data.isEmpty then s else s.squashHook ks

/-- Changes the copies of the ordering machine. -/
def modLines (s : State) (f : List CacheLine → List CacheLine) : State := { s with coh := { s.coh with lines := f s.coh.lines } }

/-- A cache's copies take written bytes (R290, R291). -/
def takeBytes (s : State) (id : CacheId) (data : List (Nat × Byte)) : State :=
  s.modLines fun l => l.map fun c =>
    if c.cache == id then c.take data else c

/-- Writes a trap record (R164): the copies that its core reads take it too (DEDUCED, log 130). -/
def writeRecord (s : State) (core : Nat) (data : List (Nat × Byte)) : State :=
  ((s.performRaw [] data).takeBytes (.rdc (hiveOf core)) data).takeBytes (.l1 core) data

/-- Tower pages that hold the stacks of running groups (R155). -/
def stackPages (s : State) : List Nat := (s.combs.map fun c => c.groups.filterMap fun g => g.stack).flatten

/-- What a program's write leaves to be written of one byte: of a trap record only RESUME, bits [11:10] of dword 0, can be
written, and writes to its other fields are ignored (R6, R164). -/
def writable (s : State) (held : List Nat) (d : Nat × Byte) : Option (Nat × Byte) :=
  let a := keyAddr d.1
  if keyRegion d.1 == 0 && a % 65536 < 384 && held.contains (a / 65536) then
    (if a % 64 == 1 then some (d.1, (s.byteAt d.1 &&& 0xF3) ||| (d.2 &&& 0x0C)) else none)
  else some d

/-- A write without what it cannot change in trap records (R6, R164). -/
def masked (s : State) (data : List (Nat × Byte)) : List (Nat × Byte) :=
  match s.stackPages with
  | [] => data
  | l => data.filterMap (s.writable l)

/-- Performs a write by a program, an engine or the host. -/
def performFor (s : State) (passed : List (Nat × Nat)) (data : List (Nat × Byte)) : State :=
  s.performRaw passed (s.masked data)

/-- Performs a write of this device or of the host. -/
def perform (s : State) (data : List (Nat × Byte)) : State := s.performFor [] data

/-- The state as an engine sees it that has read some bytes already (R257, R300). -/
def withRead (s : State) (got : List (Nat × Byte)) : State := if got.isEmpty then s else { s with mem := s.mem.setAll got }

/-- Performs a write of consecutive bytes. -/
def performAt (s : State) (k : Nat) (bs : List Byte) : State := s.perform (cellsFrom k bs)

/-- Whether a tower line is uncorrectable: its parity group was lost (R329). -/
def uncorrectable (s : State) (k : Nat) : Bool :=
  keyRegion k == 0 && s.dev.lost.any fun x => x.1 == towerOf k && x.2 == Config.parityGroup x.1 (keyAddr k % 2 ^ 36 / 128)

/-- Whether one of the lines of `n` bytes from a key on is uncorrectable (R329). -/
def lostIn (s : State) (k n : Nat) : Bool :=
  !s.dev.lost.isEmpty && (List.range ((k % 128 + n + 127) / 128)).any fun i => s.uncorrectable (k + 128 * i)

/-- The bank queue of a line: its tower, pseudo-channel and bank (R287, R299, R327). -/
def queueOf (s : State) (k : Nat) : Nat × Nat × Nat :=
  let t := towerOf k
  let a := keyAddr k % 2 ^ 36 / 128 * 128
  (t, channelOf (getAt s.dev.retired t) a, Config.bankOf t a)

/-- Whether a tower line waits to be rebuilt: bank commands on it wait (R329). -/
def isStale (s : State) (k : Nat) : Bool :=
  keyRegion k == 0 && s.dev.stale.any fun x => x.1 == towerOf k && x.2 == keyAddr k % 2 ^ 36 / 128

/-! ### Apertures (R208, R353) -/

/-- The scratchpad apertures of a context: the current base and the base of each running comb (R208). -/
def spBases (s : State) (c : Nat) : List Nat :=
  ((s.ctx c).spap.toNat * 2 ^ 28) :: ((s.combs.filter fun x => s.ctxOf x == c).map fun x => x.spap)

/-- The core and offset of an address in a scratchpad aperture of a context. -/
def inAperture (s : State) (c : Nat) (va : Nat) : Option (Nat × Nat) :=
  match (s.spBases c).find? fun b => b ≤ va && va < b + 2 ^ 28 with
  | some b => some ((va - b) / 2 ^ 20, (va - b) % 2 ^ 20)
  | none => none

/-- The stack apertures of a context (R353). -/
def stkBases (s : State) (c : Nat) : List Nat :=
  ((s.ctx c).stkap.toNat * 2 ^ 30) ::
    ((s.combs.filter fun x => s.ctxOf x == c).map fun x => x.groups.map fun g => g.stkap).flatten

/-- The core, group slot, offset and base of an address in a stack aperture. -/
def inStack (s : State) (c : Nat) (va : Nat) : Option (Nat × Nat × Nat × Nat) :=
  match (s.stkBases c).find? fun b => b ≤ va && va < b + 2 ^ 30 with
  | some b =>
    let n := (va - b) / 65536
    some (n / 64, n % 64, va % 65536, b)
  | none => none

/-- The virtual address of a group's stack page (R353). -/
def stackVa (core : Nat) (g : Group) : Nat := g.stkap + (core * 64 + g.gslot) * 65536

/-! ### Translation (R325) -/

end State

/-- What a walk finds: the leaf, whether it maps 2 MiB, and where the entry stands. -/
inductive Walk where
  | leaf (e : W64) (big : Bool) (at_ : Nat)
  | fault (code : Nat)
deriving DecidableEq, Repr, Inhabited

/-- Whether an entry is a well-formed pointer: V, not LEAF, and nothing but bits [38:8] besides (R325). -/
def isPointer (e : W64) : Bool := e.getLsbD 0 && !e.getLsbD 1 && (e.extractLsb' 39 25) == 0 && (e.extractLsb' 2 6) == 0

/-- TT of a leaf. -/
def leafTT (e : W64) : Nat := (e.extractLsb' 61 3).toNat
/-- ADDR of a leaf, in bytes. -/
def leafAddr (e : W64) : Nat := (e.extractLsb' 16 40).toNat * 65536
def leafManaged (e : W64) : Bool := e.getLsbD 6
def leafPresent (e : W64) : Bool := e.getLsbD 2

/-- Whether a leaf is well formed: V, LEAF, reserved bits zero, and ADDR as its TT asks (R325). -/
def leafOk (e : W64) (big : Bool) : Bool :=
  e.getLsbD 0 && e.getLsbD 1 && (e.extractLsb' 56 5) == 0 && (e.extractLsb' 10 6) == 0
    && (!big || !leafPresent e || leafTT e == 1 || leafTT e == 3 || leafTT e == 5 || leafTT e == 6 || leafAddr e % 2 ^ 21 == 0)
    && (match leafTT e with
      | 0 => !leafPresent e || leafAddr e < 2 ^ 39
      | 5 | 6 => leafAddr e == 0
      | 7 => leafAddr e < 2 ^ 26
      | _ => true)

/-- The level widths after level 0, with the shift of each (R325): shift, index bits, and whether a leaf may stand. -/
def levels : List (Nat × Nat) := [(47, 9), (38, 9), (29, 9), (21, 8), (16, 5)]

namespace State

/-- Walks the table tree from the table at tower address `t` (R325); an entry in an uncorrectable line gives fault 0x12
(R329). -/
def walk (s : State) (va : Nat) (t : Nat) : List (Nat × Nat) → Walk
  | [] => .fault 0x10
  | (sh, w) :: ls =>
    let at_ := t + 8 * (va / 2 ^ sh % 2 ^ w)
    let e := s.wordAt (kTower at_)
    if s.uncorrectable (kTower at_) then .fault 0x12
    else if sh == 16 then (if leafOk e false then .leaf e false at_ else .fault 0x10)
    else if sh == 21 && e.getLsbD 1 then (if leafOk e true then .leaf e true at_ else .fault 0x10)
    else if isPointer e then s.walk va ((e.extractLsb' 8 31).toNat * 256) ls
    else .fault 0x10

/-- The walk of a context. -/
def walkCtx (s : State) (c : Nat) (va : Nat) : Walk := s.walk va ((s.ctx c).ptroot.toNat % 2 ^ 39 / 4096 * 4096) levels

end State

/-- What a translation gives: a target type and a key, or a page that is not present, or a fatal fault. -/
inductive XRes where
  | ok (tt key : Nat)
  | absent
  | fault (code : Nat)
deriving DecidableEq, Repr, Inhabited

/-- The permission bit that an access needs (R325). -/
def Access.bit : Access → Nat
  | .read => 3 | .write => 4 | .exec => 5

/-- The target of an address under a leaf, for an access of a core of hive `h` (R205, R325). -/
def leafTarget (e : W64) (big : Bool) (va h asid : Nat) : XRes :=
  let page := if big then 2 ^ 21 else 65536
  let a := leafAddr e + va % page
  match leafTT e with
  | 0 => .ok 0 (kTower a)
  | 1 => .ok 1 (kRemote (leafAddr e / 65536 % 1024) asid va)
  | 2 => .ok 2 (kHost a)
  | 4 => .ok 4 (kTower (2 * h * 2 ^ 36 + a % 2 ^ 36))
  | 5 => .ok 5 (key 9 va)
  | 6 => .ok 6 (key 9 va)
  | 7 => .ok 7 (kSpire a)
  | _ => .fault 0x11

/-- A leaf's outcome for an access: permissions first, then presence, then the target (R325, R165). -/
def leafRes (e : W64) (big : Bool) (va h asid : Nat) (need : Access) : XRes :=
  if leafTT e == 3 then .fault 0x11
  else if !e.getLsbD need.bit then .fault 0x11
  else if leafPresent e then leafTarget e big va h asid
  else if leafManaged e && leafTT e == 0 then .absent
  else .fault 0x10

namespace State

/-- The cached translation of a page, if any (R206, R324). -/
def tlbAt (s : State) (asid va : Nat) : Option TlbEntry :=
  s.coh.tlb.find? fun t => t.asid == asid && (if t.big then t.page / 32 == va / 2 ^ 21 else t.page == va / 65536)

/-- Translates through the tables and the translation caches. -/
def xlateTable (s : State) (c core va : Nat) (need : Access) : XRes :=
  match s.tlbAt (s.asid c) va with
  | some t =>
    match t.code with
    | some code => .fault code
    | none => leafRes t.leaf t.big va (hiveOf core) (s.asid c) need
  | none =>
    match s.walkCtx c va with
    | .fault code => .fault code
    | .leaf e big _ => leafRes e big va (hiveOf core) (s.asid c) need

/-- Translates an address for an access of a core: the apertures first, whose translations the device installs
itself (R208, R353), then the tables. Bits [63:56] must be zero (R207). -/
def xlate (s : State) (c core : Nat) (va : W64) (need : Access) : XRes :=
  let a := va.toNat
  if 2 ^ 56 ≤ a then .fault 0x10
  else
    match s.inAperture c a with
    | some (k, off) =>
      if need == .exec then .fault 0x11
      else if off < 768 * 1024 then .ok 3 (kScratch k off)
      else .fault 0x10
    | none =>
      match s.inStack c a with
      | some (k, g, off, b) =>
        if need == .exec then .fault 0x11
        else
          match (s.combs.find? fun x => x.core == k && s.ctxOf x == c
              && x.groups.any fun y => y.gslot == g && y.stkap == b).bind fun x => x.groups.find? fun y => y.gslot == g with
          | none => .fault 0x10
          | some y =>
            match y.stack with
            | none => .fault 0x10
            | some p =>
              if need == .write && 384 ≤ off then .fault 0x11
              else if s.uncorrectable (kTower (p * 65536 + off)) then .fault 0x12
              else .ok 0 (kTower (p * 65536 + off))
      | none =>
        match s.xlateTable c core a need with
        | .ok tt k => if s.uncorrectable k then .fault 0x12 else .ok tt k
        | r => r

/-- Records what a translation used: a cached entry, and the touch of a managed page (R206, R326). -/
def note (s : State) (c : Nat) (va : W64) : State :=
  let a := va.toNat
  if (s.inAperture c a).isSome || (s.inStack c a).isSome || 2 ^ 56 ≤ a then s
  else
    let s := s.modCtx c fun x => { x with held := x.held.map fun h =>
      if h.page == a / 65536 || (h.big && h.page / 32 == a / 2 ^ 21) then { h with used := s.clk.cycle } else h }
    match s.tlbAt (s.asid c) a with
    | some _ => s
    | none =>
      match s.walkCtx c a with
      | .fault code =>
        { s with coh := { s.coh with tlb := { asid := s.asid c, page := a / 65536, code := some code } :: s.coh.tlb } }
      | .leaf e big _ =>
        if leafPresent e || !leafManaged e then
          { s with coh := { s.coh with tlb := { asid := s.asid c, page := a / 65536, leaf := e, big := big } :: s.coh.tlb } }
        else s

/-- Forgets the cached translations of a page of an address space (R324). -/
def forgetPage (s : State) (asid page : Nat) : State :=
  { s with coh := { s.coh with tlb := s.coh.tlb.filter fun t =>
      !(t.asid == asid && (if t.big then t.page / 32 == page / 32 else t.page == page)) } }

/-- Forgets every cached translation of an address space (R324). -/
def forgetAll (s : State) (asid : Nat) : State :=
  { s with coh := { s.coh with tlb := s.coh.tlb.filter fun t => t.asid != asid } }

/-! ### The pager (R326) -/

/-- The home hive of a managed page: its granule's, its hint's, or the hive given (R36, R206). -/
def pageHive (s : State) (c page : Nat) (e : W64) (h : Nat) : Nat :=
  match (s.ctx c).homes.find? fun x => x.1 == page / 32 with
  | some x => x.2
  | none => if e.getLsbD 9 then (e.extractLsb' 7 2).toNat else h

/-- Writes a leaf entry's P and ADDR (R325) (DEDUCED, log 58). -/
def setLeaf (s : State) (at_ : Nat) (e : W64) (addr : Nat) (present : Bool) : State :=
  let e1 : W64 := (e &&& 0xFF0000000000FFFB#64) ||| BitVec.ofNat 64 (addr % 2 ^ 56 / 65536 * 65536)
  s.performAt (kTower at_) (leBytes 8 (if present then e1 ||| 4#64 else e1).toNat)

/-- The first run of `n` free swap pages from index `i` on; a page at host address 0 is never chosen, since ADDR = 0
means a first touch. -/
def probeSwap (s : State) (c n i : Nat) : Nat → Option Nat
  | 0 => none
  | fuel + 1 =>
    let x := s.ctx c
    let k := i % (max x.swaplen.toNat 1)
    if x.swaplen.toNat < k + n || x.swapped.any (fun q => k ≤ q && q < k + n)
        || x.swapbase.toNat % 2 ^ 56 / 65536 * 65536 + k * 65536 == 0 then s.probeSwap c n (i + 1) fuel
    else some k

/-- Host address of swap page `k` of a context. -/
def swapAddr (s : State) (c k : Nat) : Nat := (s.ctx c).swapbase.toNat % 2 ^ 56 / 65536 * 65536 + k * 65536

/-- Key of the sidecar bytes kept with a swapped page (log 21). -/
def swapSide (addr : Nat) : Nat := key 9 (2 ^ 64 + addr / 128 * 32)

/-- 64 KiB pages of a page. -/
def pageCount (big : Bool) : Nat := if big then 32 else 1

/-- Where a byte of a page stands after the page has moved: payload bytes from `src` to `dst`, sidecar bytes from `ssrc` to
`sdst`, the page being `n` times 64 KiB. -/
def movedKey (src dst ssrc sdst n k : Nat) : Nat :=
  if src ≤ k && k < src + n * 65536 then dst + (k - src)
  else if ssrc ≤ k && k < ssrc + n * 16384 then sdst + (k - ssrc)
  else k

/-- A page has moved: the sectors that continuations track and the bytes that they have read stand at its new place, where
a write is seen from now on (R314). -/
def followPage (s : State) (src dst ssrc sdst n : Nat) : State :=
  let go := movedKey src dst ssrc sdst n
  let fork := fun (f : Fork) => { f with tracked := f.tracked.map fun t => go (32 * t) / 32, seen := f.seen.map fun d => (go d.1, d.2) }
  { s with combs := s.combs.map fun c => { c with groups := c.groups.map fun g => { g with forks := g.forks.map fork } } }

/-- Moves one managed page to the swap area (R326): payload and sidecars go to host memory, the entry gets P = 0 and
names the swap page, and the page is invalidated. -/
def pageOut (s : State) (c : Nat) (h : Held) : Option State :=
  let x := s.ctx c
  let n := pageCount h.big
  match s.probeSwap c n (Config.freePick s.clk.free) (x.swapped.length * n + n + 2) with
  | none => none
  | some k =>
    let host := s.swapAddr c k
    match s.walkCtx c (h.page * 65536) with
    | .leaf e _ at_ =>
      let s := { s.spend with
        mem := s.mem.copyPage (kTower (h.tower * 65536)) (kHost host) (key 1 (h.tower * 16384)) (swapSide host) n }
      let s := s.followPage (kTower (h.tower * 65536)) (kHost host) (key 1 (h.tower * 16384)) (swapSide host) n
      let s := s.setLeaf at_ e host false
      let s := s.freePagesOf ((List.range n).map fun i => h.tower + i)
      let s := s.modCtx c fun x => { x with held := x.held.filter (fun y => y.page != h.page)
                                            swapped := (List.range n).map (fun i => k + i) ++ x.swapped
                                            poolused := x.poolused - BitVec.ofNat 32 n }
      some (s.forgetPage (s.asid c) h.page)
    | .fault _ => none

/-- Whether an access in flight, a buffered store, a bank command, an engine or a job still names a line of a page: such a
page is being touched (R326, R324) (DEDUCED, log 59). -/
def pageBusy (s : State) (h : Held) : Bool :=
  let hit := fun (k : Nat) =>
    (keyRegion k == 0 && h.tower * 65536 ≤ keyAddr k && keyAddr k < (h.tower + pageCount h.big) * 65536)
      || (keyRegion k == 1 && h.tower * 16384 ≤ keyAddr k && keyAddr k < (h.tower + pageCount h.big) * 16384)
  (s.coh.sb.any fun e => (e.data ++ e.side).any fun d => hit d.1)
    || (s.flights.any fun f => (f.accs.any fun a => a.val.isNone && hit a.key) || (f.stores.any fun x => (x.data ++ x.side).any fun d => hit d.1)
        || f.rcn.any fun x => hit x.1)
    || (s.coh.bank.any fun b => hit b.key)
    || (s.coh.mq.any fun q => q.keys.any fun x => meets (h.tower * 65536) (pageCount h.big * 65536) x.1 x.2)
    || (s.jobs.any fun j => (j.got.any fun d => hit d.1) || (match j.phase with | .reading todo => todo.any hit | _ => false)
        || j.writes.any fun w => (w.data.any fun d => hit d.1) || w.copy.any fun d => hit d.1 || hit d.2)
    || s.snapNames h.tower (pageCount h.big)
    || (s.combs.any fun c => c.groups.any fun g => g.forks.any fun k => k.specSB.any fun x => (x.data ++ x.side).any fun d => hit d.1)

/-- The least recently touched managed page of a context. -/
def coldest (s : State) (c : Nat) : Option Held :=
  ((s.ctx c).held.filter fun h => !s.pageBusy h).foldl (fun b h => match b with | none => some h | some x => if h.used < x.used then some h else b) none

/-- Makes room for `n` 64 KiB pages in the pool (R326); the fuel counts the pages that may have to move. -/
def makeRoom (s : State) (c n : Nat) : Nat → Option State
  | 0 => none
  | fuel + 1 =>
    if (s.ctx c).poolused.toNat + n ≤ (s.ctx c).poolmax.toNat then some s
    else match s.coldest c with
      | none => none
      | some h =>
        match s.pageOut c h with
        | none => none
        | some s => s.makeRoom c n fuel

/-- The tower of a hive with more free pages; a tie goes to the lower (R326). -/
def emptier (s : State) (h : Nat) : Nat := if s.freePages (2 * h) < s.freePages (2 * h + 1) then 2 * h + 1 else 2 * h

/-- Makes a managed page present (R326): `hive` is the home that R36 gives without granule or hint. `none` when the
access is fatal. -/
def makePresent (s : State) (c va hive : Nat) : Option State :=
  match s.walkCtx c va with
  | .fault _ => none
  | .leaf e big _ =>
    let page := if big then va / 2 ^ 21 * 32 else va / 65536
    let n := pageCount big
    if leafPresent e || !leafManaged e || leafTT e != 0 then none
    else
      match s.makeRoom c n ((s.ctx c).held.length + 1) with
      | none => none
      | some s =>
        let h := s.pageHive c page e hive
        match s.takeRun (s.emptier h) n with
        | none => none
        | some (p, s) =>
          match s.walkCtx c va with
          | .fault _ => none
          | .leaf e _ at_ =>
            let old := leafAddr e
            let s : State := if old == 0 then s.zeroPages p n
              else { s with
                mem := s.mem.copyPage (kHost old) (kTower (p * 65536)) (swapSide old) (key 1 (p * 16384)) n
                }.followPage (kHost old) (kTower (p * 65536)) (swapSide old) (key 1 (p * 16384)) n
            let s := s.setLeaf at_ e (p * 65536) true
            let base := s.swapAddr c 0
            let s := s.modCtx c fun x => { x with
              held := { page := page, tower := p, big := big, used := s.clk.cycle } :: x.held
              poolused := x.poolused + BitVec.ofNat 32 n
              swapped := if old == 0 then x.swapped
                else x.swapped.filter fun k => !(old ≤ base + k * 65536 && base + k * 65536 < old + n * 65536)
              homes := if x.homes.any (fun y => y.1 == page / 32) then x.homes else (page / 32, h) :: x.homes }
            some (s.forgetPage (s.asid c) page)

/-! ### The device's own reads and writes (R28, R31, R352) -/

/-- Whether the pager can never make a managed page present (R326): it fails although no page of the context is in use by
an access under way. -/
def hopelessAt (s : State) (c va hive : Nat) : Bool :=
  (s.makePresent c va hive).isNone && !(s.ctx c).held.any fun h => s.pageBusy h

/-- The key of `k` bytes within one page; a page that is not present is made present first (R326). Where the translation
fails, the fault code and the address; code 0 while the pager has still to make room. -/
def keyVa (s : State) (c core : Nat) (need : Access) (hive va k : Nat) : Except (Nat × Nat) (Nat × State) :=
  let s1 := match s.xlate c core (BitVec.ofNat 64 va) need with
    | .absent => (s.makePresent c va hive).getD s
    | _ => s
  match s1.xlate c core (BitVec.ofNat 64 va) need with
  | .ok tt kk =>
    if tt == 5 || tt == 6 || (tt == 4 && need == .write) then .error (0x11, va)
    else if s1.lostIn kk k then .error (0x12, va)
    else .ok (kk, s1.note c (BitVec.ofNat 64 va))
  | .absent => .error (if s.hopelessAt c va hive then 0x10 else 0, va)
  | .fault code => .error (code, va)

/-- The keys of a range of virtual addresses, page by page. -/
def keysVa (s : State) (c core : Nat) (need : Access) (hive : Nat) : Nat → Nat → Nat → Except (Nat × Nat) (List (Nat × Nat) × State)
  | 0, _, _ => .ok ([], s)
  | _ + 1, _, 0 => .ok ([], s)
  | fuel + 1, va, n + 1 =>
    let k := min (n + 1) (65536 - va % 65536)
    match s.keyVa c core need hive va k with
    | .error e => .error e
    | .ok (kk, s) =>
      match s.keysVa c core need hive fuel (va + k) (n + 1 - k) with
      | .ok (l, s) => .ok ((kk, k) :: l, s)
      | .error e => .error e

/-- The bytes of a range of virtual addresses, each page's read as soon as it is there: making a later page present may move
an earlier one out (R326). -/
def readVa (s : State) (c core : Nat) (need : Access) (hive : Nat) : Nat → Nat → Nat → Except (Nat × Nat) (List Byte × State)
  | 0, _, _ => .ok ([], s)
  | _ + 1, _, 0 => .ok ([], s)
  | fuel + 1, va, n + 1 =>
    let k := min (n + 1) (65536 - va % 65536)
    match s.keyVa c core need hive va k with
    | .error e => .error e
    | .ok (kk, s) =>
      match s.readVa c core need hive fuel (va + k) (n + 1 - k) with
      | .ok (l, s2) => .ok (s.bytesAt kk k ++ l, s2)
      | .error e => .error e

/-- Writes bytes from a virtual address on, each page's as soon as it is there. -/
def writeVa (s : State) (c core hive : Nat) : Nat → Nat → List Byte → Except (Nat × Nat) State
  | 0, _, _ => .ok s
  | fuel + 1, va, bs =>
    let k := min bs.length (65536 - va % 65536)
    if k = 0 then .ok s
    else match s.keyVa c core .write hive va k with
      | .error e => .error e
      | .ok (kk, s) => (s.perform (cellsFrom kk (bs.take k))).writeVa c core hive fuel (va + k) (bs.drop k)

/-- The hive that homes a page first touched by the device itself: free (log 14). -/
def freeHive (s : State) : Nat := Config.freePick s.clk.free % 4

/-- Reads bytes for the device with the rights of a load (R352). Of a replicated page it reads hive 0's replica, as core 0
would (DESIGN CHOICE, log 105). -/
def devRead (s : State) (c va n : Nat) : Except (Nat × Nat) (List Byte × State) :=
  if 2 ^ 56 < va + n then .error (0x10, va)
  else s.readVa c 0 .read s.freeHive (n / 65536 + 2) va n

/-- Replaces `n` bytes for the device with the rights of a store (R352): of a range over several pages, every page is
translated and read before the first byte is written. The error is that of `keyVa`. -/
def devEdit (s : State) (c va n : Nat) (f : List Byte → List Byte) : Except (Nat × Nat) State :=
  if 2 ^ 56 < va + n then .error (0x10, va)
  else if va % 65536 + n ≤ 65536 then
    match s.keyVa c 0 .write s.freeHive va n with
    | .error e => .error e
    | .ok (kk, s) => .ok (s.perform (cellsFrom kk ((f (s.bytesAt kk n)).take n)))
  else match s.readVa c 0 .write s.freeHive (n / 65536 + 2) va n with
    | .error e => .error e
    | .ok (bs, s) => s.writeVa c 0 s.freeHive (n / 65536 + 2) va (f bs)

end State

/-- The context that a waiting device write belongs to. -/
def DevWrite.ctx : DevWrite → Nat
  | .bytes c _ _ _ | .bump c _ _ | .record c _ => c

namespace State

/-- Queues a device write until its page is present (R352). -/
def queueDev (s : State) (w : DevWrite) : State := { s with devq := s.devq ++ [w] }

/-- Whether an earlier device write of a context still waits; later ones wait behind it (DESIGN CHOICE, log 106). -/
def devWaits (s : State) (c : Nat) : Bool := s.devq.any fun w => w.ctx == c

/-- The host fault record's dwords (R168). -/
def recordBytes (r : FaultRec) : List Byte :=
  leBytes 8 (r.lanes.toNat * 2 ^ 32 + coreY r.core * 2 ^ 20 + coreX r.core * 2 ^ 16 + r.gslot * 2 ^ 10 + r.slot * 2 ^ 8 + r.code)
    ++ leBytes 8 r.bundle.toNat ++ leBytes 8 r.info.toNat ++ leBytes 8 r.comb.toNat ++ leBytes 8 r.launch.toNat
    ++ List.replicate 24 0

/-- Counts a dropped record; the count saturates (R168, R352). -/
def countDrop (s : State) (c : Nat) : State :=
  s.modCtx c fun x => { x with frdrop := if x.frdrop == 0xFFFFFFFF then x.frdrop else x.frdrop + 1 }

/-- The address of the next host fault record (R168). -/
def recordVa (s : State) (c : Nat) : Nat :=
  let x := s.ctx c
  x.frbase.toNat % 2 ^ 56 / 64 * 64 + 64 * (x.frprod.toNat % 2 ^ x.frlog.toNat)

/-- Writes a host fault record and advances FRPROD; a full ring or a failed write drops and counts it, an FRLOG out of
range drops it, and it waits for a page that the pager has still to bring (R168, R352). -/
def hostRecord (s : State) (c : Nat) (r : FaultRec) : State :=
  let x := s.ctx c
  let lg := x.frlog.toNat
  if lg < 4 || 12 < lg then s
  else if s.devWaits c then s.queueDev (.record c r)
  else if (x.frprod - x.frcons).toNat = 2 ^ lg then s.countDrop c
  else
    match s.devEdit c (s.recordVa c) 64 (fun _ => recordBytes r) with
    | .ok s => s.modCtx c fun x => { x with frprod := x.frprod + 1 }
    | .error e => if e.1 = 0 then s.queueDev (.record c r) else s.countDrop c

/-- A change of `n` bytes by the device that waits as `w` for its page, and whose drop is reported by a record of code
0x22 (R352). -/
def devEditOr22 (s : State) (w : DevWrite) (va n : Nat) (f : List Byte → List Byte) (lid : W64) : State :=
  if s.devWaits w.ctx then s.queueDev w
  else match s.devEdit w.ctx va n f with
    | .ok s => s
    | .error e =>
      if e.1 = 0 then s.queueDev w else s.hostRecord w.ctx { code := 0x22, info := BitVec.ofNat 64 va, launch := lid }

/-- A device write whose drop is reported by a record of code 0x22 (R352). -/
def devWriteOr22 (s : State) (c va : Nat) (bs : List Byte) (lid : W64) : State :=
  s.devEditOr22 (.bytes c va bs lid) va bs.length (fun _ => bs) lid

/-- An increment of a completion counter, reported so too (R31, R352). -/
def devBump (s : State) (c va : Nat) (lid : W64) : State :=
  s.devEditOr22 (.bump c va lid) va 8 (fun bs => leBytes 8 ((leNat bs + 1) % 2 ^ 64)) lid

/-- Tries a waiting device write again. -/
def retryDev (s : State) : DevWrite → State
  | .bytes c va bs lid => s.devWriteOr22 c va bs lid
  | .bump c va lid => s.devBump c va lid
  | .record c r => s.hostRecord c r

/-- Tries every waiting device write again, in order; those that still wait stay. -/
def settleDev (s : State) : State := s.devq.foldl (fun s w => s.retryDev w) { s with devq := [] }

/-- Writes a launch record's STATUS (R31). -/
def writeStatus (s : State) (l : Launch) (code : Nat) : State :=
  s.devWriteOr22 l.ctx (l.recAddr.toNat + 72) (leBytes 8 code) l.lid

/-- Adds 1 to a completion counter (R31). -/
def bumpCounter (s : State) (l : Launch) (i : Nat) : State :=
  s.devBump l.ctx ((s.ctx l.ctx).ccbase.toNat % 2 ^ 56 / 2 ^ 15 * 2 ^ 15 + 8 * i) l.lid

end State

end Sys2Proof.Machine
end

