-- ==== Sys2Proof/Machine/Ops.lean ====
section
/-! DEFINITION. The shared operations: barriers (R234 to R237, R331, R332), a job's status (R272 to R276), the ends of
paths, groups and combs (R19, R157), aborting a launch (R167), taking a trap (R163, R164) and returning from one. -/

namespace Sys2Proof.Machine

/-! ### Core registers -/

/-- The CORE register (R22). -/
def coreReg (core : Nat) : W64 :=
  BitVec.ofNat 64 (quadOf core * 2 ^ 16 + clusterOf core * 2 ^ 10 + hiveOf core * 2 ^ 8 + coreY core * 16 + coreX core)

/-- The COMBID register (R23). -/
def combId (c : Comb) : W64 :=
  BitVec.ofNat 64 ((if c.offh then 2 ^ 63 else 0) + c.cz * 2 ^ 32 + c.cy * 2 ^ 16 + c.cx)

/-- The linear index of a comb (R14). -/
def combIndex (l : Launch) (c : Comb) : Nat := c.cx + l.gx * (c.cy + l.gy * c.cz)

/-! ### What comes from outside (R322, R347, R349) -/

/-- A register write, a host access or a packet that reaches the device: the dies are on, and A1 and A2 end (R347). -/
def State.outside (s : State) (f : State → State) : State :=
  if 3 ≤ s.dev.astate.toNat then s else f { s with dev := { s.dev with astate := 0 } }

/-- A1 and A2 end when the device has work of its own to do (R347) (DEDUCED, log 107). -/
def State.awake (s : State) : State := if s.dev.astate == 0 then s else { s with dev := { s.dev with astate := 0 } }

/-- A write to a context's register page: the device exposes it once firmware runs (R349). -/
def State.pageWrite (s : State) (c : Nat) (f : State → State) : State :=
  s.outside fun s => if 64 ≤ c || s.dev.fwstat != 2 then s else f s

/-! ### FSTAT -/

/-- FSTAT of a core (R319). -/
def State.fstat (s : State) (core : Nat) : W64 := ((s.cores.fstat.find? fun x => x.1 == core).map fun x => x.2).getD 0

/-- Sets FSTAT of a core. -/
def State.setFstat (s : State) (core : Nat) (v : W64) : State :=
  { s with cores := { s.cores with fstat := (core, v) :: s.cores.fstat.filter fun x => x.1 != core } }

/-- Adds 1 to one of the four counters of FSTAT, modulo 2^16 (R319): 3 FORKS, 2 FULL, 1 SQUASH, 0 REPLAY. -/
def State.countFstat (s : State) (core field : Nat) : State :=
  let v := (s.fstat core).toNat
  let old := v / 2 ^ (16 * field) % 65536
  s.setFstat core (BitVec.ofNat 64 (v - old * 2 ^ (16 * field) + (old + 1) % 65536 * 2 ^ (16 * field)))

/-- Four lost latches (R109). -/
def noLatches : List Latch := [.lost, .lost, .lost, .lost]

/-- A path whose latches are lost (R109). -/
def Path.lose (p : Path) : Path := { p with latches := noLatches, epoch := p.epoch + 1 }

/-! ### Barriers -/

/-- What a barrier identifier names (R234). -/
inductive BarRef where
  | comb (n : Nat)
  | span (i : SpanId)
  | pod (n : Nat)
deriving DecidableEq, Repr, Inhabited

/-- The span of a size that contains a core (R17, R234). -/
def spanAt (core lw lh n : Nat) : SpanId :=
  { x := coreX core / 2 ^ lw * 2 ^ lw, y := coreY core / 2 ^ lh * 2 ^ lh, lw := lw, lh := lh, n := n }

/-- Whether a span lies in the launch rectangle (R17). -/
def spanInside (l : Launch) (i : SpanId) : Bool :=
  l.x0 ≤ i.x && l.y0 ≤ i.y && i.x + 2 ^ i.lw ≤ l.x0 + l.w && i.y + 2 ^ i.lh ≤ l.y0 + l.h

/-! ### Cards (R267) -/

/-- Bits [lo + n - 1 : lo] of a word. -/
def wBits (w : W64) (lo n : Nat) : Nat := w.toNat / 2 ^ lo % 2 ^ n

/-- Word i of a card. -/
def jc (card : List W64) (i : Nat) : W64 := getAt card i

/-- ENG and OP of a card. -/
def jobEng (card : List W64) : Nat := wBits (jc card 0) 60 4
def jobOp (card : List W64) : Nat := wBits (jc card 0) 56 4

namespace State

/-- The barrier that identifier `b` names for a comb; none when `b` is invalid (R234, R331, R332). -/
def barRef (s : State) (c : Comb) (b : Nat) : Option BarRef :=
  let n := b % 16
  let lw := b / 16 % 16
  let lh := b / 256 % 16
  match s.launch? c.launch with
  | none => none
  | some l =>
    if 2 ^ 15 ≤ b then none
    else
      match b / 4096 with
      | 0 => if lw == 0 && lh == 0 then some (.comb n) else none
      | 1 => if n < 4 && lw ≤ 4 && lh ≤ 4 && spanInside l (spanAt c.core lw lh n) then some (.span (spanAt c.core lw lh n)) else none
      | 4 =>
        let p := getAt (s.ctx l.ctx).pods n
        let there := if p.phome == s.dev.devid then (s.ctx l.ctx).podBars.any fun x => x.n == n
          else !(s.ctx l.ctx).podViews.any fun v => v.n == n && v.gone
        if lw == 0 && lh == 0 && p.pv && there then some (.pod n) else none
      | _ => none

/-- The scope of a barrier (R234): 0 COMB, 1 CLUSTER, 2 HIVE, 3 DEVICE, 4 POD. -/
def barScope (r : BarRef) : Nat :=
  match r with
  | .comb _ => 0
  | .pod _ => 4
  | .span i =>
    if i.lw ≤ 2 && i.lh ≤ 2 then 1 else if i.lw ≤ 3 && i.lh ≤ 3 then 2 else 3

/-- This device is the home of pod barrier `n` of a context (R331). -/
def podHere (s : State) (c n : Nat) : Bool := (getAt (s.ctx c).pods n).phome == s.dev.devid

/-- The state of a barrier as a comb's device sees it: at another home, the phases and the break that messages told
(R331). -/
def barGet (s : State) (c : Comb) (r : BarRef) : Barrier :=
  match r with
  | .comb n => getAt c.bars n
  | .span i =>
    match s.launch? c.launch with
    | none => {}
    | some l => ((l.spans.find? fun x => x.1 == i).map fun x => x.2).getD {}
  | .pod n =>
    let x := s.ctxOf c
    if s.podHere x n then (((s.ctx x).podBars.find? fun p => p.n == n).map fun p => p.bar).getD {}
    else match (s.ctx x).podViews.find? fun p => p.n == n with
      | some v => { phase := v.phase, broken := v.broken }
      | none => {}

/-- Changes a pod barrier at its home. -/
def modPodBar (s : State) (x n : Nat) (f : PodBar → PodBar) : State :=
  s.modCtx x fun c => { c with podBars := c.podBars.map fun p => if p.n == n then f p else p }

/-- Whether this device knows how a barrier stands: one with another home only when that home has told it (R332)
(DESIGN CHOICE, log 70). -/
def barKnown (s : State) (c : Comb) (r : BarRef) : Bool :=
  match r with
  | .pod n =>
    let x := s.ctxOf c
    s.podHere x n || (s.ctx x).podViews.any fun v => v.n == n && v.told
  | _ => true

/-- Changes what a member knows of a pod barrier. -/
def modPodView (s : State) (x n : Nat) (f : PodView → PodView) : State :=
  s.modCtx x fun c =>
    if c.podViews.any fun p => p.n == n then { c with podViews := c.podViews.map fun p => if p.n == n then f p else p }
    else { c with podViews := f { n := n } :: c.podViews }

/-- Sends a pod message to a device; with PODEN = 0 the stations carry no pod traffic, and it waits there (R323). -/
def podSend (s : State) (dst : Nat) (m : PodMsg) : State :=
  { s with spire := if s.dev.poden then { s.spire with podOut := (dst, m) :: s.spire.podOut }
      else { s.spire with podHeld := s.spire.podHeld ++ [(dst, m)] } }

/-- Tells a device that a barrier has no home here, and remembers it (R332) (DESIGN CHOICE, log 108). -/
def podGone (s : State) (asid n dst : Nat) : State :=
  let s := s.podSend dst { asid := asid, n := n, dev := s.dev.devid.toNat, kind := .gone }
  { s with spire := { s.spire with podTold := (asid, n, dst) :: s.spire.podTold.filter fun x => x != (asid, n, dst) } }

/-- The test of R235: when ARRIVED ≥ EXPECT and PENDING = 0 one phase completes. -/
def tested (b : Barrier) : Barrier :=
  if b.expect ≤ b.arrived && b.pending == 0 then { b with arrived := b.arrived - b.expect, phase := b.phase + 1 } else b

/-- Changes a pod barrier's state at its home and tests it; on completion every device that arrived in the phase is told
(R331), and when a bar.set clears a break every user is (R332). -/
def podChange (s : State) (x n : Nat) (f : Barrier → Barrier) : State :=
  match (s.ctx x).podBars.find? fun p => p.n == n with
  | none => s
  | some p =>
    let b := tested (f p.bar)
    let moved := b.phase != p.bar.phase
    let cleared := p.bar.broken && !b.broken
    let told := (if cleared then p.users else if moved then p.phased else []).filter fun d => d != s.dev.devid.toNat
    told.foldl (fun s d => s.podSend d
        { asid := s.asid x, n := n, dev := s.dev.devid.toNat, phase := b.phase, kind := if cleared then .reset else .completion })
      (s.modPodBar x n fun q => { q with bar := b, phased := if moved then [] else q.phased })

/-- Changes a barrier and tests completion (R235). A pod barrier with another home is reached by a message `m` (R331). -/
def barChange (s : State) (c : Comb) (r : BarRef) (f : Barrier → Barrier) (m : PodMsg) : State :=
  match r with
  | .comb n => s.modCombHome c.id fun x => { x with bars := setAt x.bars n (tested (f (getAt x.bars n))) }
  | .span i =>
    let b := tested (f (s.barGet c r))
    s.modLaunch c.launch fun l => { l with spans := (i, b) :: l.spans.filter fun x => x.1 != i }
  | .pod n =>
    let x := s.ctxOf c
    if s.podHere x n then s.podChange x n f
    else
      let s := if m.kind == .init then s.modPodView x n fun v => { v with broken := false } else s
      s.podSend (getAt (s.ctx x).pods n).phome.toNat { m with asid := s.asid x, n := n, dev := s.dev.devid.toNat }

/-- Breaks a pod barrier at its home, which tells its users (R332). -/
def podBreakHome (s : State) (x n : Nat) : State :=
  match (s.ctx x).podBars.find? fun p => p.n == n with
  | none => s
  | some p =>
    (p.users.filter fun d => d != s.dev.devid.toNat).foldl
      (fun s d => s.podSend d { asid := s.asid x, n := n, dev := s.dev.devid.toNat, kind := .notice })
      (s.modPodBar x n fun q => { q with bar := { q.bar with broken := true } })

/-- Breaks a pod barrier: the member sends one message to the home (R332). -/
def podBreak (s : State) (x n : Nat) : State :=
  if s.podHere x n then s.podBreakHome x n
  else s.podSend (getAt (s.ctx x).pods n).phome.toNat { asid := s.asid x, n := n, dev := s.dev.devid.toNat, kind := .break_ }

/-- Breaks every comb barrier of a comb (R165, R237). -/
def breakComb (s : State) (id : Nat) : State :=
  s.modComb id fun c => { c with bars := c.bars.map fun b => { b with broken := true } }

/-- Every span of a launch that contains a core, with each barrier number (R17, R234). -/
def spansOf (l : Launch) (core : Nat) : List SpanId :=
  ((List.range 5).map fun lw => ((List.range 5).map fun lh => (List.range 4).map fun n => spanAt core lw lh n).flatten).flatten.filter
    fun i => spanInside l i

/-- Breaks span barriers of a launch. -/
def breakSpans (s : State) (n : Nat) (is : List SpanId) : State :=
  s.modLaunch n fun l => { l with
    spans := is.map (fun i => (i, { (((l.spans.find? fun x => x.1 == i).map fun x => x.2).getD {}) with broken := true }))
      ++ l.spans.filter fun x => !is.contains x.1 }

/-- Breaks the pod barriers that a launch's paths used (R332). -/
def breakPods (s : State) (l : Launch) : State := l.podUsed.foldl (fun s n => s.podBreak l.ctx n) s

/-- What a fatal fault of a comb breaks (R165): its barriers, the span barriers of spans that contain its core, and
under R332 the pod barriers its launch used. -/
def breakFor (s : State) (c : Comb) : State :=
  match s.launch? c.launch with
  | none => s.breakComb c.id
  | some l => ((s.breakComb c.id).breakSpans l.num (spansOf l c.core)).breakPods l

/-- Breaks the barrier that `b` names for a comb (R273). -/
def breakBar (s : State) (c : Comb) (r : BarRef) : State :=
  match r with
  | .comb n => s.modComb c.id fun x => { x with bars := setAt x.bars n { (getAt x.bars n) with broken := true } }
  | .span i => s.breakSpans c.launch [i]
  | .pod n => s.podBreak (s.ctxOf c) n

/-- Subtracts landed bytes from a barrier's PENDING and tests it (R273, R235). -/
def landed (s : State) (c : Comb) (b n : Nat) : State :=
  if n = 0 then s
  else match s.barRef c b with
    | none => s
    | some r => s.barChange c r (fun x => { x with pending := x.pending - BitVec.ofNat 64 n }) { asid := 0, n := 0, dev := 0, bytes := BitVec.ofNat 64 n, kind := .pending }

/-! ### Jobs and batches -/

/-- A status entry (R272). -/
def statusEntry (code : Nat) (flags : BitVec 7) (detail : Nat) : W64 :=
  BitVec.ofNat 64 (detail % 2 ^ 49 * 2 ^ 15 + flags.toNat * 256 + code % 256)

/-- Whether a status entry counts as a failure: code 0x10 and above (R272). -/
def isFailure (w : W64) : Bool := 0x10 ≤ (w.extractLsb' 0 8).toNat

/-- Failed jobs of a batch. -/
def failedIn (b : Batch) : Nat := (b.jobs.filter fun j => match j.status with | some w => isFailure w | none => false).length

/-- A batch is complete when every job in it has a status (R275). -/
def batchDone (b : Batch) : Bool := b.jobs.all fun j => j.status.isSome

/-- DONE after a change: the largest n with batches 1 to n complete (R275). -/
def raiseDone (g : Group) : Nat → Group
  | 0 => g
  | n + 1 =>
    match g.batches.find? fun b => b.num == g.done + 1 with
    | some b => if g.done != g.closed && batchDone b then raiseDone { g with done := g.done + 1 } n else g
    | none => g

/-- Dword 0 of a batch record (R276). -/
def batchHead (b : Batch) (failed : Nat) : List Byte :=
  leBytes 8 (b.num.toNat * 2 ^ 32 + b.jobs.length % 65536 * 65536 + failed % 65536)

/-- Position of a job in a batch. -/
def indexIn (n : Nat) : List BatchJob → Nat → Nat
  | [], i => i
  | j :: js, i => if j.num == n then i else indexIn n js (i + 1)

/-- A group whose comb runs, is saved, or has gone while the group's jobs may still want a status. -/
def groupHome? (s : State) (c g : Nat) : Option Group :=
  match (s.combHome? c).bind fun x => x.group? g with
  | some x => some x
  | none => ((s.launches.map fun l => l.orphans).flatten.find? fun x => x.1 == c && x.2.gidx == g).map fun x => x.2

/-- Changes such a group. -/
def modGroupHome (s : State) (c g : Nat) (f : Group → Group) : State :=
  if (s.combHome? c).isSome then s.modCombHome c fun x => x.modGroup g f
  else { s with launches := s.launches.map fun l => { l with orphans := l.orphans.map fun x =>
    if x.1 == c && x.2.gidx == g then (x.1, f x.2) else x } }

/-- The comb of a job; of one that has gone, what barriers need of it (R273). -/
def jobComb (s : State) (j : Job) : Comb := (s.combHome? j.comb).getD { id := j.comb, launch := j.launch, core := j.core }

/-- Keeps the groups of a comb that goes while they have jobs without a status (R275, R286). -/
def keepOrphans (s : State) (c : Comb) : State :=
  s.modLaunch c.launch fun l => { l with orphans := l.orphans ++
    (c.groups.filter fun g => !g.openJobs.isEmpty || g.batches.any fun b => !batchDone b).map fun g =>
      (c.id, { g with paths := [], forks := [], v := [], ended := true }) }

/-- Records a status entry in the group's lists and in the batch record (R276). -/
def recordStatus (s : State) (c g n : Nat) (w : W64) (x : Nat) (lid : W64) : State :=
  let mark := fun (l : List BatchJob) => l.map fun j => if j.num == n then { j with status := some w } else j
  match s.groupHome? c g with
  | none => s
  | some gr =>
    let gr1 := { gr with openJobs := mark gr.openJobs, batches := gr.batches.map fun b => { b with jobs := mark b.jobs } }
    let gr2 := raiseDone gr1 gr1.batches.length
    let s := s.modGroupHome c g fun _ => gr2
    match gr2.batches.find? fun b => b.jobs.any fun j => j.num == n with
    | none => s
    | some b =>
      if b.record == 0 then s
      else
        let a := b.record.toNat
        let s := s.devWriteOr22 x (a + 8 + 8 * indexIn n b.jobs 0) (leBytes 8 w.toNat) lid
        if batchDone b then s.devWriteOr22 x a (batchHead b (failedIn b)) lid else s

/-- The collective instance of a job: CID and STEP of its descriptor (R284). -/
def instOf (j : Job) : Option (Nat × W64) := j.coll.map fun c => (((getAt c.desc 0).extractLsb' 16 16).toNat, getAt c.desc 1)

/-- The local jobs of an ended job's instance no longer wait for it (R337): its hive takes no further part, unless another job of
the instance stands there. -/
def partGone (s : State) (j : Job) : State :=
  let mates := fun (x : Job) => x.num != j.num && x.coll.isSome && instOf x == instOf j
  if s.jobs.any fun x => mates x && hiveOf x.core == hiveOf j.core then s
  else { s with jobs := s.jobs.map fun x => if mates x then { x with coll := x.coll.map fun c => { c with gone := c.gone + 1 } } else x }

/-- Gives a job its status (R272, R300): a failed or cancelled job gives up the bytes it had not landed (R273), the
entry is recorded (R276), and the job leaves the TDT (R270). -/
def giveStatus (s : State) (n code detail : Nat) : State :=
  match s.job? n with
  | none => s
  | some j =>
    let s : State := if j.pb && 0x10 ≤ code then s.landed (s.jobComb j) j.bar j.owed else s
    let s : State := if j.coll.isSome then s.partGone j else s
    let s : State := { s with jobs := (s.jobs.filter fun x => x.num != n).map fun x => { x with edges := x.edges.filter fun e => e != n } }
    s.recordStatus j.comb j.group n (statusEntry code j.flags detail) j.ctx
      (((s.launch? j.launch).map fun l => l.lid).getD 0)

/-- Ends a snapshot's marks and shadows with its arm job (R285, R286). -/
def releaseSnap (s : State) (job : Nat) : State :=
  match s.snaps.find? fun n => n.job == job with
  | none => s
  | some n => { s with snaps := s.snaps.filter fun x => x.job != job }.freePagesOf
      ((n.pages.map fun (p : SnapPage) => p.shadow.map fun (x : Nat × Nat) => x.2).flatten)

/-- Cancels the jobs of a launch (R286): those not started at once and in order; for each running one the device
chooses whether it is cancelled now, and a snapshot arm is. -/
def cancelJobs (s : State) : List Job → State
  | [] => s
  | j :: js =>
    let snap := s.snaps.any fun n => n.job == j.num
    match j.phase with
    | .waiting => ((s.releaseSnap j.num).giveStatus j.num 0x40 0).cancelJobs js
    | _ =>
      if snap then ((s.releaseSnap j.num).giveStatus j.num 0x40 0).cancelJobs js
      else if (s.freeW).getLsbD 0 then (s.spend.giveStatus j.num 0x40 0).cancelJobs js
      else s.spend.cancelJobs js

/-! ### Ends -/

/-- A group has ended when no path of it is left and every instruction it issued has completed (R157). -/
def groupDone (s : State) (c : Nat) (g : Group) : Bool :=
  g.paths.isEmpty && !(s.flights.any fun f => f.comb == c && f.group == g.gidx)

/-- Frees the stack pages and the spilled tiles of a comb (R155, R252). -/
def freeCombPages (s : State) (c : Comb) : State :=
  let ps := (c.groups.map fun g => g.stack.toList).flatten ++ (c.tiles.map fun t => t.spill.toList).flatten
  (s.freePagesOf ps).modCtx (s.ctxOf c) fun x => { x with poolused := x.poolused - BitVec.ofNat 32 ps.length }

/-- Takes a comb off its core: its window's contents and full/empty bits go with it (R19, R172). -/
def liftComb (s : State) (c : Comb) : State :=
  { s with
    combs := s.combs.filter fun x => x.id != c.id
    mem := (s.mem.clear (kScratch c.core c.spOff) c.scratch).clear (sideKey (kScratch c.core c.spOff) 0) (c.scratch / 4)
    full := s.full.filter fun w => !(c.core * 2 ^ 18 + c.spOff / 4 ≤ w && w < c.core * 2 ^ 18 + (c.spOff + c.scratch) / 4)
    coh := { s.coh with mq := s.coh.mq.filter fun e => e.comb != c.id } }

/-- Ends a comb: all its resources are freed in one step (R19), its stack pages and spilled tiles with them (R155,
R252). -/
def endComb (s : State) (c : Comb) : State :=
  (((s.liftComb c).freeCombPages c).keepOrphans c).modLaunch c.launch fun l => { l with ended := l.ended + 1 }

/-- Marks groups that have ended, and ends the comb when all have (R157, R19). -/
def settle (s : State) (c : Nat) : State :=
  match s.comb? c with
  | none => s
  | some cb =>
    let cb := { cb with groups := cb.groups.map fun g => if s.groupDone c g then { g with ended := true } else g }
    let s := s.modComb c fun _ => cb
    if cb.groups.all fun g => g.ended then s.endComb cb else s

/-- What is left of a dual path when an arm has ended: the other arm is the group's only path, and goes on as the main
path (R41, R154). -/
def closeDual (g : Group) : Group :=
  match g.paths.filter fun p => p.kind == .arm with
  | [p] =>
    if g.dual.isSome then
      { g with dual := none, paths := g.paths.map fun x => if x.pix == p.pix then
          { x with kind := .main, wait := if x.wait == .point then .run else x.wait } else x }
    else g
  | _ => g

/-- Releases an origin whose side path has gone (R166). -/
def releaseOrigin (g : Group) (p : Path) : Group :=
  match p.origin with
  | none => g
  | some o =>
    if g.paths.any fun x => x.origin == some o then g
    else { g with paths := g.paths.map fun x => if x.pix == o && x.wait == .point then { x with wait := .run } else x }

/-- The union of the pending flags of two parts (R93). -/
def unionPend (a b : List (Nat × Nat)) : List (Nat × Nat) := a ++ b.filter fun x => !a.contains x

/-- The running part is stored in the top entry, marked held, and the entry's lanes run (R153). -/
def swapTop (p : Path) (e : RecEntry) (rest : List RecEntry) (returned : Option Nat) : Path :=
  let held : RecEntry := { pc := p.pc, pl := p.pl, exm := p.exm, pend := p.pend, rstack := p.rstack, depth := p.depth
                           jid := e.jid, held := true, returned := returned, outer := e.outer }
  { p.lose with
    pc := e.pc, slot := 0, arrived := false, pl := e.pl, exm := e.exm, pend := e.pend, rstack := e.rstack
    depth := e.depth, cstack := held :: rest, freed := false, freedArm := false }

/-- The held top entry merges with the running part (R153). -/
def mergeTop (p : Path) (e : RecEntry) (rest : List RecEntry) : Path :=
  { p.lose with pl := p.pl ||| e.pl, exm := p.exm ||| e.exm, pend := unionPend p.pend e.pend, cstack := rest }

/-- A running part that has returned through the entry of fork `n` (R313): parts that returned before join it, and the
other parts of its stack that belong to the callee run before it goes on (DEDUCED, log 42). -/
def atReturn (n : Nat) (p : Path) : List RecEntry → Path
  | [] => { p with cstack := [], wait := .returned n }
  | e :: rest =>
    if e.outer.contains n then { p with cstack := e :: rest, wait := .returned n }
    else if e.returned == some n then atReturn n (mergeTop p e rest) rest
    else swapTop p e rest (some n)

/-- The running part of a path has ended: its lanes exit (R157); the top of its reconvergence stack runs (R153), or the
path is gone. -/
def endPart (g : Group) (p : Path) : Group :=
  let g := { g with exited := g.exited ||| p.pl }
  match p.cstack with
  | e :: rest =>
    g.modPath p.pix fun x =>
     let x : Path := { x with
      pc := e.pc, slot := 0, arrived := false, pl := e.pl, exm := e.exm, pend := e.pend, rstack := e.rstack
      depth := e.depth, cstack := rest, latches := noLatches, epoch := x.epoch + 1
      endAfter := false, goOn := false, wait := .run, joined := none, freed := false, freedArm := false }
     match e.returned with
     | some n => if (g.fork? n).isSome then atReturn n x rest else x
     | none => x
  | [] =>
    let rest := g.paths.filter fun x => x.pix != p.pix
    let g := { g with paths := rest.map fun x => if x.origin == some p.pix then { x with origin := none } else x }
    releaseOrigin (closeDual g) p

/-- Ends the running part of a path and settles its comb. -/
def endPath (s : State) (r : PathRef) : State :=
  match s.path? r with
  | none => s
  | some p => (s.modGroup r.comb r.group fun g => endPart g p).settle r.comb

/-! ### Abort (R167) -/

/-- The host fault record of a trap (R168). -/
def recOf (s : State) (c : Comb) (g : Group) (code : Nat) (lanes : Lanes) (bundle slot : Nat) (info : W64) : FaultRec :=
  let l := (s.launch? c.launch).getD default
  { code := code, lanes := lanes, core := c.core, gslot := g.gslot, slot := slot, bundle := BitVec.ofNat 64 bundle
    info := info, comb := BitVec.ofNat 64 (combIndex l c), launch := l.lid }

/-- Withdraws the incomplete rendezvous of a comb: the members' flights are gone (R167, R172). -/
def withdrawGangs (s : State) (c : Comb) : State :=
  let fids := (c.gangs.map fun l => l.members.map fun m => m.2).flatten
  { s with flights := s.flights.filter fun f => !fids.contains f.fid }.modComb c.id fun x => { x with gangs := [] }

/-- Aborts a launch (R167): its paths stop, incomplete rendezvous are withdrawn, continuations are discarded (R318),
jobs are cancelled (R286), barriers break (R237, R332), and one host fault record is written. -/
def abort (s : State) (n : Nat) (r : Option FaultRec) : State :=
  match s.launch? n with
  | none => s
  | some l =>
    if l.aborted then s
    else
      let s : State := match r with
        | some r => s.hostRecord l.ctx r
        | none => s
      let s := s.modLaunch n fun l => { l with aborted := true }
      let cs := s.combs.filter fun c => c.launch == n
      let s : State := { s with clk := { s.clk with issuing := s.clk.issuing.filter fun x => !cs.any fun c => c.id == x.comb } }
      let s := cs.foldl (fun s c => s.withdrawGangs c) s
      let s := cs.foldl (fun s c => s.modComb c.id fun x => { x with groups := x.groups.map fun g =>
        { g with forks := [], paths := g.paths.filter fun p => p.kind != .cont } }) s
      let s := s.cancelJobs (s.jobs.filter fun j => j.launch == n)
      let s := cs.foldl (fun s c => s.breakComb c.id) s
      let s : State := match s.launch? n with
        | some l => (s.breakSpans n ((List.range 256).map fun k => spansOf l k).flatten.eraseDups).breakPods l
        | none => s
      { s with flights := s.flights.filter fun f => !(f.cont.isSome && cs.any fun c => c.id == f.comb) }

/-! ### Stack pages (R155, R353) -/

/-- The hive that R36 gives a launch's pages without granule or hint: that of the rectangle's origin core. -/
def originHive (s : State) (n : Nat) : Nat :=
  match s.launch? n with
  | some l => hiveXY l.x0 l.y0
  | none => 0

/-- Takes a page of a context's managed pool for the device's own use (R155, R252): it counts in POOLUSED. -/
def poolPage (s : State) (c hive : Nat) : Option (Nat × State) :=
  match s.makeRoom c 1 ((s.ctx c).held.length + 1) with
  | none => none
  | some s =>
    match s.takePage (s.emptier hive) with
    | none => none
    | some (p, s) => some (p, (s.zeroPages p 1).modCtx c fun x => { x with poolused := x.poolused + 1 })

/-- Makes sure that a group has its stack page; none when it cannot be allocated (R155). -/
def withStack (s : State) (c : Comb) (g : Group) : Option State :=
  match g.stack with
  | some _ => some s
  | none =>
    match s.poolPage (s.ctxOf c) (s.originHive c.launch) with
    | none => none
    | some (p, s) => some (s.modGroup c.id g.gidx fun x => { x with stack := some p })

end State

/-! ### Traps (R163, R164) -/

/-- A trap condition: its code, its lane mask and INFO. -/
structure Trap where
  code    : Nat
  lanes   : Lanes
  info    : W64 := 0
  /-- INFO is not stated by the spec for this code: a free value (log 20) -/
  open_   : Bool := false
  arrival : Bool := false
  /-- the pager has written the host fault record (R165) -/
  recorded : Bool := false
deriving DecidableEq, Repr, Inhabited

/-- Default RESUME (R163). -/
def defaultResume (code : Nat) : Nat := if code == 0x0A then 1 else 3

/-- The trap record's eight dwords (R164). -/
def trapBytes (t : TrapRec) : List Byte :=
  leBytes 8 (defaultResume t.code * 1024 + t.slot * 256 + t.code) ++ leBytes 8 t.bundle
    ++ leBytes 8 (t.exmsave.toNat * 2 ^ 32 + t.lanes.toNat) ++ leBytes 8 t.info.toNat ++ leBytes 8 t.s63save.toNat
    ++ List.replicate 24 0

/-- HANDLER of a TRAPVEC value (R159). -/
def handlerOf (v : W64) : Nat := (v.extractLsb' 6 50).toNat * 64

namespace State

/-- Takes a trap on a path at its bundle and slot (R164): the record goes to the path's trap slot, s63 to its address,
EXM to the trap's lanes, the path is in-handler, its latches are lost and it continues at HANDLER. Without TRAPVEC.EN,
in a handler, or without a stack page, the launch aborts (R167) (DESIGN CHOICE, log 20). The record of a double trap has the
second trap's INFO (DESIGN CHOICE, log 129). -/
def takeTrap (s : State) (r : PathRef) (t : Trap) : State :=
  match s.comb? r.comb with
  | none => s
  | some c =>
    match c.group? r.group with
    | none => s
    | some g =>
      match g.path? r.path with
      | none => s
      | some p =>
        let info := if t.open_ then s.freeW else t.info
        let s : State := if t.open_ then s.spend else s
        let rec0 := if t.recorded then none else some (s.recOf c g t.code t.lanes p.pc p.slot info)
        if p.inHandler then s.abort c.launch (rec0.map fun _ => s.recOf c g 0x14 p.exm p.pc p.slot info)
        else if !g.trapvec.getLsbD 0 then s.abort c.launch rec0
        else
          match s.withStack c g with
          | none => s.abort c.launch rec0
          | some s =>
            let page := ((s.group? c.id g.gidx).bind fun x => x.stack).getD 0
            let rec_ : TrapRec :=
              { code := t.code, slot := p.slot % 4, bundle := p.pc, exmsave := p.exm, lanes := t.lanes,
                info := info, s63save := getAt g.s 63, arrival := t.arrival, home := p.pix,
                recorded := t.recorded }
            let s := s.writeRecord c.core (cellsFrom (kTower (page * 65536 + 64 * p.pix)) (trapBytes rec_))
            s.modGroup c.id g.gidx fun x =>
              ({ x with s := setAt x.s 63 (BitVec.ofNat 64 (stackVa c.core g + 64 * p.pix)) }).modPath p.pix fun q =>
                { q with exm := t.lanes, inHandler := true, trap := some rec_, latches := noLatches, epoch := q.epoch + 1
                         pc := handlerOf g.trapvec, slot := 0, arrived := false, wait := .run, joined := none, goOn := false }

/-- The place of RESUME in the path's trap record: the byte that holds it in bits [3:2] (R164). -/
def resumeKey (g : Group) (p : Path) : Option Nat :=
  match g.stack, p.trap with
  | some page, some t => some (kTower (page * 65536 + 64 * t.home + 1))
  | _, _ => none

/-- Whether a path has a live parked or side path of its own (R166); with `here`, one that it left at its present bundle. -/
def hasSide (g : Group) (p : Path) (here : Bool) : Bool :=
  g.paths.any fun x => x.kind == .side && x.origin == some p.pix
    && (!here || x.pc == p.pc || (match x.trap with | some t => t.bundle == p.pc | none => false))

/-- A path has issued the last valid slot of an END bundle: it ends (R95), but an origin first waits there for its side path
(R166). -/
def reachEnd (s : State) (r : PathRef) : State :=
  match s.group? r.comb r.group with
  | none => s
  | some g =>
    match g.path? r.path with
    | none => s
    | some p =>
      if (hasSide g p false && !p.freed) || (!p.endAfter && hasSide g p true) then
        s.modPath r fun p => { p with wait := .point, freed := false, arrived := false, goOn := true, endAfter := true }
      else s.endPath r

/-- Continues a path after the instruction in slot `k` of its bundle: at the next valid slot, at the next bundle, or at
its end when the bundle has END (R41, R95, R97). -/
def goAfter (s : State) (r : PathRef) (b : Bundle) (k : Nat) : State :=
  match b.nextValid (k + 1) with
  | some j => s.modPath r fun p => { p with slot := j }
  | none =>
    if b.fin then s.reachEnd r
    else s.modPath r fun p => { p with pc := (p.pc + 64) % 2 ^ 64, slot := 0, arrived := false, freed := false, freedArm := false }

/-- Returns from a trap handler (R164): EXM and s63 are restored, the path leaves the handler and loses its latches,
and RESUME, `mode`, says how it goes on. `bundleAt` gives a bundle whose line is in the instruction cache; when that of
the trapped bundle is not, or the trap came on arriving at it, the path goes on after the slot once it has arrived there with
the line (R95, R97, R98) (DESIGN CHOICE, log 123). -/
def returnTrap (s : State) (r : PathRef) (mode : Nat) (bundleAt : Nat → Option Bundle) : State :=
  match s.comb? r.comb with
  | none => s
  | some c =>
    match c.group? r.group with
    | none => s
    | some g =>
      match g.path? r.path with
      | none => s
      | some p =>
        match p.trap with
        | none => s
        | some t =>
          let s := s.modGroup c.id g.gidx fun x =>
            ({ x with s := setAt x.s 63 t.s63save }).modPath p.pix fun q =>
              { q with exm := t.exmsave &&& q.pl, inHandler := false, trap := none, latches := noLatches, epoch := q.epoch + 1
                       pc := t.bundle, slot := t.slot, arrived := !t.arrival }
          if mode == 3 then
            s.abort c.launch (if t.recorded then none else some (s.recOf c g t.code t.lanes t.bundle t.slot t.info))
          else if mode == 0 then s
          else
            let s : State := if mode == 2 then
                s.modGroup c.id g.gidx fun x =>
                  ({ x with exited := x.exited ||| (t.lanes &&& p.pl) }).modPath p.pix fun q =>
                    { q with pl := q.pl &&& ~~~t.lanes, exm := q.exm &&& ~~~t.lanes }
              else s
            match s.path? r with
            | none => s
            | some q =>
              if q.pl == 0 then s.endPath r
              else
                match (if t.arrival then none else bundleAt t.bundle) with
                | none => s.modPath r fun q => { q with goOn := true, arrived := false }
                | some b => s.goAfter r b t.slot

end State

end Sys2Proof.Machine
end

