-- ==== Sys2Proof/Machine/Flags.lean ====
section
/-! DEFINITION. The flags: the bits of NF (R71), how they are raised and written (R72), FMODE (R73), and the views of
the special registers (R22 to R25, R71 to R74, R158, R159, R209, R248, R275, R306, R319). -/

namespace Sys2Proof.Machine

/-! ### NF (R71) -/

/-- The seven flags of NF. -/
structure Fl where
  nv : Bool := false
  dz : Bool := false
  ovf : Bool := false
  uf : Bool := false
  nx : Bool := false
  sa : Bool := false
  rc : Bool := false
deriving DecidableEq, Repr, Inhabited

namespace Fl

def clear : Fl := {}
/-- ORs flags (R72). -/
def or (a b : Fl) : Fl :=
  { nv := a.nv || b.nv, dz := a.dz || b.dz, ovf := a.ovf || b.ovf, uf := a.uf || b.uf, nx := a.nx || b.nx,
    sa := a.sa || b.sa, rc := a.rc || b.rc }
/-- The bits of NF (R71). -/
def bits (a : Fl) : BitVec 7 :=
  BitVec.ofBool a.rc ++ BitVec.ofBool a.sa ++ BitVec.ofBool a.nx ++ BitVec.ofBool a.uf ++ BitVec.ofBool a.ovf
    ++ BitVec.ofBool a.dz ++ BitVec.ofBool a.nv
def all (l : List Fl) : Fl := l.foldl or clear

end Fl

/-! ### FMODE, GANG and the other writable registers -/

/-- What a write of FMODE.RM stores (R73). -/
def rmStored (r : BitVec 3) : BitVec 3 := if r == 5 || r == 6 || r == 7 then 0 else r

/-- What a write of PART.LOGW stores (R159). -/
def logwStored (r : BitVec 3) : BitVec 3 := if r == 0 || r == 6 || r == 7 then 5 else r

/-- Bits set in a word. -/
def popCount (n : Nat) (w : Nat) : Nat := ((List.range n).filter fun i => w.testBit i).length

/-- What a write of GANG stores (R248): 0 unless the writer is a member, every member is below G, and there are 2 to
GANGW of them. -/
def gangStored (v : W16) (gidx g gangw : Nat) : W16 :=
  let n := popCount 16 v.toNat
  if v.getLsbD gidx && v.toNat < 2 ^ g && 2 ≤ n && n ≤ gangw then v else 0

/-- The TRAPVEC bits that are kept (R159). -/
def trapvecMask : W64 := 0x00FFFFFFFFFFFFC1#64

/-- FMODE as it reads (R73). -/
def fmodeOf (g : Group) : W64 := BitVec.ofNat 64 ((if g.satf then 8 else 0) + g.frm.toNat)

/-- GROUPID as a path of the group reads it (R24): GSLOT and ISLOT are the group's, and SHADOWP tells a continuation. -/
def groupId (g : Group) (shadow : Bool) : W64 :=
  BitVec.ofNat 64 ((if shadow then 4096 else 0) + g.gslot % 4 * 1024 + g.gslot * 16 + g.gidx)

/-- BATCH (R275). -/
def batchOf (g : Group) : W64 := BitVec.ofNat 64 (g.closed.toNat * 2 ^ 32 + g.done.toNat)

/-- The value of a special register for a path (R158). A continuation reads GROUPID with SHADOWP set (R305). -/
def readSpecial (s : State) (c : Comb) (g : Group) (p : Path) (r : SReg) : W64 :=
  match r with
  | .exm => p.exm.setWidth 64
  | .part => g.logw.setWidth 64
  | .prio => g.prio.setWidth 64
  | .gang => g.gang.setWidth 64
  | .seed => g.seed
  | .nf => g.nf.setWidth 64
  | .fmode => fmodeOf g
  | .fdepth => p.fdepth.setWidth 64
  | .spbase => c.spBase
  | .spsize => BitVec.ofNat 64 c.scratch
  | .combid => combId c
  | .groupid => groupId g (g.contFork? p.pix).isSome
  | .core => coreReg c.core
  | .batch => batchOf g
  | .trapvec => g.trapvec
  | .fstat => s.fstat c.core
  | .karg => ((s.launch? c.launch).map fun l => l.karg).getD 0

/-- A write to a special register of a group, with the access rules of its fields (R158, R159, R25, R71, R73, R248). -/
def writeGroupReg (g : Group) (gCount gangw : Nat) (r : SReg) (v : W64) : Group :=
  match r with
  | .part => { g with logw := logwStored (v.setWidth 3) }
  | .prio => { g with prio := v.setWidth 4 }
  | .gang => { g with gang := gangStored (v.setWidth 16) g.gidx gCount gangw }
  | .seed => { g with seed := v }
  | .nf => { g with nf := v.setWidth 7 }
  | .fmode => { g with satf := v.getLsbD 3, frm := rmStored (v.setWidth 3) }
  | .trapvec => { g with trapvec := v &&& trapvecMask }
  | _ => g

/-- A PRIO write completed at a cycle: choices of that cycle still use the PRIO from before it (R25). -/
def Group.prioSince (g h : Group) (cycle : Nat) : Group :=
  { h with prioAt := cycle, prioOld := if g.prioAt == cycle then g.prioOld else g.prio }

/-- A write to a special register by a path (R158): EXM keeps the lanes of PL, FSTAT is the core's. A write of PRIO
completes in the cycle to come and counts in the choices of the cycle after that (R25). -/
def writeSpecial (s : State) (r : PathRef) (reg : SReg) (v : W64) : State :=
  match s.comb? r.comb with
  | none => s
  | some c =>
    let gw := ((s.launch? c.launch).map fun l => l.desc.gangw).getD 0
    match reg with
    | .exm => s.modPath r fun p => { p with exm := v.setWidth 32 &&& p.pl }
    | .fstat => s.setFstat c.core v
    | .prio => s.modGroup r.comb r.group fun g => g.prioSince (writeGroupReg g c.g gw reg v) (s.clk.cycle + 1)
    | _ => s.modGroup r.comb r.group fun g => writeGroupReg g c.g gw reg v

end Sys2Proof.Machine
end

