-- ==== Sys2Proof/Machine/Numbers.lean ====
section
/-! DEFINITION. Numbers: what a code of each element type stands for (R50 to R62), exact arithmetic on such values
(R51), and rounding into a type with its flags (R63 to R69). -/

namespace Sys2Proof.Machine

/-- A value: a NaN, an infinity, or the exact number `(-1)^neg * m * 2^e`; a zero keeps its sign. -/
inductive Num where
  | nan (signalling : Bool)
  | inf (neg : Bool)
  | fin (neg : Bool) (m : Nat) (e : Int)
deriving DecidableEq, Repr, Inhabited

/-! ### Floating-point formats (R50, R53) -/

/-- A binary format: exponent and mantissa fields, bias, the code of the largest finite magnitude, whether the next
code is infinity, and the canonical NaN. -/
structure FloatP where
  mbits   : Nat
  bias    : Nat
  maxCode : Nat
  hasInf  : Bool
  canon   : Nat
  /-- a NaN is quiet when this bit is set (R50, R53); none where every NaN is quiet -/
  quiet   : Option Nat
deriving DecidableEq, Repr, Inhabited

/-- The float formats (R50, R53). -/
def floatP : Fmt → Option FloatP
  | .f32 => some { mbits := 23, bias := 127, maxCode := 0x7F7FFFFF, hasInf := true, canon := 0x7FC00000, quiet := some 22 }
  | .bf16 => some { mbits := 7, bias := 127, maxCode := 0x7F7F, hasInf := true, canon := 0x7FC0, quiet := some 6 }
  | .f16 => some { mbits := 10, bias := 15, maxCode := 0x7BFF, hasInf := true, canon := 0x7E00, quiet := some 9 }
  | .e4m3 => some { mbits := 3, bias := 7, maxCode := 0x7E, hasInf := false, canon := 0x7F, quiet := none }
  | .e5m2 => some { mbits := 2, bias := 15, maxCode := 0x7B, hasInf := true, canon := 0x7E, quiet := some 1 }
  | .e2m3 => some { mbits := 3, bias := 1, maxCode := 0x1F, hasInf := false, canon := 0, quiet := none }
  | .e3m2 => some { mbits := 2, bias := 3, maxCode := 0x1F, hasInf := false, canon := 0, quiet := none }
  | .e2m1 => some { mbits := 1, bias := 1, maxCode := 0x7, hasInf := false, canon := 0, quiet := none }
  | _ => none

/-- The tapered types: magnitude bits and exponent bits (R56). -/
def taper : Fmt → Option (Nat × Nat)
  | .tp8 => some (7, 1)
  | .tp6 => some (5, 0)
  | _ => none

/-- The integer types: signedness (R60). -/
def intSigned : Fmt → Option Bool
  | .i8 | .i16 | .i32 | .i64 => some true
  | .n8 | .n16 | .n32 | .n64 => some false
  | _ => none

/-- The sign bit of a code. -/
def signBit (t : Fmt) : Nat := 2 ^ (t.bits - 1)

/-- Leading bits of a `w`-bit number that equal its top bit. -/
def runLen (w g : Nat) : Nat :=
  ((List.range w).takeWhile fun i => g.testBit (w - 1 - i) == g.testBit (w - 1)).length

/-- DecodeTP (R56), for a magnitude field `g` of `n` bits with `eb` exponent bits: the value is `m * 2^e`. -/
def decodeTP (n eb g : Nat) : Nat × Int :=
  let k := runLen n g
  let m : Int := if g.testBit (n - 1) then (k : Int) - 1 else -(k : Int)
  let w := n - k - 1
  let e := if eb ≤ w && eb == 1 then (if g.testBit (w - 1) then 1 else 0) else 0
  let fb := w - min w eb
  let f := g % 2 ^ fb
  (2 ^ fb + f, (1 + eb : Int) * m + e - fb)

/-- The value of a code of a type (R50, R53, R56, R60, R61). -/
def decodeNum (t : Fmt) (code : Nat) : Num :=
  match floatP t with
  | some p =>
    let s := code.testBit (t.bits - 1)
    let g := code % signBit t
    if p.maxCode < g then
      (if p.hasInf && g == p.maxCode + 1 then .inf s
       else .nan (match p.quiet with | some q => !code.testBit q | none => false))
    else
      let x := g / 2 ^ p.mbits
      let f := g % 2 ^ p.mbits
      if x = 0 then .fin s f (1 - p.bias - p.mbits) else .fin s (2 ^ p.mbits + f) (x - p.bias - p.mbits)
  | none =>
    match taper t with
    | some (n, eb) =>
      let s := code.testBit n
      let g := code % 2 ^ n
      if g = 0 then (if s then .nan false else .fin false 0 0) else .fin s (decodeTP n eb g).1 (decodeTP n eb g).2
    | none =>
      match intSigned t with
      | some sg =>
        let c := code % 2 ^ t.bits
        if sg && signBit t ≤ c then .fin true (2 ^ t.bits - c) 0 else .fin false c 0
      | none => if code % 256 = 255 then .nan false else .fin false 1 ((code % 256 : Nat) - 127)

/-- The flags of reading a code as an arithmetic operand (R69). -/
def readFl (t : Fmt) (code : Nat) : Fl :=
  match taper t with
  | some (n, _) => if code % 2 ^ (n + 1) = 2 ^ n then { nv := true, rc := true } else {}
  | none => match decodeNum t code with
    | .nan true => { nv := true }
    | _ => {}

namespace Num

def isNan : Num → Bool
  | .nan _ => true
  | _ => false
def isInf : Num → Bool
  | .inf _ => true
  | _ => false
def isZero : Num → Bool
  | .fin _ 0 _ => true
  | _ => false
def neg? : Num → Bool
  | .nan _ => false
  | .inf s => s
  | .fin s _ _ => s

/-- The negated value. -/
def negate : Num → Num
  | .nan q => .nan q
  | .inf s => .inf (!s)
  | .fin s m e => .fin (!s) m e

/-- The magnitude. -/
def abs : Num → Num
  | .nan q => .nan q
  | .inf _ => .inf false
  | .fin _ m e => .fin false m e

/-- The value times 2^k. -/
def scale (k : Int) : Num → Num
  | .fin s m e => .fin s m (e + k)
  | x => x

/-- A whole number. -/
def ofInt (v : Int) : Num := .fin (decide (v < 0)) v.natAbs 0

/-- `m * 2^(e - k)` for `k ≤ e`. -/
def lift (m : Nat) (e k : Int) : Nat := m * 2 ^ (e - k).toNat

/-- The signed whole number that a finite value is in units of 2^k, `k` at most its exponent. -/
def unitsAt (s : Bool) (m : Nat) (e k : Int) : Int := if s then -(lift m e k : Int) else lift m e k

/-- Exact sum (R51), and whether it is invalid; `rdn` gives an exact zero sum of opposite signs its minus sign. -/
def add (rdn : Bool) (a b : Num) : Num × Bool :=
  match a, b with
  | .nan _, _ => (.nan false, false)
  | _, .nan _ => (.nan false, false)
  | .inf s, .inf t => if s == t then (.inf s, false) else (.nan false, true)
  | .inf s, .fin _ _ _ => (.inf s, false)
  | .fin _ _ _, .inf t => (.inf t, false)
  | .fin s m e, .fin t n f =>
    let k := min e f
    let v := unitsAt s m e k + unitsAt t n f k
    if v = 0 then (.fin (if s == t then s else rdn) 0 0, false) else (.fin (decide (v < 0)) v.natAbs k, false)

/-- Exact product (R51), and whether it is invalid. -/
def mul (a b : Num) : Num × Bool :=
  match a, b with
  | .nan _, _ => (.nan false, false)
  | _, .nan _ => (.nan false, false)
  | .inf s, .inf t => (.inf (s != t), false)
  | .inf s, .fin t n _ => if n = 0 then (.nan false, true) else (.inf (s != t), false)
  | .fin s m _, .inf t => if m = 0 then (.nan false, true) else (.inf (s != t), false)
  | .fin s m e, .fin t n f => (.fin (s != t) (m * n) (e + f), false)

/-- Whether the finite magnitude `m * 2^e` is below `n * 2^f`. -/
def magLt (m : Nat) (e : Int) (n : Nat) (f : Int) : Bool := decide (lift m e (min e f) < lift n f (min e f))

/-- The order -infinity < ... < -0 < +0 < ... < +infinity (R184); NaN is below nothing. -/
def lt (a b : Num) : Bool :=
  match a, b with
  | .nan _, _ => false
  | _, .nan _ => false
  | .inf s, .inf t => s && !t
  | .inf s, .fin _ _ _ => s
  | .fin _ _ _, .inf t => !t
  | .fin s m e, .fin t n f =>
    if s && !t then true
    else if !s && t then false
    else if s then magLt n f m e
    else magLt m e n f

/-- Comparison as numbers: +0 equals -0 (R185). -/
def cmpLt (a b : Num) : Bool := lt a b && !(a.isZero && b.isZero)
def cmpEq (a b : Num) : Bool := !a.isNan && !b.isNan && !cmpLt a b && !cmpLt b a

/-- floor(log2 |x|) of a nonzero finite value. -/
def log2 : Num → Int
  | .fin _ m e => (Nat.log2 m : Int) + e
  | _ => 0

end Num

/-! ### Rounding (R63 to R68) -/

/-- SRBits (R64). -/
def srBits (seed : W64) (n : Nat) : Nat :=
  let x := seed ^^^ (BitVec.ofNat 64 n * 0x9E3779B97F4A7C15)
  let x := x ^^^ (x >>> 30)
  let x := x * 0xBF58476D1CE4E5B9
  let x := x ^^^ (x >>> 27)
  let x := x * 0x94D049BB133111EB
  let x := x ^^^ (x >>> 31)
  (x.extractLsb' 48 16).toNat

/-- How a result is rounded: the mode's code, SATF, the seed of stochastic rounding. -/
structure Rnd where
  mode : Nat := 0
  satf : Bool := false
  seed : W64 := 0
deriving DecidableEq, Repr, Inhabited

/-- SR applies to results narrower than 32 bits; elsewhere it rounds as RNE (R63). -/
def Rnd.modeFor (r : Rnd) (t : Fmt) : Nat := if r.mode == 4 && 32 ≤ t.bits then 0 else r.mode

/-- Whether the upper neighbour is taken, for φ = num / den in [0, 1) and a lower neighbour whose code is odd (R66). -/
def goUp (mode : Nat) (neg odd : Bool) (num den bits : Nat) : Bool :=
  num != 0 && (match mode with
    | 0 => decide (den < 2 * num) || (2 * num == den && odd)
    | 2 => !neg
    | 3 => neg
    | 4 => decide (bits < num * 65536 / den)
    | _ => false)

/-- The outcome at or above Beyond (R66). -/
def goBeyond (mode : Nat) (neg : Bool) : Bool :=
  match mode with
  | 0 | 4 => true
  | 2 => !neg
  | 3 => neg
  | _ => false

/-- `m * 2^e` split into a whole number of units 2^k and the rest as a fraction of a unit. -/
def splitAt (m : Nat) (e k : Int) : Nat × Nat × Nat :=
  if k ≤ e then (m * 2 ^ (e - k).toNat, 0, 1)
  else
    let d := 2 ^ (k - e).toNat
    (m / d, m % d, d)

/-- Rounds the nonzero finite value into a binary float (R66); `clamp` for F' of R79. -/
def roundFloat (p : FloatP) (sgn : Nat) (satOk clamp : Bool) (mode : Nat) (neg : Bool) (m : Nat) (e : Int) (bits : Nat) :
    Nat × Fl :=
  let emin : Int := 1 - p.bias
  let k := max ((Nat.log2 m : Int) + e) emin
  let (n, num, den) := splitAt m e (k - p.mbits)
  let lo := (k - emin).toNat * 2 ^ p.mbits + n
  let past := p.maxCode < lo || (lo == p.maxCode && num != 0)
  let q := if p.maxCode < lo then p.maxCode + (if goBeyond mode neg then 1 else 0)
    else lo + (if goUp mode neg (lo % 2 == 1) num den bits then 1 else 0)
  let toInf := past && q == p.maxCode + 1 && p.hasInf && !satOk && !clamp
  let code := if past && !toInf then p.maxCode else q
  let nx := past || num != 0
  ((if neg then sgn else 0) + code,
    { ovf := past, sa := past && !toInf, nx := nx, uf := nx && decide (lo < 2 ^ p.mbits) })

/-- The largest magnitude code of a tapered type that is at most `m * 2^e`, from `c` down. -/
def taperLo (n eb m : Nat) (e : Int) : Nat → Nat
  | 0 => 0
  | c + 1 => if Num.magLt m e (decodeTP n eb (c + 1)).1 (decodeTP n eb (c + 1)).2 then taperLo n eb m e c else c + 1

/-- Rounds the nonzero finite value into a tapered type (R66). -/
def roundTaper (n eb mode : Nat) (neg : Bool) (m : Nat) (e : Int) (bits : Nat) : Nat × Fl :=
  let top := 2 ^ n - 1
  let sg := if neg then 2 ^ n else 0
  let lo := taperLo n eb m e top
  let v := decodeTP n eb lo
  if lo = 0 then (sg + 1, { uf := true, nx := true, sa := true })
  else if lo = top then
    (if Num.magLt v.1 v.2 m e then (sg + top, { ovf := true, nx := true, sa := true }) else (sg + top, {}))
  else
    let w := decodeTP n eb (lo + 1)
    let k := min e (min v.2 w.2)
    let a := Num.lift m e k
    let l := Num.lift v.1 v.2 k
    let h := Num.lift w.1 w.2 k
    (sg + lo + (if goUp mode neg (lo % 2 == 1) (a - l) (h - l) bits then 1 else 0), { nx := a != l })

/-- The code of an integer in a type of `w` bits. -/
def intCode (w : Nat) (v : Int) : Nat := (v % (2 ^ w : Nat)).toNat

/-- The range of an integer type. -/
def intLo (signed : Bool) (w : Nat) : Int := if signed then -(2 ^ (w - 1) : Nat) else 0
def intHi (signed : Bool) (w : Nat) : Int := if signed then (2 ^ (w - 1) : Nat) - 1 else (2 ^ w : Nat) - 1

/-- Rounds a finite value to a whole number in a range and clamps it (R66). -/
def roundInt (lo hi : Int) (mode : Nat) (neg : Bool) (m : Nat) (e : Int) (bits : Nat) : Int × Fl :=
  let (n, num, den) := splitAt m e 0
  let q := n + (if goUp mode neg (n % 2 == 1) num den bits then 1 else 0)
  let v : Int := if neg then -(q : Int) else q
  if v < lo then (lo, { sa := true, nx := true })
  else if hi < v then (hi, { sa := true, nx := true })
  else (v, { nx := num != 0 })

/-- Special (R68): NaN, infinity and zero in each type but e8m0. -/
def special (t : Fmt) (x : Num) : Nat × Fl :=
  match floatP t with
  | some p =>
    let sg := fun (s : Bool) => if s then signBit t else 0
    match x with
    | .nan _ => if p.canon == 0 then (0, { nv := true }) else (p.canon, {})
    | .inf s => if p.hasInf then (sg s + p.maxCode + 1, {}) else (sg s + p.maxCode, { sa := true })
    | .fin s _ _ => (sg s, {})
  | none =>
    match taper t with
    | some (n, _) => (match x with
      | .nan _ => (2 ^ n, {})
      | .inf s => ((if s then 2 ^ n else 0) + 2 ^ n - 1, { sa := true })
      | .fin _ _ _ => (0, {}))
    | none =>
      match intSigned t with
      | some sg => (match x with
        | .nan _ => (0, { nv := true })
        | .inf s => (intCode t.bits (if s then intLo sg t.bits else intHi sg t.bits), { nv := true })
        | .fin _ _ _ => (0, {}))
      | none => (0xFF, {})

/-- The conversion to e8m0 (R189). -/
def toE8m0 (x : Num) (mode bits : Nat) : Nat × Fl :=
  match x with
  | .nan _ => (0xFF, {})
  | .inf _ => (0xFF, { nv := true })
  | .fin neg m e =>
    if m = 0 || neg then (0xFF, { nv := true })
    else
      let k := (Nat.log2 m : Int) + e
      let exact := m == 2 ^ Nat.log2 m
      if k < -127 then (0x00, { uf := true, sa := true, nx := true })
      else if 127 < k || (k == 127 && !exact) then (0xFE, { ovf := true, sa := true, nx := true })
      else
        let lo := (k + 127).toNat
        let d := 2 ^ Nat.log2 m
        (lo + (if goUp mode false (lo % 2 == 1) (m - d) d bits then 1 else 0), { nx := !exact })

/-- RoundTo (R66): the code of a type for an exact value, with the flags that the rounding raises. `idx` indexes the
stochastic draw. -/
def roundTo (x : Num) (t : Fmt) (r : Rnd) (idx : Nat) : Nat × Fl :=
  let mode := r.modeFor t
  let bits := srBits r.seed idx
  match x with
  | .fin neg m e =>
    if t == .e8m0 then toE8m0 x mode bits
    else if m = 0 then special t x
    else
      match floatP t with
      | some p => roundFloat p (signBit t) (r.satf && (t == .e5m2 || t == .f16 || t == .bf16)) false mode neg m e bits
      | none =>
        match taper t with
        | some (n, eb) => roundTaper n eb mode neg m e bits
        | none =>
          match intSigned t with
          | some sg =>
            let v := roundInt (intLo sg t.bits) (intHi sg t.bits) mode neg m e bits
            (intCode t.bits v.1, v.2)
          | none => (0, {})
  | _ => if t == .e8m0 then toE8m0 x mode bits else special t x

/-- Rounding by nearest-even into f32, as the fixed reductions do (R87, R201). -/
def toF32 (x : Num) : Nat × Fl := roundTo x .f32 {} 0

/-- The f32 value of a word. -/
def f32 (w : W32) : Num := decodeNum .f32 w.toNat

/-- fmm's minimum and maximum of values (R184). -/
def numMin (a b : Num) : Num := if a.isNan || b.isNan then .nan false else if b.lt a then b else a
def numMax (a b : Num) : Num := if a.isNan || b.isNan then .nan false else if a.lt b then b else a

/-- The code of a value that a type holds exactly, NaN as the canonical NaN (R52). -/
def exactCode (t : Fmt) (x : Num) : Nat := (roundTo x t {} 0).1

end Sys2Proof.Machine
end

