-- ==== Sys2Proof/Machine/Blocks.lean ====
section
/-! DEFINITION. Blocks with a scale and micro-exponents (R75 to R80), elements in words, lines and register pairs
(R81, R82, R85, R174), and the transfers between lines and register pairs (R86). -/

namespace Sys2Proof.Machine

/-! ### Elements of a packed number (R81, R85, R174) -/

/-- Element `i` of a packed number. -/
def elemAt (t : Fmt) (w i : Nat) : Nat := w / 2 ^ (t.bits * i) % 2 ^ t.bits

/-- A packed number from its elements. -/
def packElems (t : Fmt) : List Nat → Nat
  | [] => 0
  | x :: xs => x % 2 ^ t.bits + 2 ^ t.bits * packElems t xs

/-- Elements of a scaled line (R81): 1024 bits, or 960 for 6-bit types. -/
def lineElems (t : Fmt) : Nat := if t.bits = 6 then 160 else 1024 / t.bits

/-- Elements of a lane's register block (R85). -/
def laneElems (t : Fmt) : Nat := t.perReg

/-! ### Scales (R61, R75 to R79) -/

/-- MaxV as m * 2^e, and EMAX (R75). -/
def maxV (t : Fmt) : Nat × Int :=
  match t with
  | .e4m3 => (448, 0)
  | .e5m2 => (57344, 0)
  | .e2m3 => (15, -1)
  | .e3m2 => (28, 0)
  | .e2m1 => (6, 0)
  | .i8 => (127, -6)
  | .tp8 => (4096, 0)
  | .tp6 => (16, 0)
  | _ => (1, 0)

def emax (t : Fmt) : Int := (Nat.log2 (maxV t).1 : Int) + (maxV t).2

/-- The larger magnitude of two finite values, and of a list. -/
def magMax (a b : Num) : Num := if (Num.abs a).lt (Num.abs b) then Num.abs b else Num.abs a
def magMaxAll (xs : List Num) : Num := xs.foldl magMax (.fin false 0 0)

/-- Whether a value is NaN or infinite. -/
def wild (x : Num) : Bool := x.isNan || x.isInf

/-- The scale for a largest magnitude (R76, R191). -/
def scaleFor (t : Fmt) (a : Num) : Nat :=
  if wild a then 0xFF
  else if a.isZero then 0
  else (min (max (a.log2 - emax t + 127) 0) 254).toNat

/-- ScaleOf (R76). -/
def scaleOf (t : Fmt) (xs : List Num) : Nat := if xs.any wild then 0xFF else scaleFor t (magMaxAll xs)

/-- The micro-exponent bit of a pair under scale `x` (R77). -/
def muOf (t : Fmt) (x : Nat) (pair : List Num) : Nat :=
  if x == 0xFF || pair.any wild then 0
  else
    match (magMaxAll pair).scale (127 - x) with
    | .fin _ m e => if Num.magLt m e (maxV t).1 ((maxV t).2 - 1) then 1 else 0
    | _ => 0

/-- The pairs of a list of values: elements 2p and 2p+1, the last alone where the count is odd. -/
def pairs : List α → List (List α)
  | [] => []
  | [a] => [[a]]
  | a :: b :: l => [a, b] :: pairs l

/-- The μ byte of values under a scale (R77, R79): zero for an MX block. -/
def muByte (t : Fmt) (mx : Bool) (x : Nat) (xs : List Num) : Nat :=
  if mx then 0 else (pairs xs).foldr (fun p a => muOf t x p + 2 * a) 0

/-- μ of element `i`. -/
def muAt (mu i : Nat) : Nat := if mu.testBit (i / 2) then 1 else 0

/-- The value of an element code under a scale and μ (R62, R78). -/
def scaledNum (t : Fmt) (x mu code : Nat) : Num :=
  if x = 0xFF then .nan false
  else (decodeNum t code).scale ((x : Int) - 127 - mu - (if t == .i8 then 6 else 0))

/-- F' of R79: rounds a value into an element, overflow clamped to MaxV. -/
def roundElem (t : Fmt) (v : Num) (r : Rnd) (idx : Nat) : Nat × Fl :=
  let bits := srBits r.seed idx
  match v with
  | .fin neg m e =>
    if m = 0 then special t v
    else if t == .i8 then
      let q := roundInt (-127) 127 r.mode neg m (e + 6) bits
      (intCode 8 q.1, q.2)
    else
      match floatP t with
      | some p => roundFloat p (signBit t) false true r.mode neg m e bits
      | none => roundTo v t r idx
  | .inf s =>
    match floatP t with
    | some p => ((if s then signBit t else 0) + p.maxCode, { sa := true })
    | none => if t == .i8 then (intCode 8 (if s then -127 else 127), { nv := true }) else special t v
  | .nan _ => special t v

/-- Encodes values under a scale and a μ byte (R79). -/
def encodeElems (t : Fmt) (x mu : Nat) (r : Rnd) : List Num → Nat → Nat → List (Nat × Fl)
  | [], _, _ => []
  | v :: vs, i, idx => roundElem t (v.scale (127 + muAt mu i - x)) r idx :: encodeElems t x mu r vs (i + 1) (idx + 1)

/-- A quantised block: scale, μ byte, element codes, flags. -/
structure Block where
  x    : Nat := 0
  mu   : Nat := 0
  el   : List Nat := []
  fl   : Fl := {}
deriving DecidableEq, Repr, Inhabited

/-- The flags of storing values under scale 0xFF (R79). -/
def wildFl (xs : List Num) : Fl := { nv := xs.any Num.isNan, ovf := xs.any Num.isInf }

/-- Quantises values under a given scale (R79, R192); `idx` indexes the first element's draw. -/
def quantUnder (t : Fmt) (mx : Bool) (x : Nat) (r : Rnd) (xs : List Num) (idx : Nat) : Block :=
  if x = 0xFF then { x := 0xFF, mu := 0, el := xs.map fun _ => 0, fl := wildFl xs }
  else
    let mu := muByte t mx x xs
    let l := encodeElems t x mu r xs 0 idx
    { x := x, mu := mu, el := l.map fun c => c.1, fl := Fl.all (l.map fun c => c.2) }

/-- Quantises a block (R79). -/
def quantBlock (t : Fmt) (mx : Bool) (r : Rnd) (xs : List Num) (idx : Nat) : Block :=
  quantUnder t mx (scaleOf t xs) r xs idx

/-- The values of a block's elements (R78). -/
def blockNums (t : Fmt) (x mu : Nat) (el : List Nat) : List Num :=
  (List.range el.length).map fun i => scaledNum t x (muAt mu i) ((el[i]?).getD 0)

/-- The flags that reading element codes raises (R69): none under scale 0xFF. -/
def blockReadFl (t : Fmt) (x : Nat) (el : List Nat) : Fl := if x = 0xFF then {} else Fl.all (el.map fun c => readFl t c)

/-- Re-expresses values under a scale (R80): nearest-even with the clamp; of the flags only NX and SA are raised (R194,
R221). -/
def reexpress (t : Fmt) (mx : Bool) (x : Nat) (xs : List Num) : Block :=
  let b := quantUnder t mx x {} xs 0
  { b with fl := { nx := b.fl.nx, sa := b.fl.sa } }

/-! ### Lines (R81, R82) and register pairs (R85) -/

/-- A scaled line as blocks: scale, μ byte and codes of each. -/
def lineBlocks (t : Fmt) (data side : List Byte) : List Block :=
  let w := leNat data
  (List.range (lineElems t / 16)).map fun b =>
    { x := ((side[b]?).getD 0).toNat, mu := ((side[16 + b]?).getD 0).toNat,
      el := (List.range 16).map fun i => elemAt t w (16 * b + i) }

/-- Payload and sidecar bytes of a scaled line from its blocks. -/
def blocksLine (t : Fmt) (bs : List Block) : List Byte × List Byte :=
  let pad := fun (l : List Nat) => (List.range 16).map fun i => BitVec.ofNat 8 ((l[i]?).getD 0)
  (leBytes 128 (packElems t (bs.map fun b => b.el).flatten), pad (bs.map fun b => b.x) ++ pad (bs.map fun b => b.mu))

/-- Elements, scale and μ of a lane's register block; unused μ bits are ignored (R85). -/
def pairBlock (t : Fmt) (lo hi : W32) : Block :=
  { x := hi.toNat % 256, mu := hi.toNat / 256 % 2 ^ ((laneElems t + 1) / 2), el := (List.range (laneElems t)).map fun i => elemAt t lo.toNat i }

/-- A lane's register pair from its block (R85): unused μ bits are written zero. -/
def blockPair (t : Fmt) (b : Block) : W32 × W32 :=
  (BitVec.ofNat 32 (packElems t b.el), BitVec.ofNat 32 (b.x + 256 * (b.mu % 2 ^ ((laneElems t + 1) / 2))))

/-- The block and the position in it of line element `j`. -/
def lineElem (bs : List Block) (j : Nat) : Block × Nat := (((bs[j / 16]?).getD {}), j % 16)

/-- The largest scale code of some blocks (R86). -/
def maxScale (bs : List Block) : Nat := bs.foldl (fun a b => max a b.x) 0

/-- The μ bits that a lane of a 4- or 8-bit type takes from its memory block: those of its element pairs. -/
def laneMu (t : Fmt) (b : Block) (first : Nat) : Nat := b.mu / 2 ^ (first / 2) % 2 ^ ((laneElems t + 1) / 2)

/-- One lane of a load of a scaled line (R86, R221): a 4- or 8-bit type copies its memory block's scale and its own
pairs' μ bits; a 6-bit type is re-expressed under the largest scale of the blocks it touches. -/
def loadLane (t : Fmt) (mx : Bool) (bs : List Block) (l : Nat) : Block :=
  let k := laneElems t
  let first := l * k
  if t.bits = 6 then
    let parts := (List.range k).map fun i => lineElem bs (first + i)
    reexpress t mx (maxScale (parts.map fun p => p.1))
      (parts.map fun p => scaledNum t p.1.x (muAt p.1.mu p.2) ((p.1.el[p.2]?).getD 0))
  else
    let b := (lineElem bs first).1
    { x := b.x, mu := laneMu t b (first % 16), el := (List.range k).map fun i => (b.el[first % 16 + i]?).getD 0 }

/-- Elements of one block of a store: 16, or 32 for mx (R48, R221). -/
def storeSpan (mx : Bool) : Nat := if mx then 32 else 16

/-- The μ byte that the μ bits of consecutive lanes make, lowest lane first (R86). -/
def lanesMu (t : Fmt) : List Block → Nat
  | [] => 0
  | b :: l => b.mu % 2 ^ ((laneElems t + 1) / 2) + 2 ^ (laneElems t / 2) * lanesMu t l

/-- Whether the contributing lanes of a block of a 4- or 8-bit type agree (R86): one scale and one set of μ bits, none
set for mx. -/
def lanesAgree (t : Fmt) (mx : Bool) (bs : List Block) : Bool :=
  t.bits != 6 && match bs with
    | [] => false
    | a :: l => (l.all fun b => b.x == a.x && b.mu == a.mu) && (!mx || a.mu % 2 ^ ((laneElems t + 1) / 2) == 0)

/-- One block of a store of a register pair, as elements from `16 * b` on (R86, R221): lanes of a 4- or 8-bit type that
agree are stored as they stand; else every element is re-expressed under the largest scale of the contributing lanes.
`ls` gives each lane's block, `own` says which lanes contribute, and `act` which elements may raise a flag (R70). -/
def storeBlock (t : Fmt) (mx : Bool) (ls : Nat → Block) (own act : Nat → Bool) (b : Nat) : Block :=
  let k := laneElems t
  let at_ := (List.range (storeSpan mx)).map fun i => ((16 * b + i) / k, (16 * b + i) % k)
  let lanes := (at_.map fun p => p.1).eraseDups
  let give := (lanes.filter own).map ls
  let el := at_.map fun p => (((ls p.1).el[p.2]?).getD 0)
  if lanesAgree t mx give then { x := maxScale give, mu := if mx then 0 else lanesMu t (lanes.map ls), el := el }
  else
    let xs := at_.map fun p => let q := ls p.1; scaledNum t q.x (muAt q.mu p.2) ((q.el[p.2]?).getD 0)
    let r := reexpress t mx (maxScale give) xs
    let fs := if r.x = 0xFF then [] else
      ((encodeElems t r.x r.mu {} xs 0 0).zip at_).filterMap fun c => if act c.2.1 then some c.1.2 else none
    let fl := Fl.all fs
    { r with fl := { nx := fl.nx, sa := fl.sa } }

end Sys2Proof.Machine
end

