-- ==== Sys2Proof/Machine/Functions.lean ====
section
/-! DEFINITION. The special functions of fsf (R186), correctly rounded. A result that no type represents is given as an
enclosure's lower bound with one more bit set below it, which rounds as the exact value does. -/

namespace Sys2Proof.Machine

/-- `n * 2^e` with a bit below it that says that the exact value lies strictly between this and the next. -/
def sticky (neg : Bool) (n : Nat) (e : Int) (exact : Bool) : Num :=
  if exact then .fin neg n e else .fin neg (2 * n + 1) (e - 1)

/-- Integer square root: the largest r below 2^i + acc with r * r ≤ n, bit by bit from bit i - 1 down. -/
def isqrt (n acc : Nat) : Nat → Nat
  | 0 => acc
  | i + 1 => if (acc + 2 ^ i) * (acc + 2 ^ i) ≤ n then isqrt n (acc + 2 ^ i) i else isqrt n acc i

/-- 1/x for x = m * 2^e, m nonzero. -/
def rcpNum (neg : Bool) (m : Nat) (e : Int) : Num :=
  let q := 2 ^ 160 / m
  sticky neg q (-160 - e) (q * m == 2 ^ 160)

/-- The square root of m * 2^e. -/
def sqrtNum (m : Nat) (e : Int) : Num :=
  let k : Nat := if e % 2 = 0 then 160 else 161
  let n := m * 2 ^ k
  let r := isqrt n 0 128
  sticky false r ((e - k) / 2) (r * r == n)

/-- 1 over the square root of m * 2^e, m nonzero. -/
def rsqrtNum (m : Nat) (e : Int) : Num :=
  let k : Nat := if e % 2 = 0 then 240 else 241
  let r := isqrt (2 ^ k / m) 0 128
  sticky false r ((-(e + k)) / 2) (r * r * m == 2 ^ k)

/-! ### Enclosures: pairs (lo, hi) in units of 2^-P with lo ≤ value ≤ hi -/

/-- Sums `t + t*r + ...` of the exponential series for r in [0, 1/4): terms `i` on, `n` of them, each rounded down
(`up = 0`) or up (`up = 1`). -/
def expSum (p r up i t : Nat) : Nat → Nat
  | 0 => up * (2 * t + 2)
  | n + 1 => t + expSum p r up (i + 1) ((t * r + up * (2 ^ p * i - 1)) / (2 ^ p * i)) n

/-- Squares `n` times. -/
def sqTimes (p up x : Nat) : Nat → Nat
  | 0 => x
  | n + 1 => sqTimes p up ((x * x + up * (2 ^ p - 1)) / 2 ^ p) n

/-- Encloses e^y for a nonnegative y that lies in [ylo, yhi]. -/
def expEnc (p ylo yhi : Nat) : Nat × Nat :=
  let k := Nat.log2 (yhi / 2 ^ p + 1) + 16
  (sqTimes p 0 (expSum p (ylo / 2 ^ k) 0 1 (2 ^ p) 80) k, sqTimes p 1 (expSum p (yhi / 2 ^ k + 1) 1 1 (2 ^ p) 80) k)

/-- Sums `t/i + t*z2/(i+2) + ...` for z2 = zn^2/zd^2 ≤ 1/9. -/
def atanhSum (zn zd up i t : Nat) : Nat → Nat
  | 0 => up * (2 * t + 2)
  | n + 1 => (t + up * (i - 1)) / i + atanhSum zn zd up (i + 2) ((t * (zn * zn) + up * (zd * zd - 1)) / (zd * zd)) n

/-- Encloses 2 atanh(zn/zd), zn/zd ≤ 1/3. -/
def atanh2Enc (p zn zd : Nat) : Nat × Nat :=
  (2 * atanhSum zn zd 0 1 (zn * 2 ^ p / zd) (p / 3 + 2), 2 * atanhSum zn zd 1 1 (zn * 2 ^ p / zd + 1) (p / 3 + 2))

/-- Encloses ln 2. -/
def ln2Enc (p : Nat) : Nat × Nat := atanh2Enc p 1 3

/-- A nonnegative value from its enclosure, when both ends agree on a grid of 2^-g (DEDUCED,
log 27). -/
def settle (neg : Bool) (p g : Nat) (enc : Nat × Nat) : Option Num :=
  let a := enc.1 / 2 ^ (p - g)
  if a == enc.2 / 2 ^ (p - g) then some (sticky neg a (-(g : Int)) false) else none

/-- Tries enclosures of rising precision. -/
def refine (f : Nat → Option Num) : Num := ((f 640).orElse fun _ => (f 1280).orElse fun _ => f 2560).getD (.nan false)

/-- x = m * 2^e in units of 2^-P, rounded down and up. -/
def toUnits (p m : Nat) (e : Int) : Nat × Nat :=
  let v := splitAt m e (-(p : Int))
  (v.1, v.1 + (if v.2.1 == 0 then 0 else 1))

/-- A value a hair above or below a value of no more than 64 bits. -/
def hairAbove (m : Nat) (e : Int) : Num := .fin false (m * 2 ^ 300 + 1) (e - 300)
def hairBelow (neg : Bool) (m : Nat) (e : Int) : Num := .fin neg (m * 2 ^ 300 - 1) (e - 300)

/-- 2^x for a finite nonzero x. -/
def exp2Num (neg : Bool) (m : Nat) (e : Int) : Num :=
  let k := (Nat.log2 m : Int) + e
  if 11 ≤ k then (if neg then .fin false 1 (-3000) else .fin false 1 3000)
  else if k < -64 then (if neg then hairBelow false 1 0 else hairAbove 1 0)
  else
    let (n, num, den) := splitAt m e 0
    if num = 0 then .fin false 1 (if neg then -(n : Int) else n)
    else
      -- 2^x = 2^i * 2^f with f in (0, 1)
      let i : Int := if neg then -(n : Int) - 1 else n
      let fn := if neg then den - num else num
      (refine fun p =>
        let l := ln2Enc p
        settle false p 200 (expEnc p (l.1 * fn / den) (l.2 * fn / den + 1))).scale i

/-- log2 of a positive finite x. -/
def log2Num (m : Nat) (e : Int) : Num :=
  let b := Nat.log2 m
  let k := (b : Int) + e
  if m == 2 ^ b then Num.ofInt k
  else
    refine fun p =>
      let a := atanh2Enc p (m - 2 ^ b) (m + 2 ^ b)
      let l := ln2Enc p
      let lo := a.1 * 2 ^ p / l.2
      let hi := a.2 * 2 ^ p / l.1 + 1
      if 0 ≤ k then settle false p 400 (k.toNat * 2 ^ p + lo, k.toNat * 2 ^ p + hi)
      else settle true p 400 ((-k).toNat * 2 ^ p - hi, (-k).toNat * 2 ^ p - lo)

/-- tanh of a finite nonzero x. -/
def tanhNum (neg : Bool) (m : Nat) (e : Int) : Num :=
  let k := (Nat.log2 m : Int) + e
  if 8 ≤ k then hairBelow neg 1 0
  else if k < -64 then hairBelow neg m e
  else
    refine fun p =>
      let y := toUnits p m (e + 1)
      let x := expEnc p y.1 y.2
      settle neg p 400 ((x.1 - 2 ^ p) * 2 ^ p / (x.1 + 2 ^ p), (x.2 - 2 ^ p) * 2 ^ p / (x.2 + 2 ^ p) + 1)

/-- 1/(1 + e^-x) for a finite nonzero x. -/
def sigmNum (neg : Bool) (m : Nat) (e : Int) : Num :=
  let k := (Nat.log2 m : Int) + e
  if 8 ≤ k then (if neg then .fin false 1 (-300) else hairBelow false 1 0)
  else if k < -64 then (if neg then hairBelow false 1 (-1) else hairAbove 1 (-1))
  else
    refine fun p =>
      let y := toUnits p m e
      let x := expEnc p y.1 y.2
      if neg then settle false p 400 (2 ^ (2 * p) / (2 ^ p + x.2), 2 ^ (2 * p) / (2 ^ p + x.1) + 1)
      else settle false p 400 (x.1 * 2 ^ p / (2 ^ p + x.1), x.2 * 2 ^ p / (2 ^ p + x.2) + 1)

/-- The function value at an operand, with the flags of R186's table. Functions: 0 rcp, 1 sqrt, 2 rsqrt, 3 exp2,
4 log2, 5 tanh, 6 sigm. -/
def fsfNum (fn : Nat) (a : Num) : Num × Fl :=
  let nan : Num × Fl := (.nan false, { nv := true })
  match a with
  | .nan _ => (.nan false, {})
  | .inf s =>
    match fn with
    | 0 => (.fin s 0 0, {})
    | 1 => if s then nan else (.inf false, {})
    | 2 => if s then nan else (.fin false 0 0, {})
    | 3 => if s then (.fin false 0 0, {}) else (.inf false, {})
    | 4 => if s then nan else (.inf false, {})
    | 5 => (.fin s 1 0, {})
    | _ => if s then (.fin false 0 0, {}) else (.fin false 1 0, {})
  | .fin s m e =>
    if m = 0 then
      match fn with
      | 0 => (.inf s, { dz := true })
      | 1 => (.fin s 0 0, {})
      | 2 => (.inf s, { dz := true })
      | 3 => (.fin false 1 0, {})
      | 4 => (.inf true, { dz := true })
      | 5 => (.fin s 0 0, {})
      | _ => (.fin false 1 (-1), {})
    else
      match fn with
      | 0 => (rcpNum s m e, {})
      | 1 => if s then nan else (sqrtNum m e, {})
      | 2 => if s then nan else (rsqrtNum m e, {})
      | 3 => (exp2Num s m e, {})
      | 4 => if s then nan else (log2Num m e, {})
      | 5 => (tanhNum s m e, {})
      | _ => (sigmNum s m e, {})

end Sys2Proof.Machine
end

