-- ==== Sys2Proof/Machine/Accumulate.lean ====
section
/-! DEFINITION. The arithmetic of the matrix engine, the bank units and the epilogue processor: block products and
accumulation (R87, R88, R256), operands in panel layout (R253), the order of a matrix-vector row (R260), and epilogue
programs (R263 to R266). -/

namespace Sys2Proof.Machine

/-! ### Block products (R87) -/

/-- A block's values for a product: all NaN under scale 0xFF. -/
def prodNums (t : Fmt) (b : Block) : List Num := blockNums t b.x b.mu b.el

/-- The exact sum of the products of two blocks, scales included (R87): NaN for a NaN element, with NV for zero times
infinity or infinities of opposite sign (DEDUCED, log 28). In a block that holds a NaN such a product raises nothing
(DESIGN CHOICE, log 103). -/
def blockDot (xs ys : List Num) : Num × Fl :=
  if xs.any Num.isNan || ys.any Num.isNan then (.nan false, {})
  else
    (xs.zip ys).foldl (fun a p =>
      let m := Num.mul p.1 p.2
      let v := Num.add false a.1 m.1
      (v.1, { a.2 with nv := a.2.nv || m.2 || v.2 })) (.fin false 0 0, {})

/-- T of R87: the block product rounded to f32, with the flags of reading the elements (R69). -/
def blockTerm (ta tb : Fmt) (a b : Block) : Nat × Fl :=
  let d := blockDot (prodNums ta a) (prodNums tb b)
  let r := toF32 d.1
  (r.1, ((d.2.or r.2).or (blockReadFl ta a.x a.el)).or (blockReadFl tb b.x b.el))

/-- The sum of two f32 codes, rounded to nearest even (R87, R260); reading a signalling NaN raises NV (R69). -/
def addF32 (a b : Nat) : Nat × Fl :=
  let v := Num.add false (decodeNum .f32 a) (decodeNum .f32 b)
  let r := toF32 v.1
  (r.1, ({ r.2 with nv := r.2.nv || v.2 } : Fl).or ((readFl .f32 a).or (readFl .f32 b)))

/-! ### Panel layout (R253) -/

/-- A matrix in panel layout: type, block form, number of rows, and its lines with their sidecars; a line that cannot
be read is `none`. -/
structure Panel where
  t    : Fmt
  blk  : Nat
  rows : Nat
  line : Nat → Option (List Byte × List Byte)

/-- Lines of an R by C matrix (R253). -/
def panelLines (t : Fmt) (r c : Nat) : Nat := r * ((c + lineElems t - 1) / lineElems t)

/-- Line and position of element (i, j) (R253). -/
def panelAt (t : Fmt) (rows i j : Nat) : Nat × Nat := (i + rows * (j / lineElems t), j % lineElems t)

/-- Block `b` of row `i` as the engine reads it: an unscaled type has scale 127 and μ 0 (R87). -/
def Panel.block (p : Panel) (i b : Nat) : Option Block :=
  let at_ := panelAt p.t p.rows i (16 * b)
  (p.line at_.1).map fun l =>
    let x := ((lineBlocks p.t l.1 l.2)[at_.2 / 16]?).getD {}
    if p.blk = 0 then { x with x := 127, mu := 0 } else x

/-- Whether every line of row `i` up to column `k` can be read. -/
def Panel.rowOk (p : Panel) (i k : Nat) : Bool :=
  (List.range ((k + lineElems p.t - 1) / lineElems p.t)).all fun q => (p.line (i + p.rows * q)).isSome

/-- The code of element (i, j). -/
def Panel.code (p : Panel) (i j : Nat) : Nat :=
  let at_ := panelAt p.t p.rows i j
  match p.line at_.1 with
  | some l => elemAt p.t (leNat l.1) at_.2
  | none => 0

/-! ### mma (R255, R256, R88) -/

/-- One element of an f32 accumulator after blocks `b` to `b + n - 1` (R87). -/
def mmaElem (pa pb : Panel) (i j b : Nat) : Nat → Nat × Fl → Nat × Fl
  | 0, acc => acc
  | n + 1, acc =>
    match pa.block i b, pb.block j b with
    | some x, some y =>
      let t := blockTerm pa.t pb.t x y
      let r := addF32 acc.1 t.1
      mmaElem pa pb i j (b + 1) n (r.1, (acc.2.or t.2).or r.2)
    | _, _ => mmaElem pa pb i j (b + 1) n acc

/-- One element of an i32 accumulator after positions `k` to `k + n - 1` (R88). -/
def mmaInt (pa pb : Panel) (i j k n acc : Nat) : Nat :=
  let v := (List.range n).foldl (fun (a : Int) q =>
    let x : BitVec 8 := BitVec.ofNat 8 (pa.code i (k + q))
    let y : BitVec 8 := BitVec.ofNat 8 (pb.code j (k + q))
    a + x.toInt * y.toInt) (acc : Int)
  intCode 32 v

/-- An accumulator element as the other type (R255): RoundTo, RNE. -/
def convElem (toInt : Bool) (w : W32) : Nat × Fl :=
  if toInt then roundTo (f32 w) .i32 {} 0 else toF32 (Num.ofInt w.toInt)

/-- A tile's elements as type `toInt` (R255). -/
def convTile (t : Tile) (toInt : Bool) : Tile × Fl :=
  if t.isInt == toInt then (t, {})
  else
    let rs := t.el.map fun w => convElem toInt w
    ({ t with isInt := toInt, el := rs.map fun r => BitVec.ofNat 32 r.1 }, Fl.all (rs.map fun r => r.2))

/-- A tile of zeros. -/
def zeroTile (num : Nat) (isInt : Bool) : Tile := { num := num, isInt := isInt, el := List.replicate 4096 0 }

/-- k-steps `from_` to `to_ - 1` of an mma (R255). The tile holds the accumulator's type already. -/
def mmaSteps (pa pb : Panel) (t : Tile) (from_ to_ : Nat) : Tile × Fl :=
  let rs := (List.range 4096).map fun q =>
    let i := q / 64
    let j := q % 64
    let old := (getAt t.el q).toNat
    if t.isInt then (mmaInt pa pb i j (32 * from_) (32 * (to_ - from_)) old, ({} : Fl))
    else mmaElem pa pb i j (2 * from_) (2 * (to_ - from_)) (old, {})
  ({ t with el := rs.map fun r => BitVec.ofNat 32 r.1 }, Fl.all (rs.map fun r => r.2))

/-- Rows that use a line that cannot be read take NaN, or 0 for i32, and NV is raised (R255): a line of B is used by
every row. -/
def mmaBad (pa pb : Panel) (k : Nat) (t : Tile) : Tile × Fl :=
  let badB := (List.range 64).any fun j => !pb.rowOk j k
  let bad := fun (i : Nat) => badB || !pa.rowOk i k
  if (List.range 64).any bad then
    ({ t with el := (List.range 4096).map fun q =>
        if bad (q / 64) then (if t.isInt then 0 else 0x7FC00000) else getAt t.el q }, { nv := true })
  else (t, {})

/-! ### mmv and bank-unit mv (R260, R327) -/

/-- The result of row `m` (R260): each channel sums its lines' blocks in order, then the channels are summed. `w` holds
the weights as a panel of one row per line index, `chan` the channel of each line. -/
def mvRow (v w : Panel) (m k : Nat) (chan : Nat → Nat) : Nat × Fl :=
  let e := lineElems w.t
  let nl := (k + e - 1) / e
  let part := fun (p : Nat) =>
    ((List.range nl).filter fun l => chan (m * nl + l) == p).foldl (fun acc l =>
      ((List.range (e / 16)).filter fun b => e * l + 16 * b < k).foldl (fun acc b =>
        match v.block 0 ((e * l + 16 * b) / 16), (w.line (m * nl + l)).map fun x => ((lineBlocks w.t x.1 x.2)[b]?).getD {} with
        | some x, some y =>
          let t := blockTerm v.t w.t x y
          let r := addF32 acc.1 t.1
          (r.1, (acc.2.or t.2).or r.2)
        | _, _ => acc) acc) ((0, {}) : Nat × Fl)
  let ps := (List.range 64).filter fun p => (List.range nl).any fun l => chan (m * nl + l) == p
  if !((List.range nl).all fun l => (w.line (m * nl + l)).isSome) then (0x7FC00000, { nv := true })
  else
    ps.foldl (fun acc p =>
      let x := part p
      let r := addF32 acc.1 x.1
      (r.1, (acc.2.or x.2).or r.2)) ((0, {}) : Nat × Fl)

/-! ### Epilogue programs (R263 to R265) -/

/-- Fields of an epilogue word (R264). -/
structure Epi where
  op  : Nat
  d   : Nat
  a   : Nat
  b   : Nat
  c   : Nat
  low : Nat
  imm : Nat
deriving DecidableEq, Repr, Inhabited

def Epi.decode (w : W32) : Epi :=
  { op := (w.extractLsb' 27 5).toNat, d := (w.extractLsb' 23 4).toNat, a := (w.extractLsb' 19 4).toNat,
    b := (w.extractLsb' 15 4).toNat, c := (w.extractLsb' 11 4).toNat, low := (w.extractLsb' 0 11).toNat,
    imm := (w.extractLsb' 0 19).toNat }

/-- Whether a word is defined (R264, R265): unused fields are zero. -/
def Epi.ok (e : Epi) : Bool :=
  match e.op with
  | 0x00 => e.d == 0 && e.a == 0 && e.imm == 0
  | 0x01 | 0x02 | 0x03 | 0x05 | 0x06 => e.c == 0 && e.low == 0
  | 0x04 | 0x09 => e.low == 0
  | 0x07 | 0x08 | 0x0C | 0x0D | 0x0E => e.b == 0 && e.c == 0 && e.low == 0
  | 0x0A => e.b == 0 && e.c ≤ 7 && e.low == 0
  | 0x0B => e.a == 0 && e.imm < 65536
  | 0x0F => e.d == 0 && e.b == 0 && e.c == 0 && e.low == 0
  | _ => false

/-- The words that run from some words on, up to eout; or the position, from `i` on, of the first undefined word, or of
the program's end when there is no eout (R266). -/
def epiProgram (i : Nat) : List W32 → List Epi ⊕ Nat
  | [] => .inr i
  | w :: ws =>
    let e := Epi.decode w
    if !e.ok then .inr i
    else if e.op = 0x0F then .inl [e]
    else match epiProgram (i + 1) ws with
      | .inl es => .inl (e :: es)
      | .inr n => .inr n

/-- The vector numbers that a program loads from (R266). -/
def epiVectors (es : List Epi) : List Nat := (es.filter fun e => e.op = 0x0C || e.op = 0x0D).map fun e => e.a

/-- An arithmetic result rounded to f32, with NV for signalling operands and invalid operations (R69, R265). -/
def epiRound (xs : List Num) (v : Num × Bool) : Num × Fl :=
  let r := toF32 v.1
  (decodeNum .f32 r.1, { r.2 with nv := r.2.nv || v.2 || xs.any fun x => x == .nan true })

/-- The functions of eact 1 to 7 as fsf's (R265, R186). -/
def epiFn (c : Nat) : Nat :=
  match c with
  | 1 => 6 | 2 => 5 | 3 => 3 | 4 => 0 | 5 => 2 | 6 => 1 | _ => 4

/-- A value with the canonical NaN in place of any other (R265). -/
def canonNan (x : Num) : Num := if x.isNan then .nan false else x

/-- The result of one epilogue operation, which produces canonical NaNs; `ldc` and `ldr` give the parameters of vector k (R265). -/
def epiOp (e : Epi) (r : List Num) (ldc ldr : Nat → Num) : Num × Fl :=
  let a := getAt r e.a
  let b := getAt r e.b
  let c := getAt r e.c
  match e.op with
  | 0x01 => epiRound [a, b] (Num.add false a b)
  | 0x02 => epiRound [a, b] (Num.add false a b.negate)
  | 0x03 => epiRound [a, b] (Num.mul a b)
  | 0x04 =>
    let m := Num.mul a b
    let v := Num.add false m.1 c
    epiRound [a, b, c] (if a.isNan || b.isNan || c.isNan then .nan false else v.1, m.2 || v.2)
  | 0x05 => epiRound [a, b] (numMax a b, false)
  | 0x06 => epiRound [a, b] (numMin a b, false)
  | 0x07 => (canonNan a.abs, {})
  | 0x08 => (canonNan a.negate, {})
  | 0x09 => (canonNan (if Num.cmpLt (.fin false 0 0) a then b else c), {})
  | 0x0A =>
    if e.c = 0 then epiRound [a] (numMax a (.fin false 0 0), false)
    else
      let v := fsfNum (epiFn e.c) a
      let x := epiRound [a] (v.1, false)
      (x.1, x.2.or v.2)
  | 0x0B => (canonNan (decodeNum .f32 (e.imm * 65536)), {})
  | 0x0C => (canonNan (ldc e.a), {})
  | 0x0D => (canonNan (ldr e.a), {})
  | _ => (canonNan a, {})

/-- Runs a program on one element (R266). -/
def epiRun (ldc ldr : Nat → Num) : List Epi → List Num → Fl → Num × Fl
  | [], _, fl => (.nan false, fl)
  | e :: es, r, fl =>
    if e.op = 0x0F then (getAt r e.a, fl)
    else if e.op = 0 then epiRun ldc ldr es r fl
    else
      let v := epiOp e r ldc ldr
      epiRun ldc ldr es (setAt r e.d v.1) (fl.or v.2)

/-- The registers at the start of an element's program. -/
def epiStart (e0 : Num) (others : List Num) : List Num := e0 :: (others ++ List.replicate (15 - others.length) (.fin false 0 0))

/-! ### Writing a matrix in panel layout (R253) -/

/-- The lines of an R by C matrix of values, converted to a type: each line's payload and, for a scaled type, sidecar.
Element (i, j) draws with index `idx i j`; pads are zeros (R253, R266, R279) (DEDUCED, log 29). -/
def panelWrite (t : Fmt) (blk : Nat) (rnd : Rnd) (r c : Nat) (val : Nat → Nat → Num) (idx : Nat → Nat → Nat) :
    List (List Byte × List Byte) × Fl :=
  let e := lineElems t
  let one := fun (l : Nat) =>
    let i := l % r
    let j0 := l / r * e
    let v := fun (q : Nat) => if j0 + q < c then val i (j0 + q) else .fin false 0 0
    if blk = 0 then
      let rs := (List.range e).map fun q => if j0 + q < c then roundTo (v q) t rnd (idx i (j0 + q)) else (0, {})
      ((leBytes 128 (packElems t (rs.map fun x => x.1)), ([] : List Byte)), Fl.all (rs.map fun x => x.2))
    else
      let n := if blk = 2 then 32 else 16
      let bs := (List.range (e / n)).map fun b =>
        quantBlock t (blk = 2) rnd ((List.range n).map fun q => v (n * b + q)) (idx i (j0 + n * b))
      let halves := (bs.map fun b => if blk = 2 then
        [{ b with el := b.el.take 16, mu := 0 }, { b with el := b.el.drop 16, mu := 0 }] else [b]).flatten
      (blocksLine t halves, Fl.all (bs.map fun b => b.fl))
  let ls := (List.range (panelLines t r c)).map one
  (ls.map fun x => x.1, Fl.all (ls.map fun x => x.2))

end Sys2Proof.Machine
end

