-- ==== Sys2Proof/Machine/Bdz.lean ====
section
/-! DEFINITION. The BDZ codes (R226, R227) of compressed regions and of link payloads (R342). -/

namespace Sys2Proof.Machine

/-- 32 bytes of one decoded sector, and what is left of the stream (R226); none for an invalid mode byte or a stream
that ends too soon. -/
def bdzSector (bs : List Byte) : Option (List Byte × List Byte) :=
  let word := fun (l : List Byte) => leNat (l.take 4)
  let deltas := fun (w0 : Nat) (k : Nat) (l : List Byte) =>
    (List.range 8).map fun i =>
      if i = 0 then w0
      else
        let d := leNat ((l.drop (k * (i - 1))).take k)
        (w0 + (if d < 2 ^ (8 * k - 1) then d else d + 2 ^ 32 - 2 ^ (8 * k))) % 2 ^ 32
  let out := fun (ws : List Nat) => (ws.map fun w => leBytes 4 w).flatten
  match bs with
  | [] => none
  | m :: r =>
    match m.toNat with
    | 0 => some (List.replicate 32 0, r)
    | 1 => if r.length < 4 then none else some (out (List.replicate 8 (word r)), r.drop 4)
    | 2 => if r.length < 11 then none else some (out (deltas (word r) 1 (r.drop 4)), r.drop 11)
    | 3 => if r.length < 18 then none else some (out (deltas (word r) 2 (r.drop 4)), r.drop 18)
    | 4 => if r.length < 32 then none else some (r.take 32, r.drop 32)
    | _ => none

/-- Decodes `n` sectors; the stream must end with the last one. -/
def bdzDecode : Nat → List Byte → Option (List Byte)
  | 0, bs => if bs.isEmpty then some [] else none
  | n + 1, bs =>
    match bdzSector bs with
    | none => none
    | some (x, r) => (bdzDecode n r).map fun y => x ++ y

/-- Encodes one sector with the first mode of R226 that applies. -/
def bdzEncode (sec : List Byte) : List Byte :=
  let w := fun (i : Nat) => leNat ((sec.drop (4 * i)).take 4)
  let d := fun (i : Nat) => (w i + 2 ^ 32 - w 0) % 2 ^ 32
  let fits := fun (k : Nat) => (List.range 8).all fun i => d i < 2 ^ (8 * k - 1) || 2 ^ 32 - 2 ^ (8 * k - 1) ≤ d i
  let tail := fun (k : Nat) => ((List.range 7).map fun i => leBytes k (d (i + 1))).flatten
  if sec.all fun b => b == 0 then [0]
  else if (List.range 8).all fun i => w i == w 0 then 1 :: leBytes 4 (w 0)
  else if fits 1 then 2 :: (leBytes 4 (w 0) ++ tail 1)
  else if fits 2 then 3 :: (leBytes 4 (w 0) ++ tail 2)
  else 4 :: sec

/-- The stream of a 4 KiB tile (R227). -/
def bdzTile (tile : List Byte) : List Byte :=
  ((List.range 128).map fun i => bdzEncode ((tile.drop (32 * i)).take 32)).flatten

/-- A payload's BDZ codes: its sectors in order, the last padded with zeros. -/
def linkBytes (bs : List Byte) : List Byte :=
  ((List.range ((bs.length + 31) / 32)).map fun i =>
    let x := (bs.drop (32 * i)).take 32
    bdzEncode (x ++ List.replicate (32 - x.length) 0)).flatten

/-- The bytes that a coded payload of `len` bytes stands for; none when it is invalid or of another length (R342). -/
def linkDecoded (len : Nat) (bs : List Byte) : Option (List Byte) := (bdzDecode ((len + 31) / 32) bs).map fun b => b.take len

/-- A payload as a station's link compressor sends it: coded when that is shorter (R342). -/
def linkCoded (bs : List Byte) : List Byte × Bool := if (linkBytes bs).length < bs.length then (linkBytes bs, true) else (bs, false)

end Sys2Proof.Machine
end

