-- ==== Sys2Proof/Machine/Operands.lean ====
section
/-! DEFINITION. What an instruction sees when it issues: its path, its active lanes (R112), its operands in every form
(R100 to R103, R107, R108, R174, R307, R309), the checks of R106, R110 and R213, and how a result reaches its
destination (R102, R108, R111). -/

namespace Sys2Proof.Machine

/-- Everything about the instruction that a step performs: the state, its path, its bundle and its slot. -/
structure Env where
  s    : State
  ref  : PathRef
  c    : Comb
  g    : Group
  p    : Path
  l    : Launch
  b    : Bundle
  k    : Nat
  /-- the fork whose continuation this path is (R305) -/
  fork : Option Fork
deriving DecidableEq, Repr, Inhabited

/-- The bytes of the bundle at `pc` in an instruction-cache line of a core (R90, R169). -/
def State.bundleBytes (s : State) (core asid pc : Nat) : Option (List Byte) :=
  match s.coh.il.find? fun x => x.core == core && x.asid == asid && x.line == pc / 256 with
  | some x => some ((x.data.drop (pc % 256)).take 64)
  | none => none

/-- The bundle at `pc` when its line is in the core's instruction cache. -/
def State.bundleAt (s : State) (core asid pc : Nat) : Option Bundle := (s.bundleBytes core asid pc).map Bundle.decode

/-- The environment of a path: none when the path, its launch or its bundle's line is not there, or no valid slot is
left in the bundle. -/
def State.envOf (s : State) (r : PathRef) : Option Env :=
  match s.comb? r.comb with
  | none => none
  | some c =>
    match c.group? r.group, s.launch? c.launch with
    | some g, some l =>
      match g.path? r.path with
      | none => none
      | some p =>
        match s.bundleAt c.core (s.asid l.ctx) p.pc with
        | none => none
        | some b =>
          match b.nextValid p.slot with
          | none => none
          | some k => some { s := s, ref := r, c := c, g := g, p := p, l := l, b := b, k := k, fork := g.contFork? p.pix }
    | _, _ => none

/-- The environment of the path whose instruction the step performs. -/
def State.env? (s : State) : Option Env :=
  match s.clk.cur with
  | none => none
  | some r => s.envOf r

namespace Env

def ctx (e : Env) : Nat := e.l.ctx
def core (e : Env) : Nat := e.c.core
def hive (e : Env) : Nat := hiveOf e.c.core
/-- The group slot the path issues through: a continuation's is its shadow slot (R308). -/
def gslot (e : Env) : Nat := match e.fork with | some f => f.shadow | none => e.g.gslot
def half (e : Env) : Nat := e.c.regs / 2
def isCont (e : Env) : Bool := e.fork.isSome
/-- Tile width (R112, R159). -/
def width (e : Env) : Nat := 2 ^ e.g.logw.toNat
def tileOf (e : Env) (l : Nat) : Nat := l / e.width
/-- The lanes of a tile (R112). -/
def tileLanes (e : Env) (t : Nat) : List Nat := (List.range e.width).map fun i => t * e.width + i

/-! ### Registers as the path reads them -/

/-- What a continuation wrote to a register, if anything (R309). -/
def wrote (e : Env) (file num lane : Nat) : Option W64 :=
  match e.fork with
  | none => none
  | some f => (f.wrote.find? fun o => o.file == file && o.num == num && o.lane == lane).map fun o => o.val

/-- Vector register `n` (R102); a continuation reads predictions and its own writes (R307, R309). -/
def vget (e : Env) (n : Nat) : VReg :=
  let base := getAt e.g.v n
  match e.fork with
  | none => base
  | some f =>
    if n < e.half then vreg fun i => match e.wrote 0 n i with | some w => w.setWidth 32 | none => vlane base i
    else (getAt f.pred (n - e.half)).getD base

def sget (e : Env) (n : Nat) : W64 := (e.wrote 1 n 0).getD (getAt e.g.s n)
def xget (e : Env) (k : Nat) : W16 := match e.wrote 2 k 0 with | some w => w.setWidth 16 | none => getAt e.g.x k
/-- Predicate register; q7 is always true (R99) (DEDUCED, log 48). -/
def qget (e : Env) (n : Nat) : Lanes :=
  if n = 7 then 0xFFFFFFFF
  else maskOf fun i => match e.wrote 3 n i with | some w => w.getLsbD 0 | none => lane (getAt e.g.q n) i
def latch (e : Env) (k : Nat) : Latch := getAt e.p.latches k

/-- Active (R112). -/
def active (e : Env) (pred : BitVec 4) : Lanes :=
  let q := e.qget (pred.toNat % 8)
  e.p.exm &&& (if pred.getLsbD 3 then ~~~q else q)

/-! ### Operand checks -/

/-- What a field asks of its operand: registers per lane, the alignment of its number, whether it must be uniform, and
whether of latches it takes a vector latch only (R101). -/
structure Need where
  span : Nat := 1
  mult : Nat := 1
  uniform : Bool := false
  vecLatch : Bool := false
deriving DecidableEq, Repr, Inhabited

/-- The vector register number a source names (R102). -/
def srcNum (e : Env) (s : Src) : Option Nat :=
  match s with
  | .vec n => some n.toNat
  | .vecAt k => some (e.xget k.toNat).toNat
  | _ => none

/-- The vector register number a destination names. -/
def dstNum (e : Env) (d : Dst) : Option Nat :=
  match d with
  | .vec n => some n.toNat
  | .vecAt k => some (e.xget k.toNat).toNat
  | _ => none

/-- An operand that is an illegal instruction as it stands: an odd pair, a vector latch where several registers per lane
are read, or a scalar latch where the entry lists a vector latch only (R85, R101, R108, R189, R213). -/
def srcBad (e : Env) (s : Src) (n : Need) : Bool :=
  match s with
  | .latch k => (match e.latch k.toNat with | .vec _ => 1 < n.span | .scal _ => n.vecLatch | .lost => n.vecLatch && 1 < n.span)
  | _ => match e.srcNum s with | some r => r % n.mult != 0 | none => false

/-- A register number out of bounds, if any (R106). -/
def numOut (e : Env) (n : Option Nat) (span : Nat) : Option Nat :=
  match n with
  | none => none
  | some r => if r + span ≤ e.c.regs then none else some (if e.c.regs ≤ r then r else e.c.regs)

/-- A lost latch, or a vector latch in a uniform field (R110) (DEDUCED, log 47). -/
def srcLost (e : Env) (s : Src) (n : Need) : Bool :=
  match s with
  | .latch k => (match e.latch k.toNat with | .lost => true | .vec _ => n.uniform | .scal _ => false)
  | _ => false

/-- The trap conditions that every instruction shares, in the order of R116: illegal, register bounds, lost latch. They
are checked whether or not a lane is active, and of several numbers out of bounds the destination's is reported first,
then the sources' in order (DESIGN CHOICE, log 102). -/
def check (e : Env) (srcs : List (Src × Need)) (dst : Dst) (dn : Need) : Option Trap :=
  if (srcs.any fun x => e.srcBad x.1 x.2) || (match e.dstNum dst with | some r => r % dn.mult != 0 | none => false) then
    some { code := 0x01, lanes := e.p.exm, open_ := true }
  else
    match (e.numOut (e.dstNum dst) dn.span :: srcs.map fun x => e.numOut (e.srcNum x.1) x.2.span).filterMap id with
    | n :: _ => some { code := 0x05, lanes := e.p.exm, info := BitVec.ofNat 64 n }
    | [] =>
      if srcs.any fun x => e.srcLost x.1 x.2 then some { code := 0x07, lanes := e.p.exm, open_ := true } else none

/-! ### Operand values -/

/-- The value of a source in a lane, as 64 bits (R101 to R103). -/
def val (e : Env) (f : Form) (s : Src) (i : Nat) : W64 :=
  match s with
  | .vec n => (vlane (e.vget n.toNat) i).setWidth 64
  | .vecAt k => (vlane (e.vget (e.xget k.toNat).toNat) i).setWidth 64
  | .scal n => e.sget n.toNat
  | .latch k => (match e.latch k.toNat with | .vec v => (vlane v i).setWidth 64 | .scal w => w | .lost => 0)
  | .pred n => if lane (e.qget n.toNat) i then 1 else 0
  | .idx k => (e.xget k.toNat).setWidth 64
  | .immS => f.imm.signExtend 64
  | .immZ => f.imm.setWidth 64
  | .immF => f.imm.setWidth 64
  | .immH => f.imm.setWidth 64 <<< 32
  | .acc _ => 0
  | .spec _ => 0

/-- The value of a source that spans a register pair in a lane: the pair is little-endian (R174). -/
def val2 (e : Env) (f : Form) (s : Src) (i : Nat) : W64 :=
  match e.srcNum s with
  | some n => (vlane (e.vget (n + 1)) i) ++ (vlane (e.vget n) i)
  | none => e.val f s i

/-- The uniform value of a source. -/
def uni (e : Env) (f : Form) (s : Src) : W64 := e.val f s 0

/-- The lanes in which a predicate source is true (R198): a q register's bit, or a nonzero 32-bit lane value. -/
def predOf (e : Env) (f : Form) (s : Src) : Lanes := maskOf fun i => (e.val f s i).setWidth 32 != 0#32

/-! ### Results -/

/-- A 32-bit lane result for a destination: the register writes and the latch value (R102, R108, R111). Bit 0 goes to
a q register. -/
def out32 (e : Env) (f : Form) (act : Lanes) (r : Nat → W32) : List RegWrite × Option Latch :=
  let v := vreg fun i => if lane act i then r i else 0
  match f.dst with
  | .vec n => (if f.nwb then [] else [.v n.toNat act v], some (.vec v))
  | .vecAt k => ([.v (e.xget k.toNat).toNat act v], none)
  | .pred n => (if n == 7 then [] else [.q n.toNat act (maskOf fun i => lane act i && (r i).getLsbD 0)], none)
  | _ => ([], none)

/-- A 64-bit lane result for a pair of registers; the latch takes the lower register (R108, R174). -/
def out64 (e : Env) (f : Form) (act : Lanes) (r : Nat → W64) : List RegWrite × Option Latch :=
  let lo := vreg fun i => if lane act i then (r i).setWidth 32 else 0
  let hi := vreg fun i => if lane act i then (r i >>> 32).setWidth 32 else 0
  match e.dstNum f.dst with
  | some n =>
    (if f.nwb then [] else [.v n act lo, .v (n + 1) act hi], match f.dst with | .vec _ => some (.vec lo) | _ => none)
  | none => ([], none)

/-- A uniform result for a scalar, index or predicate destination (R141). -/
def outS (_e : Env) (f : Form) (act : Lanes) (v : W64) : List RegWrite × Option Latch :=
  match f.dst with
  | .scal n => (if f.nwb then [] else [.s n.toNat v], some (.scal v))
  | .idx k => ([.x k.toNat (v.setWidth 16)], none)
  | .pred n => (if n == 7 then [] else [.q n.toNat act (if v.getLsbD 0 then act else 0)], none)
  | _ => ([], none)

end Env

/-! ### Continuations (R307, R309, R311) -/

/-- Registers of a form's sources as a continuation: those it may read before commit, or a stall. -/
def Env.contReadStalls (e : Env) (s : Src) (span : Nat) : Bool :=
  match e.fork with
  | none => false
  | some f =>
    match s with
    | .vec _ | .vecAt _ =>
      match e.srcNum s with
      | none => false
      | some n => (match s with | .vecAt k => 2 ≤ k.toNat | _ => false) || (List.range span).any fun i =>
          e.half ≤ n + i && !(n + i < e.half + 8 && (getAt f.pred (n + i - e.half)).isSome)
    | .scal n => 32 ≤ n.toNat
    | .pred n => 4 ≤ n.toNat && n != 7
    | .idx k => 2 ≤ k.toNat
    | _ => false

/-- Whether a continuation's register write goes to a callee-owned register (R304, R309). -/
def Env.contWriteStalls (e : Env) : RegWrite → Bool
  | .s n _ => 32 ≤ n
  | .x k _ => 2 ≤ k
  | .q n _ _ => 4 ≤ n
  | .v n _ _ => e.half ≤ n
  | .sreg _ _ => true
  | .bind _ _ => true

/-- Undo-log entries that register writes take in a lane (R309). -/
def undoNeed (ws : List RegWrite) (i : Nat) : Nat :=
  (ws.filter fun w => match w with | .v _ m _ => lane m i | .q _ m _ => lane m i | _ => false).length

/-- Return registers that a source reads, with the lanes (R313): the whole register for a vector operand. -/
def Env.predReads (e : Env) (srcs : List (Src × Env.Need)) : List Nat :=
  (srcs.map fun x => match e.srcNum x.1 with
    | some n => (List.range x.2.span).map (fun i => n + i) |>.filter (fun r => e.half ≤ r && r < e.half + 8) |>.map fun r => r - e.half
    | none => []).flatten

/-- Instructions that a continuation never issues (R311); ret.tr would meet a trap condition, since a continuation runs
outside any handler, and so stalls by R312 (DEDUCED, log 119). -/
def Op.nonSpeculable (o : Op) (f : Form) : Bool :=
  match o with
  | .fcall | .trap | .launch | .mts | .setseed | .setseedGrp | .rcn | .atom | .cas | .ldfeTake | .ldfePeek | .stfe
  | .stfeForce | .barMeet | .barPost | .barHold | .barSet | .bind | .acq | .rel | .fenceAll | .fenceBank | .mma | .mmv
  | .drain | .accZero | .accFree | .accCopy | .accAdd | .accRdr | .accRdc | .accWrr | .epld | .bclose | .bwait
  | .retTr => true
  | .mfs => f.s0 == .spec .nf
  | _ => false

/-- Whether a continuation stalls at an instruction until commit: one that it never issues (R311), or one whose PRED or
destination names a callee-owned predicate or index register that it would read (R309). -/
def Env.contHolds (e : Env) (o : Op) (f : Form) : Bool :=
  match e.fork with
  | none => false
  | some k =>
    Op.nonSpeculable o f || (4 ≤ f.pred.toNat % 8 && f.pred.toNat % 8 != 7) || (match f.dst with | .vecAt k => 2 ≤ k.toNat | _ => false)
      || (o == .ret && e.p.depth ≤ k.depth && e.active f.pred != 0) || (e.b.fin && e.b.lastValid e.k)

end Sys2Proof.Machine
end

