-- ==== Sys2Proof/Machine/Coherence.lean ====
section
/-! DEFINITION. The caches and buffers of the ordering machine (R287 to R295, R310): program order, copies of lines,
reads along their route, writes at their place, and the drops of an acquire. -/

namespace Sys2Proof.Machine

/-- Whether a place in program order comes before another (R289). -/
def Order.before (a b : Order) : Bool :=
  (a.sid == b.sid && a.pos < b.pos) || b.past.any fun p => p.1 == a.sid && a.pos ≤ p.2

/-- Lines that an L1 may hold: tower, host and remote memory (R290). -/
def l1able (k : Nat) : Bool := keyRegion k == 0 || keyRegion k == 4 || keyRegion k == 7

/-- Lines that a hive reads through its RDC (R290). -/
def viaRdc (hive k : Nat) : Bool := (keyRegion k == 0 && homeHive k != hive) || keyRegion k == 4 || keyRegion k == 7

/-- The number of a scope as drops use it: an operation at BANK scope acts at DEVICE (R297). -/
def scopeOf (n : Nat) : Nat := if n = 6 then 3 else n

namespace State

/-- A cache's copy of a line. -/
def copy? (s : State) (id : CacheId) (line : Nat) : Option CacheLine :=
  s.coh.lines.find? fun c => c.cache == id && c.line == line

/-- The sidecar of a line at its place: host memory has none. -/
def placeSide (s : State) (line : Nat) : List Byte := if keyRegion line == 4 then List.replicate 32 0 else s.sideAt line

/-- A copy taken from a line's place. -/
def fromPlace (s : State) (id : CacheId) (line : Nat) : CacheLine :=
  { cache := id, line := line, data := s.bytesAt line 128, side := s.placeSide line, born := s.clk.serial }

/-- The host link that carries the traffic of an address: by address bit 12, or the other one while that is down (R321). -/
def linkFor (s : State) (a : Nat) : Option Nat :=
  let up := fun (k : Nat) => if k = 0 then s.dev.link0 else s.dev.link1
  let k := a / 4096 % 2
  if up k then some k else if up (1 - k) then some (1 - k) else none

/-- Whether accesses to the place of a line can be carried: another device's memory needs the pod's stations (R323, R330),
host memory a link that is up (R321). -/
def reaches (s : State) (k : Nat) : Bool :=
  match keyRegion k with
  | 4 => (s.linkFor (keyAddr k)).isSome
  | 7 | 8 => s.dev.poden
  | _ => true

/-- Whether a station's 64 KiB transmit queue holds more than LCTHR KiB as a payload enters it: how full it stands is open
(R342; log 5). -/
def queueHigh (s : State) : Bool := s.dev.lcthr.toNat < Config.freePick s.clk.free % 65

/-- Sends a transaction about a remote line to its home device, on the station that R330 gives and with this device's cut
state (R344). -/
def sendRemote (s : State) (line : Nat) (tx : RemoteTx) : State :=
  let a := keyAddr line
  let tx := { tx with src := s.dev.devid.toNat, asid := a / 2 ^ 56 % 65536, cuts := s.spire.contributed
                      station := (a / 2 ^ 72 + a / 128 % 16) % 18 }
  { s with spire := { s.spire with remoteOut := tx :: s.spire.remoteOut } }

/-- The Fill move of an RDC (R291): a remote line is loaded from its home device (R330). -/
def fillRdc (s : State) (hive line : Nat) : State :=
  match s.copy? (.rdc hive) line with
  | some _ => s
  | none =>
    if !s.reaches line then s
    else
      let s := s.modLines fun l => s.fromPlace (.rdc hive) line :: l
      if keyRegion line == 7 then s.sendRemote line { kind := .load, src := 0, asid := 0, va := keyAddr line % 2 ^ 56, size := 128 } else s

/-- The Fill move of an L1: from the RDC where the route has one, filled first if absent, else from the place. -/
def fillL1 (s : State) (core line : Nat) : State :=
  match s.copy? (.l1 core) line with
  | some _ => s
  | none =>
    if viaRdc (hiveOf core) line then
      let s := s.fillRdc (hiveOf core) line
      match s.copy? (.rdc (hiveOf core)) line with
      | some c => s.modLines fun l => { c with cache := .l1 core, dirty := [] } :: l
      | none => s
    else s.modLines fun l => s.fromPlace (.l1 core) line :: l

/-- The byte that a read of a core finds along its route (R290): its L1 copy, its hive's RDC copy, or the place. -/
def routeByte (s : State) (core k : Nat) : Byte :=
  let line := lineKey k
  if l1able line then
    match s.copy? (.l1 core) line with
    | some c => c.byte (lineIdx k)
    | none =>
      match (if viaRdc (hiveOf core) line then s.copy? (.rdc (hiveOf core)) line else none) with
      | some c => c.byte (lineIdx k)
      | none => s.byteAt k
  else s.byteAt k

/-- Whether a read of a core can be served: a copy is on its route, or its place can be reached. -/
def canRead (s : State) (core k : Nat) : Bool :=
  let line := lineKey k
  s.reaches k || (s.copy? (.l1 core) line).isSome || (viaRdc (hiveOf core) line && (s.copy? (.rdc (hiveOf core)) line).isSome)

/-- The byte that an atomic at a core's cluster unit reads: through the hive's route (R229, R290). -/
def hiveByte (s : State) (hive k : Nat) : Byte :=
  match (if viaRdc hive (lineKey k) then s.copy? (.rdc hive) (lineKey k) else none) with
  | some c => c.byte (lineIdx k)
  | none => s.byteAt k

/-- A write from a hive at its place (R290): a remote line's place is the hive's RDC, where the bytes become dirty. What it
cannot change (R6) reaches no copy either. -/
def writeHome (s : State) (h : Nat) (data : List (Nat × Byte)) : State :=
  let data := s.masked data
  let far := fun (d : Nat × Byte) => keyRegion d.1 == 7 || keyRegion d.1 == 8
  let there := data.filter far
  let s := s.perform (data.filter fun d => !far d)
  let s := (there.map fun d => lineKey d.1).eraseDups.foldl (fun s l => s.fillRdc h l) s
  let s := s.takeBytes (.rdc h) data
  let s : State := if there.isEmpty then s else s.squashHook (there.map fun d => d.1)
  s.modLines fun l => l.map fun c =>
    if c.cache == .rdc h then
      let idx := (there.filter fun d => lineKey d.1 == c.line).map fun d => lineIdx d.1
      { c with dirty := idx.foldl (fun a i => if a.contains i then a else i :: a) c.dirty }
    else c

/-- A core's store at its place (R291): its L1 copy takes the bytes too. -/
def writePlace (s : State) (core : Nat) (data : List (Nat × Byte)) : State :=
  let data := s.masked data
  (s.writeHome (hiveOf core) data).takeBytes (.l1 core) data

/-- The dirty bytes of a copy, by key. -/
def dirtyBytes (c : CacheLine) : List (Nat × Byte) :=
  c.dirty.map fun i => (if i < 128 then c.line + i else sideKey c.line (i - 128), c.byte i)

/-- What stands at the places of lines for a hive (R290): of a remote line, its dirty bytes are in the hive's RDC. -/
def placeView (s : State) (hive : Nat) : State :=
  s.withRead ((s.coh.lines.filter fun c => c.cache == .rdc hive && !c.dirty.isEmpty).map dirtyBytes).flatten

/-- Writes a dirty RDC line back to its home device (R290, R291, R330): the line becomes clean. Its payload is coded when the
station's queue stands high (R342). -/
def writeBack (s : State) (hive line : Nat) : State :=
  match s.copy? (.rdc hive) line with
  | none => s
  | some c =>
    if c.dirty.isEmpty || !s.reaches line then s
    else
      let out := if s.queueHigh then linkCoded c.data else (c.data, false)
      let s := (s.spend.perform (dirtyBytes c)).sendRemote line
        { kind := .writeBack, src := 0, asid := 0, va := keyAddr line % 2 ^ 56, size := 128, bytes := out.1, coded := out.2
          side := c.dirty.map fun i => (i, c.byte i) }
      s.modLines fun l => l.map fun x => if x.cache == .rdc hive && x.line == line then { x with dirty := [] } else x

/-- Writes back every dirty line of a hive that satisfies a test. -/
def writeBackAll (s : State) (hive : Nat) (p : Nat → Bool) : State :=
  ((s.coh.lines.filter fun c => c.cache == .rdc hive && !c.dirty.isEmpty && p c.line).map fun c => c.line).foldl
    (fun s l => s.writeBack hive l) s

/-- Whether a dirty line of a hive that satisfies a test cannot reach its home now (R323, R330): a release of it waits. -/
def stuck (s : State) (hive : Nat) (p : Nat → Bool) : Bool :=
  s.coh.lines.any fun c => c.cache == .rdc hive && !c.dirty.isEmpty && p c.line && !s.reaches c.line

/-- The Drop move (R291): a dirty RDC line is written back first, and stays while it cannot be. -/
def dropCopy (s : State) (id : CacheId) (line : Nat) : State :=
  let s : State := match id with | .rdc h => s.writeBack h line | .l1 _ => s
  s.modLines fun l => l.filter fun c => !(c.cache == id && c.line == line && c.dirty.isEmpty)

/-! ### Store buffers -/

def modSB (s : State) (f : List SBEntry → List SBEntry) : State := { s with coh := { s.coh with sb := f s.coh.sb } }

/-- Bytes that an entry still has to write. -/
def entryBytes (e : SBEntry) : List (Nat × Byte) := e.data ++ e.side

/-- The newest byte at a key among entries (R291): an entry replaces the best so far unless it is older. -/
def newest (k : Nat) (es : List SBEntry) : Option Byte :=
  (es.foldl (fun (b : Option (Order × Byte)) e =>
    match (entryBytes e).find? fun d => d.1 == k with
    | none => b
    | some d => match b with
      | some (o, _) => if e.ord.before o then b else some (e.ord, d.2)
      | none => some (e.ord, d.2)) none).map fun x => x.2

/-- Entries of a group that a place in program order follows. -/
def olderEntries (s : State) (comb group : Nat) (o : Order) : List SBEntry :=
  s.coh.sb.filter fun e => e.comb == comb && e.group == group && e.ord.before o

/-- Whether an entry goes to a window: its bytes are no bytes of memory (R267, R282). -/
def isWindow (e : SBEntry) : Bool := e.tt == 5 || e.tt == 6

/-- The newest byte at a key among a continuation's own held-back stores that come before a place in program order (R291,
R310). -/
def newestSpec (k : Nat) (o : Order) (es : List SpecEntry) : Option Byte :=
  ((es.filter fun e => e.ord.before o).foldl (fun (b : Option (Order × Byte)) e =>
    match (e.data ++ e.side).find? fun d => d.1 == k with
    | none => b
    | some d => match b with
      | some (p, _) => if e.ord.before p then b else some (e.ord, d.2)
      | none => some (e.ord, d.2)) none).map fun x => x.2

/-- Whether an entry is of the callee of a fork: of the caller's path or of a path made from it after the fork (R310). -/
def ofCallee (f : Fork) (o : Order) : Bool := o.sid == f.calleeSid || o.past.any fun p => p.1 == f.calleeSid

/-- The newest byte that a read of a group is forwarded, if any (R291, R310). -/
def forwarded (s : State) (comb group : Nat) (o : Order) (fork : Option Fork) (k : Nat) : Option Byte :=
  match fork with
  | none => newest k ((s.olderEntries comb group o).filter fun e => !isWindow e)
  | some f => (newestSpec k o f.specSB).orElse fun _ =>
      newest k (s.coh.sb.filter fun e => e.comb == comb && e.group == group && !isWindow e && (ofCallee f e.ord || e.ord.before o))

/-- The byte that a read of a group finds (R291, R310): forwarded, but for what the store cannot change (R6), or along the
route. -/
def readByte (s : State) (core comb group : Nat) (o : Order) (fork : Option Fork) (k : Nat) : Byte :=
  match s.forwarded comb group o fork k with
  | none => s.routeByte core k
  | some b => (((s.masked [(k, b)]).head?).map fun d => d.2).getD (s.routeByte core k)

/-- The bytes of keys that a fork's continuation has read otherwise than from its own held-back stores (R303, R310). -/
def seenBytes (s : State) (core comb group : Nat) (o : Order) (f : Fork) (ks : List Nat) : List (Nat × Byte) :=
  (ks.filter fun k => (newestSpec k o f.specSB).isNone).map fun k => (k, s.readByte core comb group o (some f) k)

/-- Bytes read from a key on, with the copies that the read fills (R291). -/
def readMem (s : State) (core comb group : Nat) (o : Order) (fork : Option Fork) (k n : Nat) : List Byte × State :=
  let s : State := if l1able k then s.fillL1 core (lineKey k) else s
  ((List.range n).map fun i => s.readByte core comb group o fork (k + i), s)

/-! ### Regions (R239, R241) -/

/-- The lines of a region as a range of line numbers of virtual addresses: first, and one past the last (R239). -/
def linesOf (base extent : W64) : Option (Nat × Nat) :=
  if extent == 0 then none else some (base.toNat / 128, (base.toNat + extent.toNat - 1) / 128 + 1)

/-- Whether a range of `n` bytes at a virtual address meets a region. -/
def inRegion (r : List (Nat × Nat)) (va n : Nat) : Bool := r.any fun x => x.1 * 128 < va + n && va < x.2 * 128

/-- The region of an object of some kind: the union of its entries (R239). -/
def boundRegion (binds : List Binding) (kind : Nat) (obj : W64) : List (Nat × Nat) :=
  (binds.filter fun b => b.kind == kind && b.obj == obj).filterMap fun b => linesOf b.base b.extent

/-- Whether the virtual page numbers from `p` on, `n` of them, hold an address of the region that translates to the line
`k` for a core of a context, or that does not translate, so that `k` may be its copy (R244). -/
def pageHits (s : State) (c core k : Nat) (r : List (Nat × Nat)) (p : Nat) : Nat → Bool
  | 0 => false
  | n + 1 =>
    let va := p * 65536 + k % 65536
    (inRegion r va 1 && (match s.xlate c core (BitVec.ofNat 64 va) .read with | .ok _ kk => kk == k | _ => true))
      || s.pageHits c core k r (p + 1) n

/-- Whether the line `k` lies in a region of a context. -/
def lineIn (s : State) (c core k : Nat) (r : List (Nat × Nat)) : Bool :=
  r.any fun x => s.pageHits c core k [x] (x.1 / 512) (x.2 / 512 + 1 - x.1 / 512)

/-- Drops copies of an acquire (R295): the core's L1, and at HIVE and wider its hive's RDC. -/
def dropWhere (s : State) (core scope : Nat) (p : Nat → Bool) : State :=
  let l1 := (s.coh.lines.filter fun c => c.cache == .l1 core && p c.line).map fun c => c.line
  let rd := if scope < 2 then [] else
    (s.coh.lines.filter fun c => c.cache == .rdc (hiveOf core) && p c.line).map fun c => c.line
  let s := l1.foldl (fun s l => s.dropCopy (.l1 core) l) s
  rd.foldl (fun s l => s.dropCopy (.rdc (hiveOf core)) l) s

/-- The acquire of a region (R295). -/
def acquire (s : State) (c core scope : Nat) (r : List (Nat × Nat)) : State :=
  if r.isEmpty then s else s.dropWhere core scope fun k => s.lineIn c core k r

/-- The acquire of every line (R297). -/
def acquireAll (s : State) (core scope : Nat) : State := s.dropWhere core scope fun _ => true

/-- Whether a release of a region may be performed for a place in program order (R294): the region's older stores have
drained, older loads and atomics have been performed, and older releases have. `all` names every line. -/
def mayRelease (s : State) (comb group fid : Nat) (o : Order) (all : Bool) (r : List (Nat × Nat)) : Bool :=
  !((s.olderEntries comb group o).any fun e => all || inRegion r e.va.toNat (max e.data.length 1))
    && !(s.flights.any fun f => f.comb == comb && f.group == group && f.fid != fid && f.ord.before o
        && ((f.accs.any fun a => a.val.isNone) || f.sync.isSome
          || (!f.rcn.isEmpty && (all || inRegion r (getAt f.ops 0).toNat (getAt f.ops 1).toNat))
          || f.stores.any fun x => all || inRegion r x.va.toNat (max x.data.length 1)))

/-! ### What holds a move back -/

/-- Flights of a group that come before a place in program order. -/
def olderFlights (s : State) (comb group : Nat) (o : Order) : List Flight :=
  s.flights.filter fun f => f.comb == comb && f.group == group && f.ord.before o

/-- The region of a lock word (R241): its binding entries', or the word itself. -/
def lockRegion (f : Flight) (a : Acc) : List (Nat × Nat) := boundRegion f.binds 2 a.va

/-- The regions of the words of a ldfe or stfe (R233, R241). -/
def feRegion (f : Flight) : List (Nat × Nat) :=
  ((f.accs.map (fun a => a.va) ++ f.stores.map fun x => x.va).map fun va => boundRegion f.binds 1 va).flatten

/-- The region of a binding entry as a flight found it (R239). -/
def entryRegion (f : Flight) (e : Nat) : List (Nat × Nat) := (linesOf (getAt f.binds e).base (getAt f.binds e).extent).toList

/-- Destination footprints of a group's batches up to `n` (R277). -/
def batchRegion (s : State) (comb group : Nat) (n : W32) : List (Nat × Nat) :=
  match s.group? comb group with
  | none => []
  | some g => ((g.batches.filter fun b => (n - b.num).toNat < 2 ^ 31).map fun b => (b.jobs.map fun j => j.dst).flatten).flatten

/-- Lines of the records of a group's batches up to `n` (R277). -/
def recordRegion (s : State) (comb group : Nat) (n : W32) : List (Nat × Nat) :=
  match s.group? comb group with
  | none => []
  | some g => (g.batches.filter fun b => (n - b.num).toNat < 2 ^ 31 && b.record != 0).filterMap fun b =>
      linesOf b.record (BitVec.ofNat 64 (8 + 8 * b.jobs.length))

/-- Whether a flight still has to acquire a region that covers `n` bytes at a virtual address (R295). -/
def acquires (s : State) (f : Flight) (va n : Nat) : Bool :=
  (match f.sync with
    | some (.hold b) => inRegion (boundRegion f.binds 0 (BitVec.ofNat 64 b)) va n
    | some (.acq e _) => inRegion (entryRegion f e) va n
    | some (.fence _) => true
    | some (.fe _ _ _ _) => inRegion (feRegion f) va n
    | some (.bwait k) => inRegion (s.batchRegion f.comb f.group k ++ s.recordRegion f.comb f.group k) va n
    | some (.launchRec a _) => inRegion (linesOf a 128).toList va n
    | _ => false)
    || ((f.orde == 1 || f.orde == 3) && f.accs.any fun a => a.val.isNone && a.kind != .load && inRegion (lockRegion f a) va n)

/-- Whether an access at a place in program order must wait for an older acquire of its path (R295). -/
def heldBack (s : State) (comb group : Nat) (o : Order) (va n : Nat) : Bool :=
  (s.olderFlights comb group o).any fun f => s.acquires f va n

/-- Whether a flight still has to perform a release (R241, R294). -/
def releases (f : Flight) : Bool :=
  (match f.sync with
    | some (.post _ _ _ _) | some (.rel _ _) | some (.fence _) | some (.fe _ _ _ _) | some (.launchRec _ _) => true
    | _ => false)
    || ((f.orde == 2 || f.orde == 3) && f.accs.any fun a => a.val.isNone && a.kind != .load)

/-- Whether an older load or atomic of the path that meets some bytes has not been performed (R298); `atoms` looks at
atomics only, and without `bank` atomics at BANK scope do not count (R245). -/
def accessAhead (s : State) (comb group : Nat) (o : Order) (k n : Nat) (atoms : Bool) (bank : Bool := true) : Bool :=
  (s.olderFlights comb group o).any fun f =>
    (bank || f.scope != 6) && f.accs.any fun a => a.val.isNone && (!atoms || a.kind != .load) && meets a.key a.size k n

/-- Whether a line is in the domain between hives, as a core's hive sees it (R298): there loads are not ordered with loads. -/
def betweenHives (hive k : Nat) : Bool :=
  !(keyRegion k == 2 || keyRegion k == 3 || keyRegion k == 4 || (keyRegion k == 0 && homeHive k == hive))

/-- Whether an entry is the GO word of a card: it drains as its job is accepted (R268, R300). -/
def isGo (e : SBEntry) : Bool := e.tt == 5 && e.data.any fun d => d.1 == key 9 0x20

/-- The keys of the lines of some ranges of line numbers of virtual addresses that translate to tower memory, be it for reading or
for writing alone. -/
def footKeys (s : State) (x core : Nat) (r : List (Nat × Nat)) : List Nat :=
  (r.map fun y => (List.range (y.2 - y.1)).filterMap fun i =>
    let va : W64 := BitVec.ofNat 64 ((y.1 + i) * 128)
    match s.xlate x core va .read, s.xlate x core va .write with
    | .ok _ k, _ | _, .ok _ k => if keyRegion k == 0 then some k else none
    | _, _ => none).flatten

/-- The bank queues that hold lines of some ranges (R244). -/
def footQueues (s : State) (x core : Nat) (r : List (Nat × Nat)) : List (Nat × Nat × Nat) :=
  ((s.footKeys x core r).map fun k => s.queueOf k).eraseDups

/-- The weight lines that a queued mmv has still to read (R259, R261). -/
def unreadLines (q : QEntry) : List Nat :=
  let ls := (q.keys.map fun p => (List.range (p.2 / 128)).map fun i => p.1 + 128 * i).flatten
  match q.todo with
  | none => ls
  | some t => ls.filter fun k => t.any fun u => u.any fun x => lineKey x == k

/-- The tower lines that a bank-unit job has still to read or to write (R261, R283): of its footprint until it has started, of
the source lines that it has not read and of its destination until it has decided its writes, and then of those writes. -/
def bankLeft (s : State) (j : Job) : List Nat :=
  let tower := fun (l : List Nat) => l.filter fun k => keyRegion k == 0
  match j.phase with
  | .waiting => s.footKeys j.ctx j.core (j.src ++ j.dst)
  | .reading todo => tower todo ++ s.footKeys j.ctx j.core j.dst
  | _ => tower ((j.writes.map fun w => (w.data.map fun d => d.1) ++ (w.copy.map fun d => [d.1, d.2]).flatten).flatten)

/-- Whether a GO of a group may create a bank-unit job: JC0 names ENG 3, in the card or in a store on its way to it (R267,
R269). -/
def mayBeBank (s : State) (comb group : Nat) : Bool :=
  let eng3 := fun (tt : Nat) (ds : List (Nat × Byte)) => tt == 5 && ds.any fun d => d.1 == key 9 7 && d.2.toNat / 16 == 3
  (((s.group? comb group).map fun g => (getAt g.card 0).any fun w => w.toNat / 2 ^ 60 == 3).getD false)
    || (s.coh.sb.any fun e => e.comb == comb && e.group == group && eng3 e.tt e.data)
    || s.flights.any fun f => f.comb == comb && f.group == group && f.stores.any fun y => eng3 y.tt y.data

/-- Whether a bank command that the path issued before a place in program order has not been performed in a bank's queue
(R245, R261, R299): a command on its way or queued, a GO that may create a bank-unit job, an mmv's weight read, or work that a
bank-unit job has still to do in that queue. -/
def bankAhead (s : State) (comb group : Nat) (o : Order) (q : Nat × Nat × Nat) : Bool :=
  let here := fun (tt : Nat) (ds : List (Nat × Byte)) =>
    (tt == 6 && ds.any fun d => s.queueOf d.1 == q) || (tt == 5 && (ds.any fun d => d.1 == key 9 0x20) && s.mayBeBank comb group)
  (s.coh.bank.any fun b => b.comb == comb && b.group == group && b.ord.before o && s.queueOf b.key == q)
    || ((s.olderEntries comb group o).any fun e => here e.tt e.data)
    || ((s.olderFlights comb group o).any fun f =>
      (f.stores.any fun y => here y.tt y.data)
        || s.coh.mq.any fun e => e.fids.contains f.fid && (unreadLines e).any fun k => s.queueOf k == q)
    || s.jobs.any fun j => j.comb == comb && j.group == group && (getAt j.card 0).toNat / 2 ^ 60 == 3 && j.ord.before o
      && (s.bankLeft j).any fun k => s.queueOf k == q

/-- A move has done a part of a flight: the flight completes in a later cycle. -/
def later (s : State) (f : Flight) : Flight := { f with due := max f.due (s.clk.cycle + 2) }

/-- Whether an older synchronising step of the path has not been performed (R295). -/
def syncAhead (s : State) (f : Flight) : Bool :=
  (s.olderFlights f.comb f.group f.ord).any fun x =>
    x.sync.isSome || (x.orde != 0 && x.accs.any fun a => a.val.isNone && a.kind != .load)

end State

end Sys2Proof.Machine
end

