-- ==== Sys2Proof/Machine/Run.lean ====
section
/-! DEFINITION. Issuing an instruction: the conditions every instruction shares (R104 to R106, R110, R116, R117), the
in-flight record of its results (R93, R107), the lost latches of other paths (R109), and how the path goes on (R41). -/

namespace Sys2Proof.Machine

/-- What an instruction does when it would issue. -/
inductive Plan where
  /-- its path is stalled, and it has not issued (R42, R215) -/
  | stall
  /-- its path is stalled too; the state notes that it waits (R332) -/
  | hold (s : State)
  /-- it takes a precise trap (R117) -/
  | trap (t : Trap)
  /-- it issues -/
  | go (s : State)
deriving DecidableEq, Repr, Inhabited

/-- Every path that shares an issue slot of a core with an instruction that issues, other than its own path, loses its
latches (R109, R12). -/
def State.loseOthers (s : State) (core slot : Nat) (r : PathRef) : State :=
  { s with combs := s.combs.map fun c =>
      if c.core != core then c
      else { c with groups := c.groups.map fun g => { g with paths := g.paths.map fun p =>
          let gs := match g.contFork? p.pix with | some f => f.shadow | none => g.gslot
          if gs % 4 == slot % 4 && !(c.id == r.comb && g.gidx == r.group && p.pix == r.path) then p.lose else p } } }

namespace Env

/-- The flag that the instruction makes pending (R93). -/
def setf (e : Env) : Option Nat := if (e.b.ctl e.k).setf ≤ 11 then some (e.b.ctl e.k).setf else none

/-- The in-flight record of the instruction before its own effects are put in. -/
def flight (e : Env) (o : Op) (f : Form) : Flight :=
  { fid := e.s.clk.serial, comb := e.ref.comb, group := e.ref.group, path := e.ref.path, op := o, form := f,
    bundle := e.p.pc, slot := e.k, setf := e.setf, due := e.s.clk.cycle + 1, lanes := e.active f.pred,
    ord := { sid := e.p.sid, pos := e.s.clk.serial, past := e.p.past }, epoch := e.p.epoch, binds := e.c.binds,
    cont := e.fork.map fun k => k.num, frm := e.g.frm, satf := e.g.satf }

/-- The issuing path: its flag pending, its issue cycle, its aging over (R42 to R44, R93). -/
def issued (e : Env) (p : Path) : Path :=
  { p with pend := (match e.setf with | some i => (i, e.s.clk.serial) :: p.pend | none => p.pend)
           lastIssue := some e.s.clk.cycle, unchosen := 0, boosted := false, slot := e.k, joined := none, freed := p.freed && e.b.fin,
           freedBar := false, freedArm := false }

/-- Issues the instruction with in-flight record `fl`, and lets `adv` say how the path goes on. -/
def issueWith (e : Env) (fl : Flight) (adv : State → State) : State :=
  let s : State := { e.s.bump with flights := e.s.flights ++ [fl] }
  let s := s.loseOthers e.core e.gslot e.ref
  let s := s.modPath e.ref e.issued
  adv s

/-- Issues and goes on after the instruction's slot (R41, R95). -/
def issue (e : Env) (fl : Flight) : State := e.issueWith fl fun s => s.goAfter e.ref e.b e.k

/-- A cycle within `lo` to `hi` cycles from now: a variable latency (R178, R214; log 5). -/
def varDue (e : Env) (lo hi : Nat) : Nat := e.s.clk.cycle + lo + Config.freeLatency e.s.clk.free % (hi - lo + 1)

/-- The instruction's path takes a trap; a continuation stalls instead until commit (R117, R312). -/
def raise (e : Env) (t : Trap) : State :=
  if e.isCont then e.s.modPath e.ref fun p => { p with wait := .deferred }
  else (e.s.modPath e.ref fun p => { p with slot := e.k }).takeTrap e.ref t

/-- Marks what a continuation's instruction read and wrote (R307, R309, R313): its sources in its active lanes, and `more`,
what it read in lanes of its own choice. -/
def contMarks (e : Env) (srcs : List (Src × Need)) (ws : List RegWrite) (act : Lanes) (cross : Bool) (s : State)
    (more : List (List (Src × Need) × Lanes) := []) : State :=
  match e.fork with
  | none => s
  | some k =>
    s.modGroup e.ref.comb e.ref.group fun g => g.modFork k.num fun k =>
      let read := fun (r : Nat) => ((srcs, act) :: more).foldl (fun (m : Lanes) x => if (e.predReads x.1).contains r then m ||| x.2 else m) 0
      { k with
        reads := (List.range 8).map fun r => getAt k.reads r ||| read r
        undo := allLanes.map fun i => (getAt k.undo i) + undoNeed ws i
        scalarW := k.scalarW || ws.any fun w => match w with | .s _ _ => true | .x _ _ => true | _ => false
        crossL := k.crossL || cross }

/-- Whether a continuation must wait for commit because of a register it reads or writes, or for want of an undo-log
entry (R307, R309). -/
def contStalls (e : Env) (srcs : List (Src × Need)) (ws : List RegWrite) : Bool :=
  match e.fork with
  | none => false
  | some k =>
    (srcs.any fun x => e.contReadStalls x.1 x.2.span) || ws.any e.contWriteStalls
      || allLanes.any fun i => 64 < getAt k.undo i + undoNeed ws i

end Env

/-- The frame of every instruction: an encoding that is not an instruction traps (R116), a continuation stalls where
R311 says, and else `body` decides. With no path chosen nothing happens (DEDUCED, log 2). -/
def runIsa (o : Op) (f : Form) (s : State) (body : Env → Plan) : Out State :=
  let done := fun (s : State) => { s with clk := { s.clk with cur := none } }
  match s.env? with
  | none => .next (done s)
  | some e =>
    if !o.legal f || (o.transfers && !e.b.lastValid e.k) then .next (done (e.raise { code := 0x01, lanes := e.p.exm, open_ := true }))
    else if e.contHolds o f then .next (done (s.modPath e.ref fun p => { p with wait := .deferred }))
    else
      match body e with
      | .stall => .next (done (if e.isCont then s.modPath e.ref fun p => { p with wait := .deferred } else s))
      | .hold s => .next (done s)
      | .trap t => .next (done (e.raise t))
      | .go s => .next (done s)

/-- An instruction that only computes register results: operand checks, then the results with their latch and flags
after `due` (R107, R139, R178). -/
def Env.regPlan (e : Env) (o : Op) (f : Form) (srcs : List (Src × Env.Need)) (dn : Env.Need) (due : Nat)
    (res : Unit → List RegWrite × Option Latch × Fl) (cross : Bool := false) (lanes : List (BitVec 7) := [])
    (more : List (List (Src × Need) × Lanes) := []) : Plan :=
  match e.check srcs f.dst dn with
  | some t => .trap t
  | none =>
    let (ws, la, nf) := res ()
    if e.contStalls srcs ws then .stall
    else .go (e.contMarks srcs ws (e.active f.pred) cross
      (e.issue { e.flight o f with due := due, writes := ws, latch := la, nf := nf.bits, nfl := lanes }) more)

/-- A cycle a fixed number of cycles from now (R139). -/
def Env.after (e : Env) (n : Nat) : Nat := e.s.clk.cycle + n

end Sys2Proof.Machine
end

