-- ==== Sys2Proof/Machine/LoadStore.lean ====
section
/-! DEFINITION. What every memory instruction shares: its addresses (R212), the order of its traps and faults (R209,
R217), translation of its lanes (R205), parking (R165), and the accesses of its in-flight record (R214). -/

namespace Sys2Proof.Machine

/-- An access that translated: its lane, address, target type and place. -/
structure Place where
  lane : Nat
  va   : W64
  tt   : Nat
  key  : Nat
deriving DecidableEq, Repr, Inhabited

namespace Env

/-- The address of a lane for an access of `n` bytes (R212). -/
def addrOf (e : Env) (f : Form) (n l : Nat) : W64 :=
  e.val f f.s0 l + (if f.mod then ((e.val f f.s1 l).setWidth 32).signExtend 64 * BitVec.ofNat 64 n else 0) + f.disp

/-- The lowest lane of a mask. -/
def lowest (m : Lanes) : Option Nat := (lanesOf m).head?

/-- The lanes that an instruction accesses with: the active ones, or for a uniform access the lowest of them (R218). -/
def accessLanes (e : Env) (f : Form) (uniform : Bool) : List Nat :=
  if uniform then (lowest (e.active f.pred)).toList else lanesOf (e.active f.pred)

/-- Whether an address lies in the issuing core's 1 MiB of an aperture but outside the comb's window (R209). -/
def outsideWindow (e : Env) (va : W64) : Bool :=
  match e.s.inAperture e.ctx va.toNat with
  | some (k, off) => k == e.core && !(e.c.spOff ≤ off && off < e.c.spOff + e.c.scratch)
  | none => false

/-- Whether an address lies in the comb's own window (R209). -/
def inWindow (e : Env) (va : W64) : Bool :=
  match e.s.inAperture e.ctx va.toNat with
  | some (k, off) => k == e.core && e.c.spOff ≤ off && off < e.c.spOff + e.c.scratch
  | none => false

/-- Whether `n` bytes from an address on lie in the comb's window. -/
def inWindowN (e : Env) (va n : Nat) : Bool :=
  n == 0 || (e.inWindow (BitVec.ofNat 64 va) && va + n ≤ 2 ^ 64
    && (match e.s.inAperture e.ctx va with
      | some (_, off) => off + n ≤ e.c.spOff + e.c.scratch
      | none => false))

/-- Another core's 1 MiB may be accessed inside the window of a running comb of the launch (R209). -/
def peerWindow (e : Env) (core off : Nat) : Bool :=
  core == e.core || e.s.combs.any fun c => c.core == core && c.launch == e.c.launch && c.spOff ≤ off && off < c.spOff + c.scratch

/-- Where one lane's access goes (R205, R207, R209, R212, R217): a place, or a fault. -/
def resolve (e : Env) (n : Nat) (need : Access) (okTT : Nat → Bool) (l : Nat) (va : W64) : Place ⊕ LaneFault :=
  let fault := fun (c : Nat) => (Sum.inr { lane := l, va := va, need := need, code := some c } : Place ⊕ LaneFault)
  if 2 ^ 56 ≤ va.toNat then fault 0x10
  else if va.toNat % n != 0 then fault 0x11
  else
    let far := match e.s.inAperture e.ctx va.toNat with
      | some (k, off) => !e.peerWindow k off
      | none => false
    if far then fault 0x10
    else
      match e.s.xlate e.ctx e.core va need with
      | .ok tt k => if okTT tt then .inl { lane := l, va := va, tt := tt, key := k } else fault 0x11
      | .absent => if okTT 0 then .inr { lane := l, va := va, need := need } else fault 0x11
      | .fault c => fault c

/-- Resolves the lanes of an access: the places and the faults. -/
def resolveAll (e : Env) (n : Nat) (need : Access) (okTT : Nat → Bool) (lvs : List (Nat × W64)) :
    List Place × List LaneFault :=
  let rs := lvs.map fun x => e.resolve n need okTT x.1 x.2
  (rs.filterMap fun r => match r with | .inl p => some p | .inr _ => none,
   rs.filterMap fun r => match r with | .inl _ => none | .inr x => some x)

/-- The trap 0x06 of lanes outside the window (R209). -/
def windowTrap (e : Env) (lvs : List (Nat × W64)) (all : Option Lanes) : Option Trap :=
  match lvs.filter fun x => e.outsideWindow x.2 with
  | [] => none
  | b :: bs => some { code := 0x06, lanes := all.getD (maskOf fun i => (b :: bs).any fun x => x.1 == i), info := b.2 }

/-! ### Parking (R165) -/

/-- The lowest path index from 0 to 5 that no path of the group holds (R164) (DESIGN CHOICE, log 39). -/
def freeIndex (g : Group) : Option Nat := ([0, 1, 2, 3, 4, 5].filter fun i => !g.paths.any fun p => p.pix == i).head?

/-- Side paths and paths parked beside an origin: at most four (R165). -/
def sideCount (g : Group) : Nat := (g.paths.filter fun p => p.kind == .side).length

/-- The whole path parks at the instruction, which has not issued. -/
def parkWhole (e : Env) (fs : List LaneFault) : State :=
  e.s.modPath e.ref fun p => { p with slot := e.k, wait := .parked fs false false, joined := none }

/-- The faulting lanes leave the path as a parked path at the instruction (DEDUCED, log 40). -/
def parkLanes (e : Env) (fs : List LaneFault) (m : Lanes) (pix : Nat) : Env :=
  let n := e.s.clk.serial
  let side : Path := { pix := pix, kind := .side, origin := some e.p.pix, pc := e.p.pc, slot := e.k, arrived := true
                       pl := m, exm := m, pend := e.p.pend, depth := e.p.depth, rstack := e.p.rstack
                       fdepth := e.p.fdepth, inHandler := e.p.inHandler, trap := e.p.trap, born := e.s.clk.cycle
                       wait := .parked fs false true, sid := n, past := (e.p.sid, n) :: e.p.past }
  let p : Path := { e.p with pl := e.p.pl &&& ~~~m, exm := e.p.exm &&& ~~~m }
  let g0 := e.g.modPath e.p.pix fun _ => p
  let g : Group := { g0 with paths := g0.paths ++ [side] }
  let s := e.s.bump.modGroup e.ref.comb e.ref.group fun _ => g
  let c := e.c.modGroup e.ref.group fun _ => g
  { e with s := s, p := p, g := g, c := c }

/-- What the faults of an instruction lead to (R165): the whole path parks, or the faulting lanes do and the others go
on; a continuation stalls (R312). `mask` holds the faulting lanes. -/
def withFaults (e : Env) (fs : List LaneFault) (mask : Lanes) (go : Env → Plan) : Plan :=
  if fs.isEmpty then go e
  else if e.isCont then .stall
  else if mask &&& e.p.exm == e.p.exm || 4 ≤ sideCount e.g then .go (e.parkWhole fs)
  else match freeIndex e.g with
    | none => .go (e.parkWhole fs)
    | some i => go (e.parkLanes fs mask i)

/-- The faults of a uniform access are faults of every active lane (R218). -/
def spreadFaults (e : Env) (f : Form) (uniform : Bool) (fs : List LaneFault) : List LaneFault :=
  if uniform then
    (match fs with
      | [] => []
      | x :: _ => (lanesOf (e.active f.pred)).map fun l => { x with lane := l })
  else fs

/-- The lanes of some faults. -/
def faultMask (fs : List LaneFault) : Lanes := maskOf fun i => fs.any fun x => x.lane == i

/-- Records the translations that an instruction used. -/
def noteAll (e : Env) (ps : List Place) (fs : List LaneFault) : Env :=
  let vas := ps.map (fun p => p.va) ++ (fs.filter fun x => x.code.isSome).map fun x => x.va
  let s := vas.foldl (fun s va => s.note e.ctx va) e.s
  { e with s := s }

/-- The frame of a memory instruction: the checks of R217 in order, the entry's own checks `post` on each place, parking,
and then `go` with the places. -/
def memPlan (e : Env) (f : Form) (srcs : List (Src × Need)) (dn : Need) (n : Nat) (uniform : Bool) (need : Access)
    (okTT : Nat → Bool) (go : Env → List Place → Plan) (post : Place → Place ⊕ LaneFault := Sum.inl) : Plan :=
  match e.check srcs f.dst dn with
  | some t => .trap t
  | none =>
    let lvs := (e.accessLanes f uniform).map fun l => (l, e.addrOf f n l)
    match e.windowTrap lvs (if uniform then some (e.active f.pred) else none) with
    | some t => .trap t
    | none =>
      let (ps0, fs0) := e.resolveAll n need okTT lvs
      let ps := (ps0.map post).filterMap fun r => match r with | .inl p => some p | .inr _ => none
      let fs1 := (ps0.map post).filterMap fun r => match r with | .inl _ => none | .inr x => some x
      let fs := e.spreadFaults f uniform (fs0 ++ fs1)
      (e.noteAll (ps0 ++ ps) fs).withFaults fs (faultMask fs) fun e => go e ps

/-- The place in program order that the instruction takes (R289). -/
def order (e : Env) : Order := { sid := e.p.sid, pos := e.s.clk.serial, past := e.p.past }

/-- Bytes that the path reads at once (R148, R228). -/
def peek (e : Env) (k n : Nat) : List Byte × State := e.s.readMem e.core e.ref.comb e.ref.group e.order e.fork k n

/-- Whether an older store of the path to one of some bytes has not completed yet, or an older rcn of their line (R224). -/
def storeAhead (s : State) (comb group : Nat) (o : Order) (ks : List Nat) : Bool :=
  s.flights.any fun x => x.comb == comb && x.group == group && x.ord.before o
    && ((x.stores.any fun y => y.tt != 5 && y.tt != 6 && (y.data ++ y.side).any fun d => ks.contains d.1)
      || x.rcn.any fun y => ks.any fun k => lineKey k == y.1)

/-- Whether a load at a place in program order may read `n` bytes at a key now (R291, R295, R298): no older acquire covers
them, no older store to them has still to complete, older accesses of them that come first have been performed, but for
atomics at BANK scope (R245), and the read can be served. -/
def mayRead (s : State) (core comb group : Nat) (o : Order) (va k n : Nat) (ks : List Nat) : Bool :=
  !s.heldBack comb group o va n && !storeAhead s comb group o ks
    && !s.accessAhead comb group o k n (State.betweenHives (hiveOf core) k) false && s.canRead core k

/-- Whether the path may read `n` bytes at a key at once, for an instruction that reads as it issues (R148, R228). -/
def mayPeek (e : Env) (va k n : Nat) : Bool :=
  mayRead e.s e.core e.ref.comb e.ref.group e.order va k n ((List.range n).map fun i => k + i)

/-! ### In-flight accesses -/

/-- A cycle at an unbounded free distance: memory instructions have no stated latency (R214; log 5). -/
def openDue (e : Env) : Nat := e.s.clk.cycle + 1 + Config.freeLatency e.s.clk.free

/-- The register writes that a destination will take, for the checks of a continuation (R309). -/
def pseudoWrites (e : Env) (f : Form) (span : Nat) (act : Lanes) : List RegWrite :=
  if f.nwb then []
  else match f.dst with
    | .scal n => [.s n.toNat 0]
    | .idx k => [.x k.toNat 0]
    | .pred n => [.q n.toNat act 0]
    | d => match e.dstNum d with
      | some n => (List.range span).map fun i => .v (n + i) act []
      | none => []

/-- The accesses of a place: accesses wider than 8 bytes are single-copy atomic per 8 bytes (R216). -/
def accsOf (kind : AccKind) (n : Nat) (p : Place) (a b : W64) : List Acc :=
  if n ≤ 8 then [{ lane := p.lane, va := p.va, tt := p.tt, key := p.key, size := n, kind := kind, a := a, b := b }]
  else (List.range (n / 8)).map fun i =>
    { lane := p.lane, va := p.va + BitVec.ofNat 64 (8 * i), tt := p.tt, key := p.key + 8 * i, size := 8, kind := kind }

/-- The sectors that a continuation's loads add to its tracked set; none when there is no room (R310). -/
def track (e : Env) (ks : List Nat) : Option (List Nat) :=
  match e.fork with
  | none => some []
  | some k =>
    let t := (k.tracked ++ ks.map State.sectorOf).eraseDups
    if 128 < t.length then none else some t

/-- Sets a continuation's tracked sectors. -/
def setTracked (e : Env) (t : List Nat) (s : State) : State :=
  match e.fork with
  | none => s
  | some k => s.modGroup e.ref.comb e.ref.group fun g => g.modFork k.num fun k => { k with tracked := t }

/-- Notes the bytes that a continuation has read at once (R303). -/
def setSeen (e : Env) (ks : List Nat) (s : State) : State :=
  match e.fork with
  | none => s
  | some k => s.modGroup e.ref.comb e.ref.group fun g => g.modFork k.num fun k =>
      { k with seen := (k.seen ++ e.s.seenBytes e.core e.ref.comb e.ref.group e.order k ks).eraseDups }

/-- Issues a load with its accesses. -/
def issueLoad (e : Env) (o : Op) (f : Form) (srcs : List (Src × Need)) (span : Nat) (accs : List Acc) (ks : List Nat)
    (fin : Fin) : Plan :=
  let act := e.active f.pred
  let ws := e.pseudoWrites f span act
  if e.contStalls srcs ws then .stall
  else match e.track ks with
    | none => .stall
    | some t =>
      let fl := { e.flight o f with due := e.openDue, accs := accs, fin := fin }
      .go (e.setTracked t (e.contMarks srcs ws act false ({ e with s := e.s.spend }.issue fl)))

/-- Whether a continuation's speculative store buffer has no free entry for one more store, those in flight counted
(R310). -/
def specFull (e : Env) : Bool :=
  match e.fork with
  | none => false
  | some k => 64 ≤ (k.specSB.map fun x => x.ord.pos).eraseDups.length + (e.s.flights.filter fun x =>
      x.cont == some k.num && x.comb == e.ref.comb && x.group == e.ref.group && !x.stores.isEmpty).length

/-- Issues a store with its entries; a continuation needs a free entry of its speculative store buffer and never stores
to a window (R310, R311). A store to the job-queue window notes the group's entries that have completed (R268).
`clash` says that two active lanes addressed a common byte (R314), `more` what it reads besides its active lanes. -/
def issueStore (e : Env) (o : Op) (f : Form) (srcs : List (Src × Need)) (sts : List SpecEntry) (clash : Bool)
    (nf : BitVec 7) (more : List (List (Src × Need) × Lanes) := []) : Plan :=
  let act := e.active f.pred
  if e.contStalls srcs [] || (e.isCont && (e.specFull || sts.any fun x => x.tt == 5 || x.tt == 6)) then .stall
  else
    let fl := { e.flight o f with due := e.openDue, fin := .store, nf := nf }
    let go := if sts.any fun x => x.tt == 5 then
        (e.s.coh.sb.filter fun x => x.comb == e.ref.comb && x.group == e.ref.group).map fun x => x.eid else []
    let fl := { fl with stores := sts.map fun x => { x with ord := fl.ord }, cmds := go }
    .go (e.contMarks srcs [] act clash ({ e with s := e.s.spend }.issue fl) more)

end Env

/-- Bytes of an access type (R211). -/
def accessBytes (t : Ty) : Nat := t.bits / 8

/-- A destination's or data operand's needs for an access type (R213). -/
def accessNeed (t : Ty) (uniform : Bool) : Env.Need := { span := Ty.span t, mult := Ty.span t, uniform := uniform }

/-- Needs of an address field. -/
def addrNeeds (f : Form) (uniform : Bool) : List (Src × Env.Need) :=
  (f.s0, { uniform := uniform }) :: (if f.mod then [(f.s1, { uniform := uniform })] else [])

/-- The data bytes of a lane: the low bytes of a value, or of 2 or 4 registers (R213, R219). -/
def Env.dataBytes (e : Env) (f : Form) (s : Src) (n l : Nat) : List Byte :=
  if n ≤ 4 then leBytes n (e.val f s l).toNat
  else if n = 8 then leBytes 8 (e.val2 f s l).toNat
  else match e.srcNum s with
    | some r => ((List.range 4).map fun i => leBytes 4 (vlane (e.vget (r + i)) l).toNat).flatten
    | none => leBytes n (e.val f s l).toNat

/-- Of the lanes of one store that write a byte, the highest stands (R216): lower lanes lose the bytes that a higher one
writes. -/
def settleLanes : List SpecEntry → List SpecEntry
  | [] => []
  | x :: xs =>
    let rest := settleLanes xs
    { x with data := x.data.filter fun d => !xs.any fun y => y.data.any fun z => z.1 == d.1 } :: rest

/-- Whether two lanes of a store write a common byte (R314). -/
def lanesClash : List SpecEntry → Bool
  | [] => false
  | x :: xs => (xs.any fun y => y.data.any fun z => x.data.any fun d => d.1 == z.1) || lanesClash xs

end Sys2Proof.Machine
end

