-- ==== Sys2Proof/Machine/Memory.lean ====
section
/-! DEFINITION. ld, ld.z, st, ldsc, stsc, stmc, dpf and rcn (R218 to R228). -/

namespace Sys2Proof.Machine

/-- Targets that ld and dpf reach (R205). -/
def ttLoad (t : Nat) : Bool := t ≤ 4 || t == 7
/-- Targets that st reaches (R205). -/
def ttStore (t : Nat) : Bool := t ≤ 7
/-- Targets that ldsc and stsc reach (R205). -/
def ttScaled (t : Nat) : Bool := t ≤ 1 || t == 3 || t == 4 || t == 7

/-! ### ld (R218) -/

/-- ld (R218, R220): hints change no value (DEDUCED, log 18). -/
def execLd (f : Form) (s : State) : Out State :=
  runIsa .ld f s fun e =>
    let n := accessBytes f.ty
    let u := f.dst.isScal
    let srcs := addrNeeds f u
    e.memPlan f srcs (accessNeed f.ty false) n u .read ttLoad fun e ps =>
      e.issueLoad .ld f srcs (Ty.span f.ty) (ps.map fun p => Env.accsOf .load n p 0 0).flatten (ps.map fun p => p.key)
        (.loaded f.dst ((e.dstNum f.dst).getD 0) f.ty (f.sub.getLsbD 3))

/-! ### Compressed regions (R226 to R228) -/

/-- First byte of the data area of a region with `n` tiles, from its header on (R227). -/
def bdzData (n : Nat) : Nat := (8 + 4 * n + 31) / 32 * 32

/-- Offset from the header and length of the stream of a tile with entry `w` in a region of `n` tiles (R227). -/
def bdzRange (n w : Nat) : Nat × Nat := (bdzData n + w / 8192 * 32, w % 8192)

/-- The bytes of a tile from those of its stream: 4,096 stored bytes are the tile itself (R227). -/
def bdzBytes (stream : List Byte) : Option (List Byte) :=
  if stream.length = 4096 then some stream else bdzDecode 128 stream

/-- ld.z (R228): the tile's header, entry and stream are read when the instruction issues (log 23). -/
def loadZ (e : Env) (f : Form) (h : W64) (k : Nat) : Plan :=
  let n := accessBytes f.ty
  let srcs := (f.s0, uniNeedZ) :: (if f.mod then [(f.s1, {})] else [])
  let off := fun (l : Nat) =>
    (if f.mod then ((e.val f f.s1 l).setWidth 32).signExtend 64 * BitVec.ofNat 64 n else 0) + f.disp
  let (head, s1) := e.peek k 8
  let e := { e with s := s1 }
  let tiles := leNat (head.take 4)
  let ls := lanesOf (e.active f.pred)
  let bad := ls.filter fun l => (off l).toNat % n != 0 || 4096 * tiles < (off l).toNat + n
  if !bad.isEmpty then .trap { code := 0x06, lanes := maskOf fun i => bad.contains i, info := off (bad.headD 0) }
  else
    let need := (ls.map fun l => (off l).toNat / 4096).eraseDups
    let entry := fun (t : Nat) => bdzRange tiles (leNat (e.peek (k + 8 + 4 * t) 4).1)
    let tile := fun (t : Nat) =>
      if e.inWindowN (h.toNat + (entry t).1) (entry t).2 then bdzBytes (e.peek (k + (entry t).1) (entry t).2).1 else none
    let got := need.map fun t => (t, tile t)
    let look := fun (l : Nat) => ((got.find? fun x => x.1 == (off l).toNat / 4096).bind fun x => x.2).map fun b =>
      leNat ((b.drop ((off l).toNat % 4096)).take n)
    let rs := need.map entry
    let ks := (List.range (8 + 4 * tiles)).map (fun i => k + i) ++ (rs.map fun r => (List.range r.2).map fun i => k + r.1 + i).flatten
    if !e.mayPeek h.toNat k (8 + 4 * tiles) || rs.any fun r => !e.mayPeek (h.toNat + r.1) (k + r.1) r.2 then .stall
    else
      let fs : List LaneFault := (ls.filter fun l => (look l).isNone).map fun l =>
        { lane := l, va := h + off l, need := .read, code := some 0x12 }
      e.withFaults fs (Env.faultMask fs) fun e =>
        let accs : List Acc := (lanesOf (e.active f.pred)).map fun l =>
          { lane := l, va := h, tt := 3, key := k, size := n, val := look l }
        { e with s := e.setSeen ks e.s }.issueLoad .ldZ f srcs (Ty.span f.ty) accs ks
          (.loaded f.dst ((e.dstNum f.dst).getD 0) f.ty (f.sub.getLsbD 3))
where
  uniNeedZ : Env.Need := { uniform := true }

/-- ld.z (R228) (DEDUCED, log 23). -/
def execLdZ (f : Form) (s : State) : Out State :=
  runIsa .ldZ f s fun e =>
    let srcs : List (Src × Env.Need) := (f.s0, { uniform := true }) :: (if f.mod then [(f.s1, {})] else [])
    match e.check srcs f.dst (accessNeed f.ty false) with
    | some t => .trap t
    | none =>
      let act := e.active f.pred
      let h := e.uni f f.s0
      if act == 0 then e.issueLoad .ldZ f srcs (Ty.span f.ty) [] [] (.loaded f.dst ((e.dstNum f.dst).getD 0) f.ty false)
      else
        match (if e.inWindowN h.toNat 8 then e.s.inAperture e.ctx h.toNat else none) with
        | none => .trap { code := 0x06, lanes := act, info := h }
        | some (core, off) => if e.mayPeek h.toNat (kScratch core off) 8 then loadZ e f h (kScratch core off) else .stall

/-! ### st and stmc (R219, R222) -/

/-- The entries of a place: b128 is single-copy atomic per 8 bytes (R216). -/
def entriesOf (p : Place) (bs : List Byte) (reps : List Nat) : List SpecEntry :=
  if bs.length ≤ 8 || p.tt == 6 then
    [{ lane := p.lane, va := p.va, tt := p.tt, data := cellsFrom p.key bs, reps := reps }]
  else (List.range (bs.length / 8)).map fun i =>
    { lane := p.lane, va := p.va + BitVec.ofNat 64 (8 * i), tt := p.tt,
      data := cellsFrom (p.key + 8 * i) ((bs.drop (8 * i)).take 8), reps := reps }

/-- Replicas that a plain store to a target writes: at TT 4 the issuing hive's (R222, R301) (DEDUCED, log 52). -/
def ownReplica (e : Env) (tt : Nat) : List Nat := if tt == 4 then [e.hive] else [0]

/-- A store to a window is checked in its lane (R267, R282): the card word, or the command with its target T, which is
translated as a store. -/
def windowPost (e : Env) (f : Form) (p : Place) : Place ⊕ LaneFault :=
  let bad := fun (va : W64) (c : Nat) => (Sum.inr { lane := p.lane, va := va, need := .write, code := some c } : Place ⊕ LaneFault)
  if p.tt == 5 then
    if f.ty == .b64 && p.va.toNat % 64 ≤ 0x20 then .inl { p with key := key 9 (p.va.toNat % 64) } else bad p.va 0x11
  else if p.tt == 6 then
    if f.ty != .b128 then bad p.va 0x11
    else
      let w := leNat ((e.dataBytes f f.s2 16 p.lane).take 8)
      let t := BitVec.ofNat 64 (w % 2 ^ 56)
      if 5 ≤ w / 2 ^ 60 || w / 2 ^ 56 % 16 != 0 then bad p.va 0x11
      else if t.toNat % 8 != 0 then bad t 0x11
      else
        match e.s.xlate e.ctx e.core t .write with
        | .ok tt k => if tt == 0 then .inl { p with va := t, key := k } else bad t 0x11
        | .absent => .inr { lane := p.lane, va := t, need := .write }
        | .fault c => bad t c
  else .inl p

/-- The entries of a store's places. A bank command's entry carries its operand and, as its replica, its BOP (R282). -/
def storeEntries (e : Env) (f : Form) (ps : List Place) (reps : Nat → List Nat) : List SpecEntry :=
  (ps.map fun p =>
    let bs := e.dataBytes f f.s2 (accessBytes f.ty) p.lane
    if p.tt == 6 then entriesOf p (bs.drop 8) [leNat (bs.take 8) / 2 ^ 60] else entriesOf p bs (reps p.tt)).flatten

/-- st and stmc: the data's low bytes go to each lane's address (R219, R222). -/
def storePlan (e : Env) (o : Op) (f : Form) (okTT : Nat → Bool) (reps : Env → Nat → List Nat) : Plan :=
  let srcs := addrNeeds f false ++ [(f.s2, accessNeed f.ty false)]
  e.memPlan f srcs {} (accessBytes f.ty) false .write okTT (post := windowPost e f) fun e ps =>
    let es := storeEntries e f ps (reps e)
    let cmds := es.filter fun x => x.tt == 6
    let plain := es.filter fun x => x.tt != 6
    e.issueStore o f srcs (settleLanes plain ++ cmds) (lanesClash plain) 0

/-- st (R219). -/
def execSt (f : Form) (s : State) : Out State :=
  runIsa .st f s fun e => storePlan e .st f ttStore ownReplica

/-- stmc (R222): every replica of the region. -/
def execStmc (f : Form) (s : State) : Out State :=
  runIsa .stmc f s fun e => storePlan e .stmc f (fun t => t == 4) fun _ _ => [0, 1, 2, 3]

/-! ### Scaled lines (R221) -/

/-- The element type that SUB names (R221). -/
def scFmt (f : Form) : Fmt := (Fmt.ofCode (f.sub.toNat % 32)).getD .e4m3
/-- SUB[5]: the mx form (R221). -/
def scMx (f : Form) : Bool := f.sub.getLsbD 5

/-- Bytes of a memory block's elements: 16 elements (R81). -/
def blockBytes (t : Fmt) : Nat := 2 * t.bits

/-- Numbers of the line's blocks, as the access sees them: those of an mx line go in pairs (R81, R221). -/
def accessBlocks (t : Fmt) (mx : Bool) : List Nat :=
  if mx then (List.range (lineElems t / 32)).map fun j => 2 * j else List.range (lineElems t / 16)

/-- Memory blocks of one block of an access. -/
def blockSpan (mx : Bool) : Nat := if mx then 2 else 1

/-- Sidecar bytes of a block of an access: its scales, then its μ bytes (R82). -/
def blockSide (mx : Bool) (b : Nat) : List Nat :=
  (List.range (blockSpan mx)).map (fun i => b + i) ++ (List.range (blockSpan mx)).map fun i => 16 + b + i

/-- ldsc (R221): each block is read with its scale and μ at once (R84). -/
def execLdsc (f : Form) (s : State) : Out State :=
  runIsa .ldsc f s fun e =>
    let srcs : List (Src × Env.Need) := [(f.s0, { uniform := true })]
    e.memPlan f srcs { span := 2, mult := 2 } 128 true .read ttScaled fun e ps =>
      let t := scFmt f
      let mx := scMx f
      let accs : List Acc := (ps.map fun (p : Place) => (accessBlocks t mx).map fun b =>
        ({ lane := b, va := p.va, tt := p.tt, key := p.key + b * blockBytes t, size := blockBytes t * blockSpan mx
           side := (blockSide mx b).map fun j => sideKey p.key j } : Acc)).flatten
      let ks := (ps.map fun p => [p.key, p.key + 32, p.key + 64, p.key + 96]).flatten
      e.issueLoad .ldsc f srcs 2 accs ks (.scaled ((e.dstNum f.dst).getD 0) t mx)

/-- Lanes whose registers a stsc reads: launched and not exited (R197, R221). -/
def Env.contributes (e : Env) (l : Nat) : Bool := lane (e.g.launched &&& ~~~e.g.exited) l

/-- The bytes that stsc writes for one block at line key `k` (R221, R86): payload, then scale and μ (DEDUCED, log 30). The
line's bytes beyond its blocks stay as they are (DESIGN CHOICE, log 104). The entry names the lowest active lane that
holds elements of the block. -/
def stscEntry (e : Env) (f : Form) (p : Place) (b : Nat) : SpecEntry × Fl :=
  let t := scFmt f
  let mx := scMx f
  let n := (e.srcNum f.s2).getD 0
  let lanes := fun (l : Nat) =>
    if e.contributes l then pairBlock t (vlane (e.vget n) l) (vlane (e.vget (n + 1)) l)
    else { el := List.replicate (laneElems t) 0 }
  let act := e.active f.pred
  let blk := storeBlock t mx lanes e.contributes (lane act) b
  let first := ((List.range (storeSpan mx)).map fun i => (16 * b + i) / laneElems t).find? fun l => lane act l
  let data := cellsFrom (p.key + b * blockBytes t) (leBytes (blockBytes t * blockSpan mx) (packElems t blk.el))
  let mus := if mx then [0, 0] else [blk.mu]
  let side := ((blockSide mx b).zip ((List.replicate (blockSpan mx) blk.x) ++ mus)).map fun x => (sideKey p.key x.1, BitVec.ofNat 8 x.2)
  ({ lane := first.getD 0, va := p.va, tt := p.tt, data := data, side := side, reps := ownReplica e p.tt }, blk.fl)

/-- Blocks of a stsc with an active lane. -/
def stscBlocks (t : Fmt) (mx : Bool) (act : Lanes) : List Nat :=
  (accessBlocks t mx).filter fun b => (List.range (storeSpan mx)).any fun i => lane act ((16 * b + i) / laneElems t)

/-- stsc (R221). -/
def execStsc (f : Form) (s : State) : Out State :=
  runIsa .stsc f s fun e =>
    let srcs : List (Src × Env.Need) := [(f.s0, { uniform := true }), (f.s2, { span := 2, mult := 2 })]
    e.memPlan f srcs {} 128 true .write ttScaled fun e ps =>
      let rs := (ps.map fun p => (stscBlocks (scFmt f) (scMx f) (e.active f.pred)).map fun b => stscEntry e f p b).flatten
      let t := scFmt f
      let held := fun (l : Nat) => (stscBlocks t (scMx f) (e.active f.pred)).any fun b =>
        (List.range (storeSpan (scMx f))).any fun i => (16 * b + i) / laneElems t == l
      e.issueStore .stsc f srcs (rs.map fun r => r.1) true (Fl.all (rs.map fun r => r.2)).bits
        [([(f.s2, { span := 2, mult := 2 })], maskOf fun l => e.contributes l && held l)]

/-! ### dpf and rcn (R224, R225) -/

/-- dpf (R225): a request that would fault, park, fail alignment or leave the window is dropped (DEDUCED, log 24). -/
def execDpf (f : Form) (s : State) : Out State :=
  runIsa .dpf f s fun e =>
    let srcs := addrNeeds f false
    if (srcs.any fun x => e.srcLost x.1 x.2 || (e.numOut (e.srcNum x.1) 1).isSome) then
      .go (e.issue (e.flight .dpf f))
    else if e.contStalls srcs [] then .stall
    else
      let lvs := (lanesOf (e.active f.pred)).map fun l => (l, e.addrOf f 1 l)
      let (ps, _) := e.resolveAll 1 .read ttLoad (lvs.filter fun x => !e.outsideWindow x.2)
      let e := e.noteAll ps []
      let fill := fun (s : State) (p : Place) =>
        if !l1able p.key then s
        else if f.sub == 0 then s.fillL1 e.core (lineKey p.key)
        else if viaRdc e.hive (lineKey p.key) then s.fillRdc e.hive (lineKey p.key) else s
      let e := { e with s := ps.foldl fill e.s }
      .go (e.contMarks srcs [] (e.active f.pred) false (e.issue (e.flight .dpf f)))

/-- The lines of a replicated range as keys of the issuing hive's replica, page by page; or the fault (R224). -/
def rcnLines (e : Env) : Nat → Nat → Nat → List Nat ⊕ (Nat × W64)
  | 0, _, _ => .inl []
  | fuel + 1, l, n =>
    if n = 0 then .inl []
    else
      let va := BitVec.ofNat 64 (l * 128)
      let k := min n (512 - l % 512)
      if 2 ^ 56 ≤ l * 128 then .inr (0x10, va)
      else
        match e.s.xlate e.ctx e.core va .write, e.s.xlate e.ctx e.core va .read with
        | .ok tt kk, .ok _ _ =>
          if tt != 4 then .inr (0x11, va)
          else
            match rcnLines e fuel (l + k) (n - k) with
            | .inl ls => .inl ((List.range k).map (fun i => kk + 128 * i) ++ ls)
            | .inr x => .inr x
        | .fault c, _ => .inr (c, va)
        | _, .fault c => .inr (c, va)
        | _, _ => .inr (0x11, va)

/-- rcn (R224): the copies are made by the moves of R301. -/
def execRcn (f : Form) (s : State) : Out State :=
  runIsa .rcn f s fun e =>
    let srcs : List (Src × Env.Need) := [(f.s0, { uniform := true }), (f.s1, { uniform := true })]
    match e.check srcs f.dst {} with
    | some t => .trap t
    | none =>
      let act := e.active f.pred
      let base := (e.uni f f.s0).toNat
      let ext := (e.uni f f.s1).toNat
      let n := if ext = 0 || act == 0 then 0 else (base + ext - 1) / 128 + 1 - base / 128
      match rcnLines e (n / 512 + 2) (base / 128) n with
      | .inr (c, va) =>
        let fs : List LaneFault := (lanesOf act).map fun l => { lane := l, va := va, need := .write, code := some c }
        e.withFaults fs act fun e => .go (e.issue (e.flight .rcn f))
      | .inl ls =>
        let h := f.imm.toNat % 4
        let todo := (ls.map fun l => ([0, 1, 2, 3].filter fun r => r != h).map fun r => (l, r)).flatten
        .go ({ e with s := e.s.spend }.issue { e.flight .rcn f with due := e.openDue, rcn := todo, ops := [e.uni f f.s0, e.uni f f.s1] })

end Sys2Proof.Machine
end

