-- ==== Sys2Proof/Machine/Sync.lean ====
section
/-! DEFINITION. Atomics, full/empty words, barriers, bindings, acquires, releases and fences (R229 to R244). -/

namespace Sys2Proof.Machine

/-! ### Atomics (R229 to R232) -/

/-- Targets that atom and cas reach (R205). -/
def ttAtom (t : Nat) : Bool := t ≤ 3 || t == 7

/-- RoundTo(o + a, f32, RNE, 0) of two f32 codes, with R51's zero sign and no flag (R231, R282). -/
def f32Sum (o a : Nat) : Nat := (roundTo (Num.add false (decodeNum .f32 o) (decodeNum .f32 a)).1 .f32 {} 0).1

/-- The new value of an atom of width `w` bits (R231). -/
def atomNew (op w : Nat) (o a : Nat) : Nat :=
  let sgn := fun (n : Nat) => if n < 2 ^ (w - 1) then (n : Int) else (n : Int) - 2 ^ w
  match op with
  | 0 => (o + a) % 2 ^ w
  | 1 => if sgn o ≤ sgn a then o else a
  | 2 => if sgn o ≤ sgn a then a else o
  | 3 => min o a
  | 4 => max o a
  | 5 => o &&& a
  | 6 => o ||| a
  | 7 => o ^^^ a
  | 8 => a
  | _ => f32Sum o a

/-- The checks of R229 on a place: host memory takes add, xchg and cas, and BANK scope takes tower memory only. An
atomic reads and writes. -/
def atomPost (e : Env) (f : Form) (host : Bool) (p : Place) : Place ⊕ LaneFault :=
  let bad := fun (c : Nat) => (Sum.inr { lane := p.lane, va := p.va, need := .write, code := some c } : Place ⊕ LaneFault)
  if (p.tt == 2 && !host) || (f.scope == 6 && p.tt != 0) then bad 0x11
  else match e.s.xlate e.ctx e.core p.va .read with
    | .fault c => bad c
    | _ => .inl p

/-- The operand of a lane: 32 bits, or a pair for b64 (R213). -/
def Env.wide (e : Env) (f : Form) (s : Src) (l : Nat) : W64 :=
  if f.ty == .b64 then e.val2 f s l else ((e.val f s l).setWidth 32).setWidth 64

/-- Bank commands of an atomic at BANK scope, one for each lane (R261, R297). -/
def addCmds (e : Env) (fid : Nat) (accs : List Acc) (s : State) : State :=
  accs.foldl (fun s a =>
    { s.bump with coh := { s.coh with bank := s.coh.bank ++
        [{ num := s.clk.serial, launch := e.c.launch, comb := e.ref.comb, group := e.ref.group, ord := e.order, key := a.key, a := a.a
           atom := some (fid, a.lane) }] } }) s

/-- atom and cas: each active lane's operation is performed by a move of its own (R291). -/
def atomPlan (e : Env) (o : Op) (f : Form) (data : List Src) (kind : AccKind) (host : Bool) : Plan :=
  let n := accessBytes f.ty
  let u := f.dst.isScal
  let d := accessNeed f.ty false
  let srcs := (if o == .cas then [(f.s0, { uniform := u })] else addrNeeds f u) ++ data.map fun x => (x, d)
  e.memPlan f srcs d n u .write ttAtom (post := atomPost e f host) fun e ps =>
    let accs : List Acc := ps.map fun p =>
      { lane := p.lane, va := p.va, tt := p.tt, key := p.key, size := n, kind := kind
        a := e.wide f (data.headD (.vec 0)) p.lane, b := e.wide f (data.getLastD (.vec 0)) p.lane }
    let fl := { e.flight o f with due := e.openDue, accs := accs, orde := f.ord, scope := f.scope
                                  fin := .loaded f.dst ((e.dstNum f.dst).getD 0) f.ty false }
    let s := { e with s := e.s.spend }.issue fl
    .go (if f.scope == 6 then addCmds e fl.fid accs s else s)

/-- atom (R231). -/
def execAtom (f : Form) (s : State) : Out State :=
  runIsa .atom f s fun e => atomPlan e .atom f [f.s2] (.atom f.sub.toNat) (f.sub == 0 || f.sub == 8)

/-- cas (R232): SRC1 is the comparand, SRC2 the new value. -/
def execCas (f : Form) (s : State) : Out State :=
  runIsa .cas f s fun e => atomPlan e .cas f [f.s1, f.s2] .cas true

/-! ### Full/empty words (R233) -/

/-- The word index of a scratchpad key, as the `full` list names it. -/
def wordOf (k : Nat) : Nat := keyAddr k / 4

/-- A lane's word: in the comb's own window, or a fault 0x11 (R233). -/
def feResolve (e : Env) (need : Access) (l : Nat) (va : W64) : Place ⊕ LaneFault :=
  match (if e.inWindow va && va.toNat % 4 == 0 then e.s.inAperture e.ctx va.toNat else none) with
  | some (k, off) => .inl { lane := l, va := va, tt := 3, key := kScratch k off }
  | none => .inr { lane := l, va := va, need := need, code := some 0x11 }

/-- The places and faults of ldfe and stfe. -/
def fePlaces (e : Env) (f : Form) (u : Bool) (need : Access) : List Place × List LaneFault :=
  let rs := (e.accessLanes f u).map fun l => feResolve e need l (e.addrOf f 4 l)
  (rs.filterMap fun r => match r with | .inl p => some p | .inr _ => none,
   rs.filterMap fun r => match r with | .inl _ => none | .inr x => some x)

/-- Whether an issued ldfe or stfe on one of the words has not been performed yet (DEDUCED, log 50). -/
def feTaken (s : State) (ws : List Nat) : Bool :=
  s.flights.any fun x => match x.sync with
    | some (.fe _ _ us _) => us.any fun u => ws.contains u
    | _ => false

/-- The condition of R233: every word in the required state at once (`none`: no condition). -/
def feReady (s : State) (ws : List Nat) (want : Option Bool) : Bool :=
  !feTaken s ws && (match want with
    | none => true
    | some b => ws.all fun w => s.full.contains w == b)

/-- The state that each row requires of its words (R233). -/
def feWant : Op → Option Bool
  | .ldfeTake | .ldfePeek => some true
  | .stfe => some false
  | _ => none

/-- ldfe and stfe: the checks, the wait, and the in-flight record whose step a release move performs (R233, R294). -/
def fePlan (e : Env) (o : Op) (f : Form) (load : Bool) : Plan :=
  let u := f.dst.isScal
  let need : Access := if load then .read else .write
  let srcs := addrNeeds f u ++ (if load then [] else [(f.s2, {})])
  match e.check srcs f.dst {} with
  | some t => .trap t
  | none =>
    let lvs := (e.accessLanes f u).map fun l => (l, e.addrOf f 4 l)
    match e.windowTrap lvs (if u then some (e.active f.pred) else none) with
    | some t => .trap t
    | none =>
      let (ps, fs0) := fePlaces e f u need
      let fs := e.spreadFaults f u fs0
      e.withFaults fs (Env.faultMask fs) fun e =>
        let ws := (ps.map fun p => wordOf p.key).eraseDups
        if !feReady e.s ws (feWant o) then .stall
        else
          let accs := if load then (ps.map fun p => Env.accsOf .load 4 p 0 0).flatten else []
          let sts := if load then [] else settleLanes (ps.map fun p =>
            ({ lane := p.lane, va := p.va, tt := 3, data := cellsFrom p.key (e.dataBytes f f.s2 4 p.lane) } : SpecEntry))
          let fl := { e.flight o f with due := e.openDue, accs := accs, stores := sts, scope := f.scope
                                        fin := if load then .loaded f.dst ((e.dstNum f.dst).getD 0) .b32 false else .regs
                                        sync := if ws.isEmpty then none else
                                          some (.fe (o == .ldfeTake) (!load) ws f.scope) }
          .go ({ e with s := e.s.spend }.issue fl)

/-- ldfe.take (R233). -/
def execLdfeTake (f : Form) (s : State) : Out State := runIsa .ldfeTake f s fun e => fePlan e .ldfeTake f true

/-- ldfe.peek (R233). -/
def execLdfePeek (f : Form) (s : State) : Out State := runIsa .ldfePeek f s fun e => fePlan e .ldfePeek f true

/-- stfe (R233). -/
def execStfe (f : Form) (s : State) : Out State := runIsa .stfe f s fun e => fePlan e .stfe f false

/-- stfe.force (R233). -/
def execStfeForce (f : Form) (s : State) : Out State := runIsa .stfeForce f s fun e => fePlan e .stfeForce f false

/-! ### Barriers (R234 to R238) -/

/-- The barrier identifier of a bar (R236). -/
def barNum (e : Env) (f : Form) : W64 := if f.mod then e.uni f f.s2 else BitVec.ofNat 64 (f.imm.toNat % 2 ^ 15)

/-- The operands of a bar, all uniform (R236). -/
def barSrcs (f : Form) (o : Op) : List (Src × Env.Need) :=
  let u : Env.Need := { uniform := true }
  (if f.mod then [(f.s2, u)] else [])
    ++ (match o with
      | .barHold => [(f.s1, u)]
      | .barSet => [(f.s0, u)]
      | _ => (if f.sub.getLsbD 4 then [(f.s0, u)] else []) ++ (if f.sub.getLsbD 3 then [(f.s1, u)] else []))

/-- Whether a path has a parked or side path of its own (R166). -/
def Env.sideLive (e : Env) : Bool := e.g.paths.any fun x => x.origin == some e.p.pix

/-- A path with a live parked or side path waits at a bar until it is released (R166, R236). -/
def Env.barHeld (e : Env) : Bool := e.sideLive && !e.p.freedBar

/-- Whether a wait for phase `p` is over (R236). -/
def phasePast (b : Barrier) (p : W32) : Bool := 1 ≤ (b.phase - p).toNat && (b.phase - p).toNat ≤ 2 ^ 31

/-- The arrival's count: the operand, or the number of active lanes (R236). -/
def barCount (e : Env) (f : Form) : W32 :=
  if f.sub.getLsbD 4 then (e.uni f f.s0).setWidth 32 else BitVec.ofNat 32 (lanesOf (e.active f.pred)).length

/-- The arrival's pending bytes (R236). -/
def barBytes (e : Env) (f : Form) : W64 := if f.sub.getLsbD 3 then e.uni f f.s1 else 0

/-- Marks a pod barrier as used by a launch (R332). -/
def State.usePod (s : State) (c : Comb) (r : BarRef) : State :=
  match r with
  | .pod n => s.modLaunch c.launch fun l => { l with podUsed := if l.podUsed.contains n then l.podUsed else n :: l.podUsed }
  | _ => s

/-- The home of a pod barrier notes this device as a user; a member with another home tells it so, once, and hears how the
barrier stands (R332) (DESIGN CHOICE, log 70). -/
def State.askPod (s : State) (c : Comb) (r : BarRef) : State :=
  match r with
  | .pod n =>
    let x := s.ctxOf c
    let me := s.dev.devid.toNat
    if s.podHere x n then s.modPodBar x n fun p => { p with users := if p.users.contains me then p.users else me :: p.users }
    else if (s.ctx x).podViews.any fun v => v.n == n && v.waited then s
    else (s.modPodView x n fun v => { v with waited := true }).podSend (getAt (s.ctx x).pods n).phome.toNat
      { asid := s.asid x, n := n, dev := me, kind := .wait }
  | _ => s

/-- A path waits on a barrier: its launch uses a pod barrier, and the home notes this device as a user (R332). -/
def State.waitPod (s : State) (c : Comb) (r : BarRef) : State := (s.usePod c r).askPod c r

/-- Counts an arrival at a barrier (R235, R236, R331): at a pod barrier's home the device is noted as one that arrived in
the phase and uses the barrier (DEDUCED, log 69). -/
def State.arrive (s : State) (c : Comb) (r : BarRef) (count : W32) (bytes : W64) : State :=
  let s := s.usePod c r
  let x := s.ctxOf c
  let me := s.dev.devid.toNat
  let add := fun (l : List Nat) => if l.contains me then l else me :: l
  let s : State := match r with
    | .pod n => if s.podHere x n then s.modPodBar x n fun p => { p with phased := add p.phased, users := add p.users } else s
    | _ => s
  s.barChange c r (fun b => { b with pending := b.pending + bytes, arrived := b.arrived + count })
    { asid := 0, n := 0, dev := 0, count := count.toNat, bytes := bytes }

/-- The frame of a bar: a path with a live side path waits (R166); then operand checks, no effect without an active lane,
an invalid B faults in every active lane (R234), a barrier of another home of which nothing is known is asked for and waited
for (R332) (DESIGN CHOICE, log 70), and else `go`. -/
def barPlan (e : Env) (o : Op) (f : Form) (go : Env → BarRef → Nat → Plan) : Plan :=
  if e.barHeld then .stall
  else match e.check (barSrcs f o) f.dst {} with
  | some t => .trap t
  | none =>
    let act := e.active f.pred
    if act == 0 then .go (e.issue (e.flight o f))
    else
      let b := barNum e f
      match e.s.barRef e.c b.toNat with
      | none =>
        let fs : List LaneFault := (lanesOf act).map fun l => { lane := l, va := b, need := .read, code := some 0x11 }
        e.withFaults fs act fun e => .go (e.issue (e.flight o f))
      | some r => if e.s.barKnown e.c r then go e r b.toNat else .hold (e.s.askPod e.c r)

/-- The trap at a broken barrier (R236). -/
def brokenTrap (e : Env) : Plan := .trap { code := 0x13, lanes := e.p.exm, open_ := true }

/-- bar.post (R236): the release and the arrival are a move of their own (R294). -/
def barPostPlan (e : Env) (f : Form) : Plan :=
  barPlan e .barPost f fun e r b =>
    if (e.s.barGet e.c r).broken then brokenTrap e
    else .go ({ e with s := e.s.spend }.issue { e.flight .barPost f with
      due := e.openDue, sync := some (.post b (barCount e f) (barBytes e f) f.dst) })

/-- bar.post (R236). -/
def execBarPost (f : Form) (s : State) : Out State := runIsa .barPost f s fun e => barPostPlan e f

/-- bar.meet after its arrival step (R215, R236): it waits for the joined phase, then acquires. -/
def barMeetPlan (e : Env) (f : Form) : Plan :=
  barPlan e .barMeet f fun e r b =>
    match e.p.joined with
    | none => .stall
    | some p =>
      if phasePast (e.s.barGet e.c r) p then
        .go ({ e with s := e.s.spend }.issue { e.flight .barMeet f with due := e.openDue, sync := some (.hold b) })
      else if (e.s.barGet e.c r).broken then brokenTrap e
      else .stall

/-- bar.meet (R236). -/
def execBarMeet (f : Form) (s : State) : Out State := runIsa .barMeet f s fun e => barMeetPlan e f

/-- bar.hold (R236). -/
def barHoldPlan (e : Env) (f : Form) : Plan :=
  barPlan e .barHold f fun e r b =>
    if phasePast (e.s.barGet e.c r) ((e.uni f f.s1).setWidth 32) then
      .go ({ e with s := (e.s.waitPod e.c r).spend }.issue { e.flight .barHold f with due := e.openDue, sync := some (.hold b) })
    else if (e.s.barGet e.c r).broken then brokenTrap e
    else .hold (e.s.waitPod e.c r)

/-- bar.hold (R236): a stalled one is noted as waiting. -/
def execBarHold (f : Form) (s : State) : Out State := runIsa .barHold f s fun e => barHoldPlan e f

/-- bar.set (R236). -/
def barSetPlan (e : Env) (f : Form) : Plan :=
  barPlan e .barSet f fun e _ b =>
    .go ({ e with s := e.s.spend }.issue { e.flight .barSet f with
      due := e.openDue, sync := some (.set b ((e.uni f f.s0).setWidth 32)) })

/-- bar.set (R236). -/
def execBarSet (f : Form) (s : State) : Out State := runIsa .barSet f s fun e => barSetPlan e f

/-- BAR_MEET_ARRIVAL (R215): bar.meet's release and arrival, once, while it is the path's next instruction; the joined
phase stays with the path, and a trap that the arrival meets is taken at the bar.meet. -/
def barMeetStep (e : Env) (f : Form) : State :=
  if e.p.joined.isSome || e.isCont || e.active f.pred == 0 || e.barHeld then e.s
  else if (e.check (barSrcs f .barMeet) f.dst {}).isSome then e.s
  else
    let b := (barNum e f).toNat
    match e.s.barRef e.c b with
    | none => e.s
    | some r =>
      let region := boundRegionOf e.c.binds b
      if !e.s.barKnown e.c r then e.s.askPod e.c r
      else if !e.s.mayRelease e.ref.comb e.ref.group 0 e.order false region
          || (4 ≤ State.barScope r && e.s.stuck e.hive fun k => e.s.lineIn e.ctx e.core k region) then e.s
      else if (e.s.barGet e.c r).broken then e.raise { code := 0x13, lanes := e.p.exm, open_ := true }
      else
        let s : State := if 4 ≤ State.barScope r then
            e.s.writeBackAll e.hive fun k => e.s.lineIn e.ctx e.core k region else e.s
        let s := s.modPath e.ref fun p => { p with joined := some (e.s.barGet e.c r).phase }
        s.arrive e.c r (barCount e f) (barBytes e f)
where
  boundRegionOf (binds : List Binding) (b : Nat) : List (Nat × Nat) := State.boundRegion binds 0 (BitVec.ofNat 64 b)

/-! ### Bindings, acquires, releases and fences (R239 to R244) -/

/-- bind (R240): the entry is written when the instruction completes. -/
def execBind (f : Form) (s : State) : Out State :=
  runIsa .bind f s fun e =>
    let srcs : List (Src × Env.Need) := [f.s0, f.s1, f.s2].map fun x => (x, { uniform := true })
    match e.check srcs f.dst {} with
    | some t => .trap t
    | none =>
      let w : Binding := { kind := f.sub.toNat, obj := e.uni f f.s0, base := e.uni f f.s1, extent := e.uni f f.s2 }
      let ws := if e.active f.pred == 0 then [] else [RegWrite.bind (f.imm.toNat % 16) w]
      .go ({ e with s := e.s.spend }.issue { e.flight .bind f with due := e.openDue, writes := ws })

/-- acq and rel on binding entry e: an unbound entry makes a no-op (R242). -/
def entryPlan (e : Env) (o : Op) (f : Form) (step : SyncStep) : Plan :=
  let b := getAt e.c.binds (f.imm.toNat % 16)
  if e.active f.pred == 0 || b.extent == 0 then .go (e.issue (e.flight o f))
  else .go ({ e with s := e.s.spend }.issue { e.flight o f with due := e.openDue, sync := some step })

/-- acq (R242). -/
def execAcq (f : Form) (s : State) : Out State :=
  runIsa .acq f s fun e => entryPlan e .acq f (.acq (f.imm.toNat % 16) f.scope)

/-- rel (R242). -/
def execRel (f : Form) (s : State) : Out State :=
  runIsa .rel f s fun e => entryPlan e .rel f (.rel (f.imm.toNat % 16) f.scope)

/-- fence.all (R243). -/
def execFenceAll (f : Form) (s : State) : Out State :=
  runIsa .fenceAll f s fun e =>
    if e.active f.pred == 0 then .go (e.issue (e.flight .fenceAll f))
    else .go ({ e with s := e.s.spend }.issue { e.flight .fenceAll f with due := e.openDue, sync := some (.fence f.scope) })

/-- Bank commands that have entered a queue that holds a line of a region (R244). -/
def queuedIn (e : Env) (r : List (Nat × Nat)) : List Nat :=
  (e.s.coh.bank.filter fun c => c.queued && (e.s.footQueues e.ctx e.core r).contains (e.s.queueOf c.key)).map fun c => c.num

/-- fence.bank (R244). -/
def execFenceBank (f : Form) (s : State) : Out State :=
  runIsa .fenceBank f s fun e =>
    match e.check [(f.s0, { uniform := true }), (f.s1, { uniform := true })] f.dst {} with
    | some t => .trap t
    | none =>
      let base := e.uni f f.s0
      let ext := e.uni f f.s1
      if e.active f.pred == 0 || ext == 0 then .go (e.issue (e.flight .fenceBank f))
      else .go ({ e with s := e.s.spend }.issue { e.flight .fenceBank f with
        due := e.openDue, cmds := queuedIn e (State.linesOf base ext).toList, sync := some (.fenceBank base ext) })

end Sys2Proof.Machine
end

