-- ==== Sys2Proof/Machine/Control.lean ====
section
/-! DEFINITION. nop, branches, calls, returns, trap and ipf (R118, R144 to R157, R161, R170), and the start of a
continuation (R305 to R307). -/

namespace Sys2Proof.Machine

/-- nop (R118). -/
def execNop (f : Form) (s : State) : Out State :=
  runIsa .nop f s fun e => .go (e.issue (e.flight .nop f))

/-! ### Control transfers (R144, R152) -/

/-- Where the transferring lanes go: their bundle, return stack and depth; `fork` names the fork through whose return
entry they return (R313). -/
structure Hop where
  target : Nat
  rstack : List RetAddr
  depth  : Nat
  fork   : Option Nat := none
deriving DecidableEq, Repr, Inhabited

/-- The lanes that transfer: T. -/
def Env.taken (e : Env) (f : Form) : Lanes := e.active f.pred

/-- The next bundle. -/
def Env.next (e : Env) : Nat := (e.p.pc + 64) % 2 ^ 64

/-- The target of SRC0 (R145, R146). -/
def Env.target (e : Env) (f : Form) : Nat :=
  match f.s0 with
  | .immS => (BitVec.ofNat 64 e.p.pc + BitVec.ofNat 64 64 * f.imm.signExtend 64).toNat
  | s => (e.uni f s).toNat

/-- A hop with the path's own return stack. -/
def Env.hop (e : Env) (t : Nat) : Hop := { target := t, rstack := e.p.rstack, depth := e.p.depth }

/-- The branch-target trap (R146): it applies to an absolute target only. -/
def Env.badTarget (e : Env) (f : Form) (t : Nat) : Option Trap :=
  if t % 64 != 0 then some { code := 0x02, lanes := e.taken f, open_ := true } else none

/-- The stack-overflow trap (R155). -/
def Env.overflow (e : Env) (f : Form) : Trap := { code := 0x0C, lanes := e.taken f, open_ := true }

/-- The state in which a push to a stack that holds `n` of at most `limit` entries may be made: from 16 on it spills to
the stack page (R155). -/
def Env.pushState (e : Env) (n limit : Nat) : Option State :=
  if limit ≤ n then none else if n < 16 then some e.s else e.s.withStack e.c e.g

/-- A path that goes to a hop. -/
def Path.goTo (p : Path) (h : Hop) (ok : Nat) : Path :=
  { p with pc := h.target, slot := 0, arrived := false, rstack := h.rstack, depth := h.depth, nextOk := ok }

/-- A path that has gone to a hop waits there when it returned from an unresolved fork (R313). -/
def Path.back (p : Path) (h : Hop) : Path :=
  match h.fork with
  | some n => State.atReturn n p p.cstack
  | none => p

/-- The two arms of a dual path (R152, R109): the taken arm keeps the path index, the staying arm takes the lowest free
one. Each is a stream of its own (R289). Parts that were pending on the path stay with the taken arm (DESIGN CHOICE, log 109). -/
def openDual (e : Env) (f : Form) (h : Hop) (pix : Nat) (s : State) : State :=
  let t := e.taken f
  let n := s.clk.serial
  let j := match f.dst with | .none j => j.toNat | _ => 0
  s.bump.bump.modGroup e.ref.comb e.ref.group fun g =>
    match g.path? e.ref.path with
    | none => g
    | some p =>
      let past := (p.sid, n) :: p.past
      let arm : Path := { p.lose with kind := .arm, pl := t, exm := t, sid := n, past := past, born := e.s.clk.cycle }
      let stay : Path :=
        { p.lose with kind := .arm, pix := pix, pc := e.next, slot := 0, arrived := false, pl := p.pl &&& ~~~t
                      exm := p.exm &&& ~~~t, cstack := [], sid := n + 1, past := past, born := e.s.clk.cycle }
      let g1 := g.modPath e.ref.path fun _ => (arm.goTo h (e.s.clk.cycle + 2)).back h
      { g1 with paths := g1.paths ++ [stay], dual := some (j, e.p.depth) }

/-- A serialised split (R152): the staying lanes wait as a pending entry of the reconvergence stack. -/
def pushSplit (e : Env) (f : Form) (h : Hop) (s : State) : State :=
  let t := e.taken f
  let j := match f.dst with | .none j => j.toNat | _ => 0
  s.modPath e.ref fun p =>
    let entry : RecEntry := { pc := e.next, pl := p.pl &&& ~~~t, exm := p.exm &&& ~~~t, pend := p.pend
                              rstack := p.rstack, depth := e.p.depth, jid := j }
    let q : Path := { p.goTo h (e.s.clk.cycle + 2) with pl := t, exm := t, cstack := entry :: p.cstack }
    q.back h

/-- A control transfer (R144): nothing when no lane transfers, the whole path when every enabled lane does, a split
otherwise. In a bundle with END the path ends instead (R95). `more` acts on a whole transfer (DEDUCED, log 25), `each`
whenever the instruction issues. -/
def transferPlan (e : Env) (o : Op) (f : Form) (srcs : List (Src × Env.Need)) (ready : Env → Hop ⊕ Trap)
    (more : Env → State → State := fun _ s => s) (each : State → State := id) : Plan :=
  match e.check srcs f.dst {} with
  | some t => .trap t
  | none =>
    if e.contStalls srcs [] then .stall
    else if e.taken f == 0 then .go (each (e.issue (e.flight o f)))
    else
      match ready e with
      | .inr t => .trap t
      | .inl h =>
        let fl := e.flight o f
        let marks := fun (s : State) => each (e.contMarks srcs [] (e.taken f) false s)
        if e.b.fin then .go (marks (e.issue fl))
        else if e.p.exm &&& ~~~e.taken f == 0 then
          .go (marks (more e (e.issueWith fl fun s => s.modPath e.ref fun p => (p.goTo h (e.s.clk.cycle + 2)).back h)))
        else
          match (if e.p.kind == .main then Env.freeIndex e.g else none) with
          | some pix => .go (marks (e.issueWith fl fun s => openDual e f h pix s))
          | none =>
            match e.pushState e.p.cstack.length 128 with
            | none => .trap (e.overflow f)
            | some s => .go (marks ({ e with s := s }.issueWith fl fun s => pushSplit e f h s))

/-- Needs of a branch's uniform sources. -/
def uniformSrcs (l : List Src) : List (Src × Env.Need) :=
  (l.filter fun s => !s.isImm).map fun s => (s, { uniform := true })

/-- The hop to SRC0's target, or the branch-target trap (R146). -/
def Env.jump (e : Env) (f : Form) : Hop ⊕ Trap :=
  match f.s0 with
  | .immS => .inl (e.hop (e.target f))
  | _ => match e.badTarget f (e.target f) with
    | some t => .inr t
    | none => .inl (e.hop (e.target f))

/-- br (R147). -/
def execBr (f : Form) (s : State) : Out State :=
  runIsa .br f s fun e => transferPlan e .br f (uniformSrcs [f.s0]) fun e => e.jump f

/-- brx (R148). -/
def execBrx (f : Form) (s : State) : Out State :=
  runIsa .brx f s fun e => transferPlan e .brx f (uniformSrcs [f.s0]) fun e => e.jump f

/-- brx.tab (R148): the table entry is read when the instruction issues (log 23); a fault is one of every lane in T. -/
def execBrxTab (f : Form) (s : State) : Out State :=
  runIsa .brxTab f s fun e =>
    let srcs := uniformSrcs [f.s0, f.s1]
    match e.check srcs f.dst {} with
    | some t => .trap t
    | none =>
      let t := e.taken f
      let va := e.uni f f.s0 + 8 * e.uni f f.s1
      if t == 0 || e.contStalls srcs [] then transferPlan e .brxTab f srcs fun e => .inl (e.hop 0)
      else if e.outsideWindow va then .trap { code := 0x06, lanes := t, info := va }
      else
        match e.resolve 8 .read ttLoad ((Env.lowest t).getD 0) va with
        | .inr x =>
          let fs := (lanesOf t).map fun l => { x with lane := l }
          (e.noteAll [] fs).withFaults fs t fun e => .go (e.issue (e.flight .brxTab f))
        | .inl p =>
          let e := e.noteAll [p] []
          let ks := (List.range 8).map fun i => p.key + i
          if !e.mayPeek va.toNat p.key 8 then .stall
          else
            match e.track [p.key] with
            | none => .stall
            | some tr =>
              let (bs, s1) := e.peek p.key 8
              let a := leNat bs
              transferPlan { e with s := e.setSeen ks (e.setTracked tr s1) } .brxTab f srcs fun e =>
                match e.badTarget f a with
                | some t => .inr t
                | none => .inl (e.hop a)

/-- The hop of a call (R149): the return address is pushed and the depth rises. -/
def Env.callHop (e : Env) (f : Form) (fork : Option Nat) : Hop ⊕ Trap :=
  match e.jump f with
  | .inr t => .inr t
  | .inl h =>
    let ra : RetAddr := { obj := e.l.obj, off := (e.next + 2 ^ 64 - e.l.desc.codebase) % 2 ^ 64, fork := fork }
    .inl { h with rstack := ra :: e.p.rstack, depth := e.p.depth + 1 }

/-- A call with the room for its push made first (R155). -/
def callPlan (e : Env) (o : Op) (f : Form) (srcs : List (Src × Env.Need)) (fork : Option Nat)
    (more : Env → State → State := fun _ s => s) (each : State → State := id) : Plan :=
  match (if e.taken f == 0 then some e.s else e.pushState e.p.rstack.length 1024) with
  | some s => transferPlan { e with s := s } o f srcs (fun e => e.callHop f fork) more each
  | none => transferPlan e o f srcs fun e => match e.jump f with
    | .inr t => .inr t
    | .inl _ => .inr (e.overflow f)

/-- call (R149). -/
def execCall (f : Form) (s : State) : Out State :=
  runIsa .call f s fun e => callPlan e .call f (uniformSrcs [f.s0]) none

/-! ### fcall (R150, R305) -/

/-- The mark of a call site on a core (R317). -/
def State.siteMark (s : State) (core site : Nat) : SiteMark :=
  (s.cores.sites.find? fun x => x.core == core && x.site == site).getD { core := core, site := site }

/-- Changes the mark of a call site. -/
def State.setSite (s : State) (m : SiteMark) : State :=
  { s with cores := { s.cores with sites := m :: s.cores.sites.filter fun x => !(x.core == m.core && x.site == m.site) } }

/-- A site is marked no-fork (R317). -/
def SiteMark.noFork (m : SiteMark) : Bool := 3 ≤ m.rowN && m.left != 0

/-- Shadow slots of a comb that no continuation holds, in ascending order (R19, R305). -/
def freeShadows (c : Comb) : List Nat :=
  c.shadow.filter fun x => !c.groups.any fun g => g.forks.any fun f => f.shadow == x

/-- The lowest continuation index of a group that no path holds. -/
def freeCont (g : Group) : Option Nat := ([6, 7, 8].filter fun i => !g.paths.any fun p => p.pix == i).head?

/-- The least of a list. -/
def least (l : List Nat) : Option Nat := l.foldl (fun b x => match b with | none => some x | some y => some (min x y)) none

/-- Whether the fcall forks (R150, R317): the shadow slot and the path index that its continuation takes
(DEDUCED, log 38). -/
def Env.forkPlace (e : Env) (f : Form) : Option (Nat × Nat) :=
  if e.p.exm &&& ~~~e.taken f != 0 || e.taken f == 0 || e.g.dual.isSome || e.p.kind != .main
      || !e.l.desc.forken || e.p.fdepth == 3 || (e.s.siteMark e.core e.p.pc).noFork then none
  else match least (freeShadows e.c), freeCont e.g with
    | some x, some i => some (x, i)
    | _, _ => none

/-- The predictor's prediction of return register `r` (R307). -/
def State.predicted (s : State) (core site r : Nat) : Option VReg :=
  match s.cores.pred.find? fun x => x.core == core && x.index == site / 64 % 256 with
  | none => none
  | some x => match x.regs[r]? with
    | some (true, _, v) => some v
    | _ => none

/-- The predictions of the eight return registers (R307). -/
def Env.predictions (e : Env) (f : Form) : List (Option VReg) :=
  (List.range 8).map fun r =>
    if r = 0 && f.sub == 1 then some (vreg fun i => (e.val f f.s1 i).setWidth 32)
    else if r = 0 && f.sub == 2 then some (vreg fun i => (e.val f f.s1 i).setWidth 32)
    else e.s.predicted e.core e.p.pc r

/-- Starts the continuation of a fork (R305, R306): the caller, now running the callee, is a new stream. -/
def startFork (e : Env) (f : Form) (num shadow pix : Nat) (s : State) : State :=
  let n := s.clk.serial
  let s := s.bump.bump.modGroup e.ref.comb e.ref.group fun g =>
    match g.path? e.ref.path with
    | none => g
    | some p =>
      let past := (p.sid, n) :: p.past
      let cont : Path :=
        { pix := pix, kind := .cont, pc := e.next, pl := e.p.exm, exm := e.p.exm, pend := p.pend, depth := e.p.depth
          rstack := e.p.rstack, inHandler := p.inHandler, trap := p.trap, fdepth := e.p.fdepth
          nextOk := e.s.clk.cycle + 2, born := e.s.clk.cycle, sid := n + 1, past := past }
      let fork : Fork :=
        { num := num, site := e.p.pc, shadow := shadow, pix := pix, lanes := e.taken f, outside := e.p.pl &&& ~~~e.taken f, depth := e.p.depth
          pred := e.predictions f, reads := List.replicate 8 0, undo := List.replicate 32 0, nfl := List.replicate 32 0, calleeSid := n
          contSid := n + 1 }
      let g1 := g.modPath e.ref.path fun p => { p with
        fdepth := p.fdepth + 1, sid := n, past := past, cstack := p.cstack.map fun x => { x with outer := num :: x.outer } }
      { g1 with paths := g1.paths ++ [cont], forks := g1.forks ++ [fork] }
  s.countFstat e.core 3

namespace State

/-- Discards every continuation of a group (R318): the callee's lanes carry on as ordinary paths. -/
def discardForks (g : Group) : Group :=
  let pixs := g.forks.map fun k => k.pix
  { g with forks := []
           paths := (g.paths.filter fun p => !pixs.contains p.pix).map fun p =>
             { p with fdepth := 0, wait := match p.wait with | .returned _ => .run | w => w
                      cstack := p.cstack.map fun e => { e with returned := none, outer := [] } } }

end State

/-- A fork during a save is discarded as it starts (R172, R318). -/
def Env.forkUnlessSaving (e : Env) (f : Form) (num shadow pix : Nat) (s : State) : State :=
  let t := startFork e f num shadow pix s
  if (t.ctx e.ctx).pstate == 0 then t else t.modGroup e.ref.comb e.ref.group State.discardForks

/-- An fcall at a marked site counts one of its 4,096 (R317). -/
def Env.countSite (e : Env) (s : State) : State :=
  let m := s.siteMark e.core e.p.pc
  if m.noFork then s.setSite { m with left := m.left - 1 } else s

/-- fcall (R150, R305): acts as call, and forks unless a condition of R150 holds. -/
def execFcall (f : Form) (s : State) : Out State :=
  runIsa .fcall f s fun e =>
    let srcs := uniformSrcs [f.s0] ++ (if f.sub == 1 then [(f.s1, { vecLatch := true })] else [])
    match e.forkPlace f with
    | none => callPlan e .fcall f srcs none (each := e.countSite)
    | some (shadow, pix) =>
      let num := e.s.clk.serial
      callPlan { e with s := e.s.bump } .fcall f srcs (some num) fun e s => e.forkUnlessSaving f num shadow pix s

/-! ### Returns, trap, ipf -/

/-- ret (R151): an entry of an unresolved fork makes the lanes wait for its resolution (R313). -/
def execRet (f : Form) (s : State) : Out State :=
  runIsa .ret f s fun e => transferPlan e .ret f [] fun e =>
    match e.p.rstack with
    | [] => .inr { code := 0x0B, lanes := e.taken f, open_ := true }
    | r :: rs =>
      .inl { target := (e.l.desc.codebase + r.off) % 2 ^ 64, rstack := rs, depth := e.p.depth - 1
             fork := match r.fork with
               | some n => if (e.g.fork? n).isSome then some n else none
               | none => none }

/-- RESUME of the path's trap record, read as a load of the path reads it; none while that load could not be performed
(R164, R291). -/
def Env.resume (e : Env) : Option Nat :=
  match State.resumeKey e.g e.p with
  | none => some 3
  | some k =>
    if e.mayPeek (stackOf e) k 1 then some (((e.peek k 1).1.headD 0).toNat / 4 % 4) else none
where
  stackOf (e : Env) : Nat := State.stackVa e.core e.g + 64 * ((e.p.trap.map fun t => t.home).getD 0) + 1

/-- ret.tr (R164): outside a handler it is an illegal instruction; without an active lane it has no effect (R104, R159). -/
def execRetTr (f : Form) (s : State) : Out State :=
  runIsa .retTr f s fun e =>
    if !e.p.inHandler then .trap { code := 0x01, lanes := e.p.exm, open_ := true }
    else if e.b.fin || e.active f.pred == 0 then .go (e.issue (e.flight .retTr f))
    else
      match e.resume with
      | none => .stall
      | some mode => .go (e.issueWith (e.flight .retTr f) fun s =>
          (s.returnTrap e.ref mode fun a => s.bundleAt e.core (s.asid e.ctx) a).modPath e.ref fun p =>
            { p with nextOk := e.s.clk.cycle + 2 })

/-- trap (R161): takes the trap of code 0x0A in the active lanes. -/
def execTrap (f : Form) (s : State) : Out State :=
  runIsa .trap f s fun e =>
    if e.taken f == 0 then .go (e.issue (e.flight .trap f))
    else .trap { code := 0x0A, lanes := e.taken f, info := BitVec.ofNat 64 (f.imm.toNat % 65536) }

/-- Requests an instruction line, or makes a present one the most recently used (R169, R170). -/
def State.wantLine (s : State) (core asid line : Nat) : State :=
  let here := fun (x : ILine) => x.core == core && x.asid == asid && x.line == line
  if s.coh.il.any here then
    { s with coh := { s.coh with il := s.coh.il.map fun x => if here x then { x with used := s.clk.cycle } else x } }
  else if s.coh.ireq.contains (core, asid, line) then s
  else { s with coh := { s.coh with ireq := (core, asid, line) :: s.coh.ireq } }

/-- Whether a line meets the code extent and its page may be executed (R98, R170). -/
def Env.lineOk (e : Env) (line : Nat) : Bool :=
  let d := e.l.desc
  d.codebase < line * 256 + 256 && line * 256 < d.codebase + d.codelen
    && (match e.s.xlate e.ctx e.core (BitVec.ofNat 64 (line * 256)) .exec with | .ok _ _ => true | _ => false)

/-- ipf (R170): requests 1, 2 or 4 lines, and never waits for them. -/
def execIpf (f : Form) (s : State) : Out State :=
  runIsa .ipf f s fun e =>
    let srcs := uniformSrcs [f.s0]
    if e.contStalls srcs [] then .stall
    else
      let lost := srcs.any fun x => e.srcLost x.1 x.2
      let first := e.target f / 256
      let lines := (List.range (2 ^ f.sub.toNat)).map (fun i => first + i) |>.filter e.lineOk
      let s : State := if e.active f.pred == 0 || lost then e.s
        else lines.foldl (fun s l => s.wantLine e.core (s.asid e.ctx) l) e.s
      .go (e.contMarks srcs [] (e.active f.pred) false ({ e with s := s }.issue (e.flight .ipf f)))

end Sys2Proof.Machine
end

