-- ==== Sys2Proof/Machine/Matrix.lean ====
section
/-! DEFINITION. Gangs and the matrix engine queue (R246 to R251), accumulator tiles (R252), mma, mmv, acc, epld and
drain (R254 to R266). -/

namespace Sys2Proof.Machine

/-! ### The comb's window and compressed regions -/

/-- The key of `n` bytes of a comb's window from a virtual address on; none when they do not lie in it (R209). -/
def State.windowKey (s : State) (c : Comb) (va n : Nat) : Option Nat :=
  match s.inAperture (s.ctxOf c) va with
  | some (k, off) => if k == c.core && c.spOff ≤ off && off + n ≤ c.spOff + c.scratch then some (kScratch k off) else none
  | none => none

/-- Tiles of the compressed region with header key `k` (R227). -/
def State.zTiles (s : State) (k : Nat) : Nat := s.natAt k 4

/-- The decoded tile `t` of a compressed region of a comb; none for an invalid stream (R228). -/
def State.zTile (s : State) (c : Comb) (k t : Nat) : Option (List Byte) :=
  let n := s.zTiles k
  let r := bdzRange n (s.natAt (k + 8 + 4 * t) 4)
  if n ≤ t || c.spOff + c.scratch < keyAddr k % 2 ^ 20 + r.1 + r.2 then none else bdzBytes (s.bytesAt (k + r.1) r.2)

/-- Logical bytes of a compressed region within one tile. -/
def State.zBytes (s : State) (c : Comb) (k off n : Nat) : Option (List Byte) :=
  (s.zTile c k (off / 4096)).map fun b => (b.drop (off % 4096)).take n

/-- An operand of the engine in the comb's window: plain, or a compressed region with its `p` lines' sidecars behind
their payloads (R253, R254). -/
def State.operand (s : State) (c : Comb) (t : Fmt) (blk rows p : Nat) (comp : Bool) (k : Nat) : Panel :=
  { t := t, blk := blk, rows := rows
    line := fun l =>
      if comp then
        match s.zBytes c k (128 * l) 128, (if blk = 0 then some [] else s.zBytes c k (128 * p + 32 * l) 32) with
        | some d, some x => some (d, x)
        | _, _ => none
      else some (s.bytesAt (k + 128 * l) 128, s.sideAt (k + 128 * l)) }

/-! ### Tiles (R252) -/

/-- What naming a tile leads to. -/
inductive BindRes where
  | ok (s : State)
  /-- no tile may be spilled now: the naming instruction waits -/
  | wait
  /-- the spill's page cannot be allocated: trap 0x0C -/
  | fail
deriving DecidableEq, Repr, Inhabited

/-- A latch's members in the order of GIDX (R249). -/
def GangLatch.inOrder (l : GangLatch) : List (Nat × Nat) := (List.range 16).filterMap fun g => l.members.find? fun m => m.1 == g

/-- Whether every member that GANG names has issued into a latch (R249). -/
def GangLatch.complete (l : GangLatch) : Bool :=
  (if l.gang == 0 then 1 else ((List.range 16).filter fun i => l.gang.getLsbD i).length) ≤ l.inOrder.length

/-- Tiles that a queue entry names, by comb and number. -/
def entryTiles (q : QEntry) : List (Nat × Nat) :=
  let d := match q.form.dst with | .acc n => [(q.comb, n.toNat)] | _ => []
  let a := match q.form.s0 with | .acc n => [(q.comb, n.toNat)] | _ => []
  d ++ a

namespace State

def modTile (s : State) (comb n : Nat) (f : Tile → Tile) : State :=
  s.modComb comb fun c => { c with tiles := c.tiles.map fun t => if t.num == n then f t else t }

def tile? (s : State) (comb n : Nat) : Option Tile := (s.comb? comb).bind fun c => c.tiles.find? fun t => t.num == n

/-- Physical tiles of a core in use. -/
def tilesUsed (s : State) (core : Nat) : Nat :=
  ((s.combs.filter fun c => c.core == core).map fun c => (c.tiles.filter fun t => t.spill.isNone).length).sum

/-- The tile to spill for a comb: of another comb of the core, named by no queued entry, least recently used. -/
def victim (s : State) (core comb : Nat) : Option (Nat × Tile) :=
  let named := (s.coh.mq.map entryTiles).flatten
  let ts := ((s.combs.filter fun c => c.core == core && c.id != comb).map fun c =>
    ((c.tiles.filter fun t => t.spill.isNone && !named.contains (c.id, t.num)).map fun t => (c.id, t))).flatten
  ts.foldl (fun b x => match b with
    | none => some x
    | some y => if x.2.used < y.2.used then some x else some y) none

/-- Spills a tile of another comb of a core to a page of that comb's context. -/
def spillTile (s : State) (core comb : Nat) : BindRes :=
  match s.victim core comb with
  | none => .wait
  | some (id, t) =>
    let launch := ((s.comb? id).map fun x => x.launch).getD 0
    match s.poolPage ((s.launch? launch).map (fun l => l.ctx) |>.getD 0) (s.originHive launch) with
    | none => .fail
    | some (p, s) => .ok (s.modTile id t.num fun t => { t with spill := some p })

/-- Makes room for one physical tile on a core. -/
def roomForTile (s : State) (c : Comb) : BindRes :=
  if s.tilesUsed c.core < 16 then .ok s else s.spillTile c.core c.id

/-- Makes room on its core for the physical tiles that a saved comb brings back, spilling up to `fuel` tiles (R172, R252). -/
def roomForTiles (s : State) (c : Comb) : Nat → Option State
  | 0 => none
  | fuel + 1 =>
    if s.tilesUsed c.core + (c.tiles.filter fun t => t.spill.isNone).length ≤ 16 then some s
    else match s.spillTile c.core c.id with
      | .ok s => s.roomForTiles c fuel
      | _ => none

/-- Binds the tile that an instruction names, or reloads it (R252). -/
def bindTile (s : State) (comb n : Nat) : BindRes :=
  match s.comb? comb with
  | none => .ok s
  | some c =>
    match c.tiles.find? fun t => t.num == n with
    | some t =>
      match t.spill with
      | none => .ok (s.modTile comb n fun t => { t with used := s.clk.cycle })
      | some p =>
        match s.roomForTile c with
        | .ok s => .ok (((s.freePagesOf [p]).modCtx (s.ctxOf c) fun x => { x with poolused := x.poolused - 1 }).modTile comb n
            fun t => { t with used := s.clk.cycle, spill := none })
        | r => r
    | none =>
      match s.roomForTile c with
      | .ok s => .ok (s.modComb comb fun c => { c with tiles := { zeroTile n false with used := s.clk.cycle } :: c.tiles })
      | r => r

/-- Binds several tiles. -/
def bindTiles (s : State) (comb : Nat) : List Nat → BindRes
  | [] => .ok s
  | n :: ns => match s.bindTile comb n with
    | .ok s => s.bindTiles comb ns
    | r => r

/-- Releases a binding (R252). -/
def freeTile (s : State) (comb n : Nat) : State :=
  match s.comb? comb with
  | none => s
  | some c =>
    let pages := (c.tiles.filter fun t => t.num == n).filterMap fun t => t.spill
    ((s.freePagesOf pages).modCtx (s.ctxOf c) fun x => { x with poolused := x.poolused - BitVec.ofNat 32 pages.length }).modComb
      comb fun c => { c with tiles := c.tiles.filter fun t => t.num != n }

/-- The tile's contents as the engine finds them: a name that no tile is bound to holds +0. -/
def tileOf (s : State) (comb n : Nat) : Tile := (s.tile? comb n).getD (zeroTile n false)

/-- Stores a tile's contents. -/
def putTile (s : State) (comb : Nat) (t : Tile) : State :=
  s.modComb comb fun c =>
    if c.tiles.any fun x => x.num == t.num then
      { c with tiles := c.tiles.map fun x => if x.num == t.num then { t with used := s.clk.cycle, spill := x.spill } else x }
    else { c with tiles := { t with used := s.clk.cycle } :: c.tiles }

/-- Releases a binding in queue order (R252): a tile that a later entry of the queue names is bound again at once, to the
physical tile that the release frees, and holds +0; acc.free binds no tile (R262). -/
def releaseTile (s : State) (q : QEntry) (n : Nat) : State :=
  if s.coh.mq.any fun x => x != q && x.op != .accFree && (entryTiles x).contains (q.comb, n) then s.putTile q.comb (zeroTile n false)
  else s.freeTile q.comb n

/-- Whether a core's matrix engine queue is full (R251). -/
def queueFull (s : State) (core : Nat) : Bool := 16 ≤ (s.coh.mq.filter fun q => q.core == core).length

/-- Enters an entry into the queue. -/
def enqueue (s : State) (q : QEntry) : State := { s with coh := { s.coh with mq := s.coh.mq ++ [q] } }

/-! ### Rendezvous checks -/

/-- The outcome of the rendezvous checks of a gang instruction. -/
inductive Rdv where
  | ok (keys : List (Nat × Nat))
  | trap (code : Nat) (info : Option W64)
  /-- a page of the range at an address is not present -/
  | absent (va : Nat)
deriving DecidableEq, Repr, Inhabited

/-- Types, block forms and K of an mma (R255). -/
def mmaA (f : Form) : Fmt := (Fmt.ofCode (f.immBits 0 5)).getD .e4m3
def mmaB (f : Form) : Fmt := (Fmt.ofCode (f.immBits 5 5)).getD .e4m3
def mmaK (f : Form) : Nat := 32 * (f.immBits 17 11 + 1)

/-- Whether an operand of mma lies in the window (R255). -/
def operandOk (s : State) (c : Comb) (t : Fmt) (k : Nat) (comp : Bool) (base : Nat) : Bool :=
  if comp then
    base % 32 == 0 && (match s.windowKey c base 8 with
      | some h => (s.windowKey c base (8 + 4 * s.zTiles h)).isSome
      | none => false)
  else base % 128 == 0 && (s.windowKey c base (128 * panelLines t 64 k)).isSome

/-- Fields of an mmv (R259). -/
def mmvV (f : Form) : Fmt := (Fmt.ofCode (f.immBits 0 5)).getD .bf16
def mmvW (f : Form) : Fmt := (Fmt.ofCode (f.immBits 7 5)).getD .e4m3
def mmvK (f : Form) : Nat := 32 * (f.immBits 15 11 + 1)
def mmvM (f : Form) : Nat := f.immBits 26 6 + 1

/-- Bytes of an mmv's weights (R259). -/
def mmvBytes (f : Form) : Nat := 128 * mmvM f * panelLines (mmvW f) 1 (mmvK f)

/-- Translates the pages of a weight range (R259): its pieces, a fatal fault, or a page that the pager must bring. The
fuel counts pages. -/
def weightKeys (s : State) (x core : Nat) : Nat → Nat → Nat → Rdv
  | 0, _, _ => .ok []
  | fuel + 1, va, n =>
    if n = 0 then .ok []
    else if 2 ^ 56 ≤ va then .trap 0x10 (some (BitVec.ofNat 64 va))
    else
      let k := min n (65536 - va % 65536)
      let r := if (s.inAperture x va).isSome || (s.inStack x va).isSome then
          s.xlate x core (BitVec.ofNat 64 va) .read else s.xlateTable x core va .read
      match r with
      | .fault code => .trap code (some (BitVec.ofNat 64 va))
      | .absent => .absent va
      | .ok tt kk =>
        if tt != 0 then .trap 0x11 (some (BitVec.ofNat 64 va))
        else match s.weightKeys x core fuel (va + k) (n - k) with
          | .ok l => .ok ((kk, k) :: l)
          | r => r

/-- The rendezvous checks of mmv (R259). -/
def mmvCheck (s : State) (c : Comb) (f : Form) (ops : List W64) : Rdv :=
  let v := (getAt ops 0).toNat
  let w := (getAt ops 1).toNat
  let d := (getAt ops 2).toNat
  if !(v % 128 == 0 && (s.windowKey c v (128 * panelLines (mmvV f) 1 (mmvK f))).isSome)
      || (f.mod && !(d % 4 == 0 && (s.windowKey c d (4 * mmvM f)).isSome)) then .trap 0x06 none
  else if w % 128 != 0 then .trap 0x11 (some (getAt ops 1))
  else
    match s.weightKeys (s.ctxOf c) c.core (mmvBytes f / 65536 + 2) w (mmvBytes f) with
    | .ok l =>
      if l.any fun p => towerOf p.1 != towerOf ((l.headD (0, 0)).1) then .trap 0x11 (some (getAt ops 1)) else .ok l
    | r => r

/-- Fields of a drain (R266). -/
def drainT (f : Form) : Fmt := (Fmt.ofCode (f.immBits 0 5)).getD .f32

/-- The program of a drain, or the INFO of its trap (R266). -/
def drainProg (c : Comb) (f : Form) : List Epi ⊕ Nat :=
  epiProgram (f.immBits 10 6) (((List.range 64).map fun i => getAt c.eprog i).drop (f.immBits 10 6))

/-- The rendezvous checks of drain (R266). -/
def drainCheck (s : State) (c : Comb) (f : Form) (ops : List W64) : Rdv :=
  match drainProg c f with
  | .inr n => .trap 0x01 (some (BitVec.ofNat 64 n))
  | .inl es =>
    let d := (getAt ops 0).toNat
    let p := (getAt ops 1).toNat
    let ks := epiVectors es
    if !(d % 128 == 0 && (s.windowKey c d (128 * panelLines (drainT f) 64 64)).isSome)
        || !(ks.isEmpty || p % 256 == 0) || !(ks.all fun k => (s.windowKey c (p + 256 * k) 256).isSome) then .trap 0x06 none
    else .ok []

/-- The rendezvous checks of a gang instruction. -/
def gangCheck (s : State) (c : Comb) (o : Op) (f : Form) (ops : List W64) : Rdv :=
  match o with
  | .mma =>
    if s.operandOk c (mmaA f) (mmaK f) (f.imm.getLsbD 14) (getAt ops 0).toNat
        && s.operandOk c (mmaB f) (mmaK f) (f.imm.getLsbD 15) (getAt ops 1).toNat then .ok [] else .trap 0x06 none
  | .mmv => s.mmvCheck c f ops
  | _ => s.drainCheck c f ops

/-- Tiles that a gang instruction names. -/
def gangTiles (f : Form) : List Nat :=
  (match f.dst with | .acc n => [n.toNat] | _ => []) ++ (match f.s0 with | .acc n => [n.toNat] | _ => [])

/-! ### When the engine may read (R257) -/

/-- The byte ranges of virtual addresses that a gang instruction reads or writes (R255, R259, R266). -/
def engineRanges (c : Comb) (q : QEntry) : List (Nat × Nat) :=
  let f := q.form
  let at_ := fun (i : Nat) => (getAt q.ops i).toNat
  let side := fun (i lines : Nat) (comp : Bool) => (at_ i, if comp then c.spBase.toNat + c.scratch - at_ i else 128 * lines)
  match q.op with
  | .mma => [side 0 (panelLines (mmaA f) 64 (mmaK f)) (f.imm.getLsbD 14), side 1 (panelLines (mmaB f) 64 (mmaK f)) (f.imm.getLsbD 15)]
  | .mmv => [side 0 (panelLines (mmvV f) 1 (mmvK f)) false, (at_ 1, mmvBytes f)] ++ if f.mod then [(at_ 2, 4 * mmvM f)] else []
  | .drain =>
    let ks := match drainProg c f with | .inl es => epiVectors es | .inr _ => []
    side 0 (panelLines (drainT f) 64 64) false :: ks.map fun k => (at_ 1 + 256 * k, 256)
  | _ => []

/-- The range of keys in the window that an entry writes. -/
def engineTarget (s : State) (c : Comb) (q : QEntry) : Option (Nat × Nat) :=
  match q.op with
  | .mmv => if q.form.mod then (s.windowKey c (getAt q.ops 2).toNat 4).map fun k => (k, 4 * mmvM q.form) else none
  | .drain => (s.windowKey c (getAt q.ops 0).toNat 128).map fun k => (k, 128 * panelLines (drainT q.form) 64 64)
  | _ => none

/-- Whether the engine may take up an entry: every store that a member issued before it has been performed at the window's
banks, an mmv's also at the weight lines; and no older acquire or access of a member holds it back (R257, R261, R295,
R298). -/
def engineReady (s : State) (c : Comb) (q : QEntry) : Bool :=
  let touches := fun (k : Nat) => keyRegion k == 2 || keyRegion k == 3 || q.keys.any fun p => p.1 ≤ k && k < p.1 + p.2
  q.fids.all fun fid =>
    match s.flight? fid with
    | none => true
    | some f =>
      (f.accs.all fun a => a.val.isSome)
        && !((s.olderEntries f.comb f.group f.ord).any fun e => !isWindow e && (entryBytes e).any fun d => touches d.1)
        && !(s.flights.any fun x => x.comb == f.comb && x.group == f.group && x.ord.before f.ord
          && x.stores.any fun y => y.tt != 5 && y.tt != 6 && (y.data ++ y.side).any fun d => touches d.1)
        && !((engineRanges c q).any fun r => s.heldBack f.comb f.group f.ord r.1 r.2)
        && !((s.engineTarget c q).any fun r => s.accessAhead f.comb f.group f.ord r.1 r.2 false)

/-! ### Gangs (R249, R250) -/

/-- Whether the rendezvous checks wait for what they read: drain's program, for an epld of the comb in the queue (R263), and
the headers of an mma's compressed operands, for the members' older stores and acquires (R255, R257, R295)
(DEDUCED, log 131). -/
def gangWaits (s : State) (c : Comb) (o : Op) (f : Form) (ops : List W64) (fids : List Nat) : Bool :=
  match o with
  | .drain => s.coh.mq.any fun q => q.comb == c.id && q.op == .epld
  | .mma => (f.imm.getLsbD 14 || f.imm.getLsbD 15)
      && !s.engineReady c { core := c.core, comb := c.id, op := o, form := f, fids := fids, ops := ops }
  | _ => false

/-- The path of a member's flight. -/
def memberRef (s : State) (comb : Nat) (m : Nat × Nat) : PathRef :=
  { comb := comb, group := m.1, path := ((s.flight? m.2).map fun f => f.path).getD 0 }

/-- Every member of a latch takes a trap at its gang instruction, and the latch empties (R249, R250). -/
def failGang (s : State) (comb : Nat) (l : GangLatch) (code : Nat) (info : Option W64) : State :=
  let refs := l.members.map fun m => s.memberRef comb m
  let fids := l.members.map fun m => m.2
  let s : State := { s with flights := s.flights.filter fun f => !fids.contains f.fid }
  let s := s.modComb comb fun c => { c with gangs := c.gangs.filter fun x => x != l }
  refs.foldl (fun s r =>
    match s.path? r with
    | none => s
    | some p => (s.modPath r fun p => { p with wait := .run, endAfter := false }).takeTrap r
        { code := code, lanes := p.exm, info := info.getD 0, open_ := info.isNone }) s

/-- A member goes on after its gang instruction; without its bundle's line, once that is there (R95, R249). -/
def proceed (s : State) (r : PathRef) (fid asid core : Nat) : State :=
  let setf := (s.flight? fid).bind fun f => f.setf
  let s := s.modPath r fun p => { p with wait := .run, pend := match setf with | some i => (i, fid) :: p.pend | none => p.pend }
  match s.path? r with
  | none => s
  | some p =>
    if p.endAfter then s.reachEnd r
    else match s.bundleAt core asid p.pc with
      | some b => s.goAfter r b p.slot
      | none => s.modPath r fun p => { p with goOn := true, arrived := false }

/-- Completes the rendezvous of a latch when every member has issued, its checks have passed, its tile is bound and the
queue has room (R249, R251, R252). -/
def rendezvous (s : State) (comb : Nat) (l : GangLatch) : State :=
  match s.comb? comb with
  | none => s
  | some c =>
    let ms := l.inOrder
    match ms with
    | [] => s
    | m0 :: _ =>
      match s.flight? m0.2 with
      | none => s
      | some f0 =>
        if !l.complete || s.queueFull c.core || s.gangWaits c l.op l.form f0.ops (ms.map fun m => m.2) then s
        else
          match s.gangCheck c l.op l.form f0.ops with
          | .absent _ => s
          | .trap code info => s.failGang comb l code info
          | .ok keys =>
            match s.bindTiles comb (gangTiles l.form) with
            | .wait => s
            | .fail => s.failGang comb l 0x0C none
            | .ok s =>
              let g := (c.group? m0.1).getD {}
              let s := s.modComb comb fun c => { c with gangs := c.gangs.filter fun x => x != l }
              let s := s.enqueue { core := c.core, comb := comb, op := l.op, form := l.form, fids := ms.map fun m => m.2,
                                   ops := f0.ops, seed := g.seed, frm := f0.frm, satf := f0.satf, keys := keys }
              let asid := s.asid (s.ctxOf c)
              ms.foldl (fun s m => s.proceed (s.memberRef comb m) m.2 asid c.core) s

/-- Latches of a core's combs whose rendezvous may be complete are looked at again (R251). -/
def retryGangs (s : State) (core : Nat) : State :=
  ((s.combs.filter fun c => c.core == core).map fun c => c.gangs.map fun l => (c.id, l)).flatten.foldl
    (fun s x => s.rendezvous x.1 x.2) s

end State

/-- A gang instruction issues into its latch (R249, R250); with EXM zero it has no effect (R159). -/
def gangPlan (e : Env) (o : Op) (f : Form) (srcs : List Src) : Plan :=
  match e.check (srcs.map fun x => (x, { uniform := true })) f.dst {} with
  | some t => .trap t
  | none =>
    if e.active f.pred == 0 then .go (e.issue (e.flight o f))
    else if e.p.kind != .main || e.g.dual.isSome then .trap { code := 0x08, lanes := e.p.exm, open_ := true }
    else
      let fl := { e.flight o f with fin := .engine, ops := srcs.map fun x => e.uni f x }
      let s : State := { e.s.bump with flights := e.s.flights ++ [fl] }
      let s := s.loseOthers e.core e.gslot e.ref
      let s := s.modPath e.ref fun p =>
        { p with lastIssue := some e.s.clk.cycle, unchosen := 0, boosted := false, slot := e.k, wait := .gang
                 endAfter := e.b.fin && e.b.lastValid e.k }
      let m := (e.g.gidx, fl.fid)
      match (if e.g.gang == 0 then none else e.c.gangs.find? fun l => l.gang == e.g.gang) with
      | some l =>
        let l2 := { l with members := l.members ++ [m] }
        let s := s.modComb e.c.id fun c => { c with gangs := c.gangs.map fun x => if x == l then l2 else x }
        .go (if l.op == o && l.form == f then s.rendezvous e.c.id l2 else s.failGang e.c.id l2 0x08 none)
      | none =>
        let l : GangLatch := { gang := e.g.gang, op := o, form := f, members := [m], since := e.s.clk.cycle }
        .go ((s.modComb e.c.id fun c => { c with gangs := c.gangs ++ [l] }).rendezvous e.c.id l)

/-- mma (R255). -/
def execMma (f : Form) (s : State) : Out State := runIsa .mma f s fun e => gangPlan e .mma f [f.s0, f.s1]

/-- mmv (R259). -/
def execMmv (f : Form) (s : State) : Out State := runIsa .mmv f s fun e => gangPlan e .mmv f [f.s0, f.s1, f.s2]

/-- drain (R266). -/
def execDrain (f : Form) (s : State) : Out State := runIsa .drain f s fun e => gangPlan e .drain f [f.s1, f.s2]

/-! ### acc and epld (R262, R263) -/

/-- acc and epld enter the queue at issue (R251). `names` are the tiles that they bind; `ops` their operand values. -/
def enginePlan (e : Env) (o : Op) (f : Form) (names : List Nat) (ops : List W64) (accs : List Acc := []) : Plan :=
  if e.s.queueFull e.core then .stall
  else
    match e.s.bindTiles e.c.id names with
    | .wait => .stall
    | .fail => .trap { code := 0x0C, lanes := e.active f.pred, open_ := true }
    | .ok s =>
      let fl := { e.flight o f with fin := .engine, ops := ops, accs := accs }
      .go (({ e with s := s }.issue fl).enqueue
        { core := e.core, comb := e.c.id, op := o, form := f, fids := [fl.fid], ops := ops, seed := e.g.seed, frm := e.g.frm })

/-- An acc (R262): no effect when no lane is active (R104). -/
def accPlan (e : Env) (o : Op) (f : Form) (srcs : List (Src × Env.Need)) (names : List Nat) (ops : List W64) : Plan :=
  match e.check srcs f.dst {} with
  | some t => .trap t
  | none => if e.active f.pred == 0 then .go (e.issue (e.flight o f)) else enginePlan e o f names ops

/-- The tile that a destination or a source names. -/
def dstTile (f : Form) : Nat := match f.dst with | .acc n => n.toNat | _ => 0
def srcTile (f : Form) : Nat := match f.s0 with | .acc n => n.toNat | _ => 0

/-- acc.zero (R262). -/
def execAccZero (f : Form) (s : State) : Out State := runIsa .accZero f s fun e => accPlan e .accZero f [] [dstTile f] []

/-- acc.free (R262): naming the tile does not bind it. -/
def execAccFree (f : Form) (s : State) : Out State := runIsa .accFree f s fun e => accPlan e .accFree f [] [] []

/-- acc.copy (R262). -/
def execAccCopy (f : Form) (s : State) : Out State :=
  runIsa .accCopy f s fun e => accPlan e .accCopy f [] [dstTile f, srcTile f] []

/-- acc.add (R262). -/
def execAccAdd (f : Form) (s : State) : Out State :=
  runIsa .accAdd f s fun e => accPlan e .accAdd f [] [dstTile f, srcTile f] []

/-- acc.rdr (R262): the operands are the row and half, and the destination's number. -/
def execAccRdr (f : Form) (s : State) : Out State :=
  runIsa .accRdr f s fun e => accPlan e .accRdr f [(f.s1, { uniform := true })] [srcTile f]
    [e.uni f f.s1, BitVec.ofNat 64 ((e.dstNum f.dst).getD 0)]

/-- acc.rdc (R262). -/
def execAccRdc (f : Form) (s : State) : Out State :=
  runIsa .accRdc f s fun e => accPlan e .accRdc f [(f.s1, { uniform := true })] [srcTile f]
    [e.uni f f.s1, BitVec.ofNat 64 ((e.dstNum f.dst).getD 0)]

/-- acc.wrr (R262): the operands are the row and half, and the lanes' values. -/
def execAccWrr (f : Form) (s : State) : Out State :=
  runIsa .accWrr f s fun e => accPlan e .accWrr f [(f.s0, { vecLatch := true }), (f.s1, { uniform := true })] [dstTile f]
    (e.uni f f.s1 :: allLanes.map fun l => e.val f f.s0 l)

/-- epld (R263): the words are read as a uniform load; the entries are written at the head of the queue. -/
def execEpld (f : Form) (s : State) : Out State :=
  runIsa .epld f s fun e =>
    match e.check [(f.s0, { uniform := true })] f.dst {} with
    | some t => .trap t
    | none =>
      let act := e.active f.pred
      if act == 0 then .go (e.issue (e.flight .epld f))
      else
        let vas := (List.range (f.immBits 6 6 + 1)).map fun i => (i, e.uni f f.s0 + BitVec.ofNat 64 (4 * i))
        match e.windowTrap vas (some act) with
        | some t => .trap t
        | none =>
          let (ps, fs0) := e.resolveAll 4 .read ttLoad vas
          let fs := e.spreadFaults f true fs0
          (e.noteAll ps fs).withFaults fs act fun e =>
            if e.active f.pred == 0 then .go (e.issue (e.flight .epld f))
            else enginePlan e .epld f [] [] (ps.map fun p => Env.accsOf .load 4 p 0 0).flatten

/-! ### The engine (R251, R257) -/

namespace State

/-- The aligned 8-byte units of `n` bytes from a key on (R216). -/
def plainUnits (k n : Nat) : List (List Nat) := (List.range ((n + 7) / 8)).map fun i => (List.range 8).map fun j => k + 8 * i + j

/-- The units in which a line of a matrix is read: the blocks of a scaled line with their scales and μ bytes (R84), else
aligned 8 bytes (R216). -/
def lineUnits (t : Fmt) (blk k : Nat) : List (List Nat) :=
  if blk = 0 then plainUnits k 128
  else (List.range (lineElems t / 16)).map fun b =>
    (List.range (2 * t.bits)).map (fun i => k + 2 * t.bits * b + i) ++ [sideKey k b, sideKey k (16 + b)]

/-- The units of a compressed region: its header, its offset table and its streams (R227). -/
def zUnits (s : State) (k : Nat) : List (List Nat) :=
  let n := s.zTiles k
  plainUnits k (8 + 4 * n) ++ ((List.range n).map fun t =>
    let r := bdzRange n (s.natAt (k + 8 + 4 * t) 4)
    plainUnits (k + r.1) r.2).flatten

/-- The units that an entry reads before it computes (R255, R259, R266). -/
def engineUnits (s : State) (c : Comb) (q : QEntry) : List (List Nat) :=
  let f := q.form
  let at_ := fun (i : Nat) => (s.windowKey c (getAt q.ops i).toNat 4).getD 0
  let operand := fun (i : Nat) (t : Fmt) (blk lines : Nat) (comp : Bool) =>
    if comp then s.zUnits (at_ i) else ((List.range lines).map fun l => lineUnits t blk (at_ i + 128 * l)).flatten
  match q.op with
  | .mma => operand 0 (mmaA f) (f.immBits 10 2) (panelLines (mmaA f) 64 (mmaK f)) (f.imm.getLsbD 14)
      ++ operand 1 (mmaB f) (f.immBits 12 2) (panelLines (mmaB f) 64 (mmaK f)) (f.imm.getLsbD 15)
  | .mmv => operand 0 (mmvV f) (f.immBits 5 2) (panelLines (mmvV f) 1 (mmvK f)) false
      ++ ((unreadLines q).map fun k => lineUnits (mmvW f) (f.immBits 12 2) k).flatten
      ++ if f.mod && !f.imm.getLsbD 14 then (List.range (mmvM f)).map fun i => (List.range 4).map fun j => at_ 2 + 4 * i + j else []
  | .drain =>
    let ks := match drainProg c f with | .inl es => (epiVectors es).eraseDups | .inr _ => []
    (ks.map fun k => plainUnits (at_ 1 + 256 * k) 256).flatten
  | _ => []

/-- What an entry does: the state with the tiles changed, the line writes to perform, the flags, and a lane result. -/
structure EngineRes where
  s     : State
  cells : List (List (Nat × Byte)) := []
  fl    : Fl := {}
  v     : Option VReg := none

/-- The operands of a queued mma. -/
def mmaPanels (s : State) (c : Comb) (q : QEntry) : Panel × Panel :=
  let f := q.form
  let k := mmaK f
  let ka := (s.windowKey c (getAt q.ops 0).toNat 8).getD 0
  let kb := (s.windowKey c (getAt q.ops 1).toNat 8).getD 0
  (s.operand c (mmaA f) (f.immBits 10 2) 64 (panelLines (mmaA f) 64 k) (f.imm.getLsbD 14) ka,
   s.operand c (mmaB f) (f.immBits 12 2) 64 (panelLines (mmaB f) 64 k) (f.imm.getLsbD 15) kb)

/-- Runs an mma from its recorded k-step to k-step `to_` (R255, R258). -/
def mmaRun (s : State) (c : Comb) (q : QEntry) (to_ : Nat) : EngineRes :=
  let f := q.form
  let n := dstTile f
  let isInt := f.immBits 0 5 == 0 && f.immBits 5 5 == 0 && f.immBits 10 2 == 0
  let t0 := s.tileOf c.id n
  let start := if q.kdone != 0 then (t0, ({} : Fl)) else if f.imm.getLsbD 16 then (zeroTile n isInt, {}) else convTile t0 isInt
  let ps := (s.withRead q.got).mmaPanels c q
  let r := mmaSteps ps.1 ps.2 start.1 q.kdone to_
  let b := if to_ = mmaK f / 32 then mmaBad ps.1 ps.2 (mmaK f) r.1 else (r.1, {})
  { s := s.putTile c.id b.1, fl := (start.2.or r.2).or b.2 }

/-- The line of a weight range. -/
def weightLine (s : State) (keys : List (Nat × Nat)) (n : Nat) : Option (List Byte × List Byte) :=
  match keys with
  | [] => none
  | (k, len) :: r =>
    if 128 * n < len then
      (if s.uncorrectable (k + 128 * n) then none else some (s.bytesAt (k + 128 * n) 128, s.sideAt (k + 128 * n)))
    else s.weightLine r (n - len / 128)

/-- The key of a line of a weight range. -/
def weightAt (keys : List (Nat × Nat)) (n : Nat) : Nat :=
  match keys with
  | [] => 0
  | (k, len) :: r => if 128 * n < len then k + 128 * n else weightAt r (n - len / 128)

/-- The results of a matrix-vector product (R260) for weights at some keys. -/
def mvRows (s : State) (v : Panel) (tw : Fmt) (bw k m : Nat) (keys : List (Nat × Nat)) : List (Nat × Fl) :=
  let t := towerOf (weightAt keys 0)
  let w : Panel := { t := tw, blk := bw, rows := 1, line := fun l => s.weightLine keys l }
  (List.range m).map fun i => mvRow v w i k fun l => channelOf (getAt s.dev.retired t) (keyAddr (weightAt keys l) % 2 ^ 36)

/-- mmv in the engine (R259, R260). -/
def mmvRun (s : State) (c : Comb) (q : QEntry) : EngineRes :=
  let f := q.form
  let kv := (s.windowKey c (getAt q.ops 0).toNat 8).getD 0
  let read := s.withRead q.got
  let v := read.operand c (mmvV f) (f.immBits 5 2) 1 0 false kv
  let ys := read.mvRows v (mmvW f) (f.immBits 12 2) (mmvK f) (mmvM f) q.keys
  let za := f.imm.getLsbD 14
  let fly := Fl.all (ys.map fun y => y.2)
  let put := fun (old : Nat) (i : Nat) => if za then ((getAt (ys.map fun y => y.1) i), ({} : Fl)) else addF32 old (getAt (ys.map fun y => y.1) i)
  if f.mod then
    match s.windowKey c (getAt q.ops 2).toNat 4 with
    | none => { s := s }
    | some kd =>
      let rs := (List.range (mmvM f)).map fun i => put (read.natAt (kd + 4 * i) 4) i
      let cells := (List.range (mmvM f)).map fun i => cellsFrom (kd + 4 * i) (leBytes 4 (getAt (rs.map fun r => r.1) i))
      { s := s, cells := cells, fl := fly.or (Fl.all (rs.map fun r => r.2)) }
  else
    let t0 := convTile (s.tileOf c.id (dstTile f)) false
    let col := (getAt q.ops 2).toNat % 64
    let rs := (List.range (mmvM f)).map fun i => put (getAt t0.1.el (64 * i + col)).toNat i
    let el := (List.range (mmvM f)).foldl (fun el i => setAt el (64 * i + col) (BitVec.ofNat 32 (getAt (rs.map fun r => r.1) i))) t0.1.el
    { s := s.putTile c.id { t0.1 with el := el }, fl := (t0.2.or fly).or (Fl.all (rs.map fun r => r.2)) }

/-- drain in the engine (R266). -/
def drainRun (s : State) (c : Comb) (q : QEntry) : EngineRes :=
  let f := q.form
  let n := srcTile f
  let t := s.tileOf c.id n
  match drainProg c f, s.windowKey c (getAt q.ops 0).toNat 128 with
  | .inl es, some kd =>
    let p := (getAt q.ops 1).toNat
    let at_ := fun (k i : Nat) => match s.windowKey c (p + 256 * k + 4 * i) 4 with
      | some a => decodeNum .f32 ((s.withRead q.got).natAt a 4)
      | none => .nan false
    let one := fun (i j : Nat) =>
      let w := getAt t.el (64 * i + j)
      let e0 := if t.isInt then toF32 (Num.ofInt w.toInt) else (w.toNat, {})
      epiRun (fun k => at_ k j) (fun k => at_ k i) es (epiStart (decodeNum .f32 e0.1) []) e0.2
    let ys := (List.range 4096).map fun x => one (x / 64) (x % 64)
    let rm := f.immBits 7 3
    let rnd : Rnd := { mode := if rm = 7 then q.frm.toNat else rm, satf := q.satf, seed := q.seed }
    let out := panelWrite (drainT f) (f.immBits 5 2) rnd 64 64 (fun i j => (getAt (ys.map fun y => y.1) (64 * i + j)))
      fun i j => 64 * i + j
    let cells := (List.range out.1.length).map fun l =>
      let x := getAt out.1 l
      cellsFrom (kd + 128 * l) x.1 ++ cellsFrom (sideKey (kd + 128 * l) 0) x.2
    { s := if f.imm.getLsbD 16 then s.releaseTile q n else s, cells := cells, fl := (Fl.all (ys.map fun y => y.2)).or out.2 }
  | _, _ => { s := s }

/-- One half row or column of a tile (R262). -/
def tileLanes (t : Tile) (s : W64) (col : Bool) : VReg :=
  let n := s.toNat / 2 % 64
  let h := s.toNat % 2
  vreg fun l => getAt t.el (if col then 64 * (32 * h + l) + n else 64 * n + 32 * h + l)

/-- An acc or epld at the head of the queue (R262, R263). -/
def accRun (s : State) (c : Comb) (q : QEntry) : EngineRes :=
  let f := q.form
  let d := s.tileOf c.id (dstTile f)
  let a := s.tileOf c.id (srcTile f)
  match q.op with
  | .accZero => { s := s.putTile c.id (zeroTile (dstTile f) false) }
  | .accFree => { s := s.releaseTile q (dstTile f) }
  | .accCopy => { s := s.putTile c.id { d with isInt := a.isInt, el := a.el } }
  | .accAdd =>
    let x := convTile a d.isInt
    let rs := (List.range 4096).map fun i =>
      if d.isInt then ((getAt d.el i + getAt x.1.el i).toNat, ({} : Fl)) else addF32 (getAt d.el i).toNat (getAt x.1.el i).toNat
    { s := s.putTile c.id { d with el := rs.map fun r => BitVec.ofNat 32 r.1 }, fl := x.2.or (Fl.all (rs.map fun r => r.2)) }
  | .accRdr => { s := s, v := some (tileLanes a (getAt q.ops 0) false) }
  | .accRdc => { s := s, v := some (tileLanes a (getAt q.ops 0) true) }
  | .accWrr =>
    let w := (getAt q.ops 0).toNat
    let act := ((s.flight? (q.fids.headD 0)).map fun f => f.lanes).getD 0
    let el := (lanesOf act).foldl (fun el l =>
      setAt el (64 * (w / 2 % 64) + 32 * (w % 2) + l) ((getAt q.ops (l + 1)).setWidth 32)) d.el
    { s := s.putTile c.id { d with el := el } }
  | .epld =>
    let ws := ((s.flight? (q.fids.headD 0)).map fun f => f.accs).getD []
    let first := f.immBits 0 6
    { s := s.modComb c.id fun c => { c with eprog := ws.foldl (fun p a =>
        setAt p (first + a.lane) (BitVec.ofNat 32 (a.val.getD 0))) c.eprog } }
  | _ => { s := s }

/-- What an entry does (R251). -/
def engineRun (s : State) (c : Comb) (q : QEntry) : EngineRes :=
  match q.op with
  | .mma => s.mmaRun c q (mmaK q.form / 32)
  | .mmv => s.mmvRun c q
  | .drain => s.drainRun c q
  | _ => s.accRun c q

/-- The flight of a member once the engine has performed its entry: all members complete in one cycle (R246), which the model
counts as the second after this move (DESIGN CHOICE, log 134). -/
def engineDone (f : Flight) (cycle : Nat) (nf : BitVec 7) (v : Option VReg) : Flight :=
  let f := { f with fin := .regs, due := cycle + 2, nf := f.nf ||| nf }
  match v with
  | none => f
  | some v =>
    let v := vreg fun l => if lane f.lanes l then vlane v l else 0
    { f with
      writes := if f.form.nwb then [] else [.v (getAt f.ops 1).toNat f.lanes v]
      latch := if f.form.dst.isVec then some (.vec v) else none }

/-- Whether an entry's read of a weight line waits: for an older bank command of a member in the line's queue (R245, R299), or
for the line to be rebuilt (R329). -/
def weightHeld (s : State) (q : QEntry) (k : Nat) : Bool :=
  s.isStale (lineKey k) || (keyRegion k == 0 && q.fids.any fun fid => match s.flight? fid with
    | some f => s.bankAhead f.comb f.group f.ord (s.queueOf k)
    | none => false)

/-- Changes the entry at the head of a core's queue. -/
def modHead (s : State) (q : QEntry) (f : QEntry → QEntry) : State :=
  { s with coh := { s.coh with mq := s.coh.mq.map fun x => if x == q then f x else x } }

/-- An entry is done: it leaves the queue, its members' flights complete, and waiting rendezvous are looked at again (R251). -/
def engineEnd (s : State) (core : Nat) (q : QEntry) (nf : BitVec 7) (v : Option VReg) : State :=
  let s : State := { s with coh := { s.coh with mq := s.coh.mq.erase q } }
  (q.fids.foldl (fun s fid => s.modFlight fid fun f => engineDone f s.clk.cycle nf v) s).retryGangs core

/-- The entry computes from the bytes it has read: tiles change at once, line writes follow one by one. -/
def engineCompute (s : State) (core : Nat) (c : Comb) (q : QEntry) : State :=
  let r := s.engineRun c q
  if r.cells.isEmpty then r.s.engineEnd core q r.fl.bits r.v
  else r.s.modHead q fun x => { x with out := some (r.cells, r.fl.bits, r.v) }

/-- MATRIX_QUEUE_ADVANCE (R251): the engine goes on with the entry at the head of a core's queue: it takes it up, reads a
unit of its operands, computes, or performs one of its line writes (R257, R288). Which unit or write comes next is free
(log 1). -/
def matrixAdvance (s : State) (core : Nat) : State :=
  match s.coh.mq.find? fun q => q.core == core with
  | none => s
  | some q =>
    match s.comb? q.comb with
    | none => s
    | some c =>
      match q.out, q.todo with
      | some (ws, nf, v), _ =>
        let w := (ws[Config.freePick s.clk.free % (max ws.length 1)]?).getD []
        let s := s.spend.perform w
        if (ws.erase w).isEmpty then s.engineEnd core q nf v else s.modHead q fun x => { x with out := some (ws.erase w, nf, v) }
      | none, none =>
        if !s.engineReady c q then s
        else if (s.engineUnits c q).isEmpty then s.engineCompute core c q
        else s.modHead q fun x => { x with todo := some (s.engineUnits c q) }
      | none, some [] => s.engineCompute core c q
      | none, some us =>
        let u := (us[Config.freePick s.clk.free % us.length]?).getD []
        if (u.map lineKey).eraseDups.any fun k => s.weightHeld q k then s.spend
        else s.spend.modHead q fun x => { x with todo := some (us.erase u), got := u.map (fun k => (k, s.byteAt k)) ++ x.got }

end State

/-- MATRIX_QUEUE_ADVANCE (R251). -/
def execMatrixQueueAdvance (core : Nat) (s : State) : Out State := .next (s.matrixAdvance core)

/-- Whether 65,536 cycles have passed since the first issue into an incomplete latch (R250). -/
def GangLatch.expired (l : GangLatch) (now : Nat) : Bool :=
  !l.complete && l.since + 65536 ≤ now

/-- GANG_TIMEOUT (R250): 65,536 cycles after the first issue into an incomplete latch. -/
def execGangTimeout (comb : Nat) (gang : W16) (s : State) : Out State :=
  match (s.comb? comb).bind fun c => c.gangs.find? fun l => l.gang == gang with
  | none => .next s
  | some l => .next (if l.expired s.clk.cycle then s.failGang comb l 0x09 none else s)

end Sys2Proof.Machine
end

