-- ==== Sys2Proof/Machine/Complete.lean ====
section
/-! DEFINITION. INSTRUCTION_COMPLETE (R93): when a flight completes, what it writes (R107, R108, R218, R221), how its
flags and its stores go on (R72, R214, R291, R310), and what its writes mean to an unresolved fork (R314). -/

namespace Sys2Proof.Machine

/-! ### Results -/

/-- The bytes that a lane's accesses returned, as a number. -/
def laneValue (accs : List Acc) (l : Nat) : Nat :=
  leNat ((accs.filter fun a => a.lane == l).map fun a => leBytes a.size (a.val.getD 0)).flatten

/-- A loaded value of 1 or 2 bytes is extended to `w` bits; a wider one is zero-extended (R218). -/
def extendTo (ty : Ty) (sx : Bool) (w v : Nat) : Nat :=
  if sx && 2 ^ (ty.bits - 1) ≤ v && ty.bits ≤ 16 then v + 2 ^ w - 2 ^ ty.bits else v

/-- The writes and the latch of a load or atomic (R218, R231, R108). -/
def loadedWrites (fl : Flight) (dst : Dst) (num : Nat) (ty : Ty) (sx : Bool) : List RegWrite × Option Latch :=
  let v := fun (l : Nat) => laneValue fl.accs l
  let act := maskOf fun i => fl.accs.any fun a => a.lane == i
  let reg := fun (i : Nat) => vreg fun l => if lane act l then BitVec.ofNat 32 (extendTo ty sx 32 (v l) / 2 ^ (32 * i)) else 0
  match dst with
  | .scal n =>
    match fl.accs with
    | [] => ([], none)
    | a :: _ =>
      let w := BitVec.ofNat 64 (extendTo ty sx 64 (v a.lane))
      (if fl.form.nwb then [] else [.s n.toNat w], some (.scal w))
  | .vec _ =>
    (if fl.form.nwb then [] else (List.range (Ty.span ty)).map fun i => .v (num + i) act (reg i), some (.vec (reg 0)))
  | .vecAt _ => ((List.range (Ty.span ty)).map fun i => .v (num + i) act (reg i), none)
  | _ => ([], none)

/-- The payload and sidecar bytes of a scaled line that its blocks' accesses returned (R221). -/
def lineFrom (fl : Flight) : List Byte × List Byte :=
  let data := (fl.accs.map fun a => leBytes a.size (a.val.getD 0)).flatten
  let sides := (fl.accs.map fun a => (a.side.map fun k => keyAddr k % 32).zip (leBytes a.side.length (a.val.getD 0 / 256 ^ a.size))).flatten
  (data ++ List.replicate (128 - data.length) 0,
   (List.range 32).map fun j => ((sides.find? fun x => x.1 == j).map fun x => x.2).getD 0)

/-- The writes, the latch and the flags of ldsc (R221). -/
def scaledWrites (fl : Flight) (num : Nat) (t : Fmt) (mx : Bool) : List RegWrite × Option Latch × Fl :=
  let act := if fl.accs.isEmpty then 0 else fl.lanes
  let line := lineFrom fl
  let bs := lineBlocks t line.1 line.2
  let got := allLanes.map fun l => if lane act l then loadLane t mx bs l else {}
  let pair := fun (l : Nat) => if lane act l then blockPair t (getAt got l) else (0, 0)
  let lo := vreg fun l => (pair l).1
  let hi := vreg fun l => (pair l).2
  (if fl.form.nwb then [] else [.v num act lo, .v (num + 1) act hi],
   match fl.form.dst with | .vec _ => some (.vec lo) | _ => none,
   Fl.all ((lanesOf act).map fun l => (getAt got l).fl))

/-- Everything that a flight writes, its latch and its flags. -/
def resultOf (fl : Flight) : List RegWrite × Option Latch × BitVec 7 :=
  match fl.fin with
  | .loaded dst num ty sx =>
    let r := loadedWrites fl dst num ty sx
    (fl.writes ++ r.1, (match r.2 with | some x => some x | none => fl.latch), fl.nf)
  | .scaled num t mx =>
    let r := scaledWrites fl num t mx
    (r.1, r.2.1, fl.nf ||| (Fl.bits r.2.2))
  | _ => (fl.writes, fl.latch, fl.nf)

/-- The flags of a flight lane by lane, where its result is made so. -/
def laneFlags (fl : Flight) : List (BitVec 7) :=
  match fl.fin with
  | .scaled _ t mx =>
    let line := lineFrom fl
    let bs := lineBlocks t line.1 line.2
    allLanes.map fun l => if lane fl.lanes l && !fl.accs.isEmpty then (loadLane t mx bs l).fl.bits else 0
  | _ => fl.nfl

/-- Puts a register write into a group (R107). -/
def Group.write (g : Group) (w : RegWrite) : Group :=
  match w with
  | .s n v => { g with s := setAt g.s n v }
  | .x k v => { g with x := setAt g.x k v }
  | .q n m v => { g with q := setAt g.q n ((getAt g.q n &&& ~~~m) ||| (v &&& m)) }
  | .v n m v => { g with v := setAt g.v n (vreg fun i => if lane m i then vlane v i else vlane (getAt g.v n) i) }
  | _ => g

/-- The register lanes that a write of a continuation covers (R309). -/
def oversOf : RegWrite → List Over
  | .s n v => [{ file := 1, num := n, lane := 0, val := v }]
  | .x k v => [{ file := 2, num := k, lane := 0, val := v.setWidth 64 }]
  | .q n m v => (lanesOf m).map fun i => { file := 3, num := n, lane := i, val := if lane v i then 1 else 0 }
  | .v n m v => (lanesOf m).map fun i => { file := 0, num := n, lane := i, val := (vlane v i).setWidth 64 }
  | _ => []

/-- A continuation's write is kept beside the registers until its fork resolves (R309). -/
def Fork.write (k : Fork) (w : RegWrite) : Fork :=
  let os := oversOf w
  { k with wrote := os ++ k.wrote.filter fun o => !os.any fun x => x.file == o.file && x.num == o.num && x.lane == o.lane }

/-- Whether a register write goes to a register that a continuation owns (R304), or to one that R314 names. -/
def hurtsFork (half : Nat) : RegWrite → Bool
  | .s n _ => n < 32
  | .x k _ => k < 2
  | .q n _ _ => n < 4
  | .v n _ _ => n < half
  | .sreg r _ => [SReg.part, .prio, .gang, .seed, .nf, .fmode, .trapvec].contains r
  | .bind _ _ => false

/-- Whether a path continues the stream of an instruction (R289). -/
def Path.follows (p : Path) (sid : Nat) : Bool := p.sid == sid || p.past.any fun x => x.1 == sid

/-- A flag of a completed flight is done in every path (R93). -/
def Path.doneFlag (fid : Nat) (p : Path) : Path :=
  { p with pend := p.pend.filter fun x => x.2 != fid
           cstack := p.cstack.map fun e => { e with pend := e.pend.filter fun x => x.2 != fid } }

namespace State

/-! ### When it completes -/

/-- A flight whose cycle has come and that has nothing left to do elsewhere. -/
def ripe (s : State) (f : Flight) : Bool :=
  f.due ≤ s.clk.cycle + 1 && f.fin != .engine && f.sync.isNone && f.rcn.isEmpty && f.accs.all fun a => a.val.isSome

/-- Whether a flight writes NF: its write applies before the flags of its cycle (R72). -/
def writesNf (f : Flight) : Bool := f.writes.any fun w => match w with | .sreg .nf _ => true | _ => false

/-- Entries of the binding table that a flight writes. -/
def bindsOf (f : Flight) : List Nat := f.writes.filterMap fun w => match w with | .bind e _ => some e | _ => none

/-- Of two flights that complete in one cycle, whether the first completes first: a write of NF before the others, then
the earlier-issued (R72, R107); of binds to one entry that of the lower group index (R240) (DEDUCED, log 100). -/
def completesBefore (a b : Flight) : Bool :=
  a.comb == b.comb
    && (if a.group == b.group then (writesNf a && !writesNf b) || (writesNf a == writesNf b && a.fid < b.fid)
      else a.group < b.group && (bindsOf a).any fun e => (bindsOf b).contains e)

/-- Whether a flight may complete now. -/
def completable (s : State) (f : Flight) : Bool :=
  s.ripe f && !s.flights.any fun x => x.fid != f.fid && s.ripe x && completesBefore x f

/-! ### Completing -/

/-- Applies one register write of a flight that is not a continuation's. -/
def applyWrite (s : State) (f : Flight) (w : RegWrite) : State :=
  let r : PathRef := { comb := f.comb, group := f.group, path := f.path }
  match w with
  | .sreg reg v =>
    let own := match s.path? r with | some p => p.follows f.ord.sid | none => false
    if reg == .exm && !own then s else writeSpecial s r reg v
  | .bind e b => s.modComb f.comb fun c => { c with binds := setAt c.binds e b }
  | w => s.modGroup f.comb f.group fun g => g.write w

/-- Applies the writes of a flight: a continuation's go beside the registers; a callee's squash the forks whose
continuation owns what they write (R309, R314). -/
def applyWrites (s : State) (f : Flight) (ws : List RegWrite) : State :=
  match f.cont with
  | some k => s.modGroup f.comb f.group fun g => g.modFork k fun k => ws.foldl (fun k w => k.write w) k
  | none =>
    let s := ws.foldl (fun s w => s.applyWrite f w) s
    let half := ((s.comb? f.comb).map fun c => c.regs / 2).getD 0
    if ws.any (hurtsFork half) then
      let hurt := fun (k : Fork) => if ofCallee k f.ord then { k with squash := true } else k
      s.modGroup f.comb f.group fun g => { g with forks := g.forks.map hurt }
    else s

/-- Writes the latch of a flight's slot, unless its path lost its latches since the issue (R108, R109). -/
def applyLatch (s : State) (f : Flight) (l : Option Latch) : State :=
  match l with
  | none => s
  | some x => s.modPath { comb := f.comb, group := f.group, path := f.path } fun p =>
      if p.epoch == f.epoch && p.follows f.ord.sid then { p with latches := setAt p.latches f.slot x } else p

/-- ORs a flight's flags into NF; a continuation's are held, lane by lane where they are made so (R72, R315). -/
def applyFlags (s : State) (f : Flight) (nf : BitVec 7) (nfl : List (BitVec 7)) : State :=
  s.modGroup f.comb f.group fun g =>
    match f.cont with
    | some k => g.modFork k fun k =>
        if nfl.isEmpty then { k with nf := k.nf ||| nf }
        else { k with nfl := allLanes.map fun i => getAt k.nfl i ||| getAt nfl i }
    | none => { g with nf := g.nf ||| nf }

/-- After a store or an acquire of the callee: a continuation whose loads, taken as performed at commit, would now read
another byte than they did is squashed (R303, R316) (DEDUCED, log 44). `p` picks the bytes concerned. -/
def squashSeen (s : State) (core comb group : Nat) (o : Order) (p : Nat → Bool) : State :=
  let now := fun (k : Fork) (a : Nat) => s.readByte core comb group o (some { k with specSB := [] }) a
  let one := fun (k : Fork) => if ofCallee k o && k.seen.any (fun d => p d.1 && now k d.1 != d.2) then { k with squash := true } else k
  s.modGroup comb group fun g => { g with forks := g.forks.map one }

/-- The bytes that some stores write in memory. -/
def storesTo (es : List SpecEntry) (k : Nat) : Bool := es.any fun x => x.tt != 5 && x.tt != 6 && (x.data ++ x.side).any fun d => d.1 == k

/-- The acquire of a region by a flight (R295). A continuation that has read other bytes of the region than a load would now
is squashed: under the ordinary call it would read after the acquire (R303, R316) (DEDUCED, log 44). -/
def acquireFor (s : State) (c : Comb) (f : Flight) (scope : Nat) (r : List (Nat × Nat)) : State :=
  if r.isEmpty then s
  else
    (s.acquire (s.ctxOf c) c.core scope r).squashSeen c.core f.comb f.group f.ord fun k =>
      s.lineIn (s.ctxOf c) c.core (lineKey k) r

/-- The acquire of every line by a flight (R297, R303). -/
def acquireAllFor (s : State) (c : Comb) (f : Flight) (scope : Nat) : State :=
  (s.acquireAll c.core scope).squashSeen c.core f.comb f.group f.ord fun _ => true

/-- The Buffer move (R291): a store's entries enter the store buffer, or a continuation's speculative one (R310). -/
def bufferStores (s : State) (f : Flight) : State :=
  if f.fin != .store then s
  else match f.cont with
    | some k => s.modGroup f.comb f.group fun g => g.modFork k fun k => { k with specSB := k.specSB ++ f.stores }
    | none =>
      match s.comb? f.comb with
      | none => s
      | some c =>
        let x := s.ctxOf c
        (f.stores.foldl (fun (s : State) st =>
          { s.bump with coh := { s.coh with sb := s.coh.sb ++
              [{ eid := s.clk.serial, core := c.core, launch := c.launch, comb := c.id, group := f.group, fid := f.fid,
                 ctx := x, asid := s.asid x, ord := st.ord, va := st.va, tt := st.tt, data := st.data, side := st.side,
                 reps := st.reps, frm := f.frm, satf := f.satf, after := f.cmds }] } })
          s).squashSeen c.core f.comb f.group f.ord (storesTo f.stores)

/-- Completes a flight (R93). -/
def complete (s : State) (f : Flight) : State :=
  let r := resultOf f
  let s := s.applyWrites f r.1
  let s := s.applyLatch f r.2.1
  let s := s.applyFlags f r.2.2 (laneFlags f)
  let s := s.bufferStores f
  let s : State := { s with flights := s.flights.filter fun x => x.fid != f.fid }
  let s := s.modGroup f.comb f.group fun g => { g with paths := g.paths.map (Path.doneFlag f.fid) }
  s.settle f.comb

end State

/-- INSTRUCTION_COMPLETE (R93). -/
def execInstructionComplete (fid : Nat) (s : State) : Out State :=
  match s.flight? fid with
  | none => .next s
  | some f => .next (if s.completable f then s.complete f else s)

end Sys2Proof.Machine
end

