-- ==== Sys2Proof/Machine/Scalar.lean ====
section
/-! DEFINITION. The scalar family, OPC 0x10 to 0x1B (R141 to R143). -/

namespace Sys2Proof.Machine

/-- The width of TY, 64 for the nameless type (R141). -/
def Ty.width (t : Ty) : Nat := if t.bits == 0 then 64 else t.bits

/-- A value read at TY's width and signedness (R141). -/
def Ty.read (t : Ty) (x : W64) : Int :=
  let n := x.toNat % 2 ^ Ty.width t
  if t.signed && 2 ^ (Ty.width t - 1) ≤ n then (n : Int) - 2 ^ Ty.width t else n

/-- A result modulo 2^w, extended to 64 bits by TY's signedness (R141). -/
def Ty.wrap (t : Ty) (v : Int) : W64 :=
  let n := (v % (2 ^ Ty.width t : Nat)).toNat
  if t.signed && 2 ^ (Ty.width t - 1) ≤ n then BitVec.ofInt 64 ((n : Int) - 2 ^ Ty.width t) else BitVec.ofNat 64 n

/-- TY's range. -/
def Ty.lo (t : Ty) : Int := if t.signed then -(2 ^ (Ty.width t - 1) : Nat) else 0
def Ty.hi (t : Ty) : Int := if t.signed then (2 ^ (Ty.width t - 1) : Nat) - 1 else (2 ^ Ty.width t : Nat) - 1

/-- Clamps to TY's range; SA when it changed the value (R142, R181). -/
def Ty.clamp (t : Ty) (v : Int) : Int × Fl :=
  if v < Ty.lo t then (Ty.lo t, { sa := true }) else if Ty.hi t < v then (Ty.hi t, { sa := true }) else (v, {})

/-- Leading zeros of a w-bit number. -/
def clzN (w n : Nat) : Nat := ((List.range w).takeWhile fun i => !n.testBit (w - 1 - i)).length
/-- Trailing zeros of a w-bit number. -/
def ctzN (w n : Nat) : Nat := ((List.range w).takeWhile fun i => !n.testBit i).length
/-- Bit reversal of a w-bit number. -/
def brevN (w n : Nat) : Nat := (List.range w).foldl (fun a i => if n.testBit i then a + 2 ^ (w - 1 - i) else a) 0

/-- sbit and bit (R142, R181): 0 popc, 1 clz, 2 ctz, 3 brev. -/
def bitOp (sub w n : Nat) : Nat :=
  match sub with
  | 0 => popCount w n
  | 1 => clzN w n
  | 2 => ctzN w n
  | _ => brevN w n

/-- slog and log (R142, R181): 0 and, 1 or, 2 xor, 3 andn, 4 orn, 5 xnor. -/
def logicOp (sub : Nat) (a b : W64) : W64 :=
  match sub with
  | 0 => a &&& b
  | 1 => a ||| b
  | 2 => a ^^^ b
  | 3 => a &&& ~~~b
  | 4 => a ||| ~~~b
  | _ => ~~~(a ^^^ b)

/-- Shifts and rotates of a w-bit number by b mod w (R142, R181): 0 shl, 1 shr, 2 sar, 3 rol, 4 ror. -/
def shiftOp (sub w a b : Nat) : Nat :=
  let n := b % w
  match sub with
  | 0 => a * 2 ^ n % 2 ^ w
  | 1 => a / 2 ^ n
  | 2 => a / 2 ^ n + (if a.testBit (w - 1) then 2 ^ w - 2 ^ (w - n) else 0)
  | 3 => a * 2 ^ n % 2 ^ w + a / 2 ^ (w - n)
  | _ => a / 2 ^ n + a * 2 ^ (w - n) % 2 ^ w

/-- Comparisons (R142, R181): 0 eq, 1 ne, 2 lt, 3 le, 4 gt, 5 ge. -/
def relOp (sub : Nat) (a b : Int) : Bool :=
  match sub with
  | 0 => a == b
  | 1 => a != b
  | 2 => decide (a < b)
  | 3 => decide (a ≤ b)
  | 4 => decide (b < a)
  | _ => decide (b ≤ a)

/-- A scalar operand's needs: uniform (R110, R141). -/
def uniNeed : Env.Need := { uniform := true }

/-- The skeleton of R141: operands read uniformly, one result `v`, and no effect when no lane is active (R104). -/
def scalarPlan (e : Env) (o : Op) (f : Form) (srcs : List Src) (lat : Nat) (op : W64 → W64 → W64 → W64 × Fl) : Plan :=
  e.regPlan o f (srcs.map fun x => (x, uniNeed)) {} (e.after lat) fun _ =>
    let act := e.active f.pred
    if act == 0 then ([], none, {})
    else
      let r := op (e.uni f f.s0) (e.uni f f.s1) (e.uni f f.s2)
      let w := e.outS f act r.1
      (w.1, w.2, r.2)

/-- sadd (R142). -/
def execSadd (f : Form) (s : State) : Out State :=
  runIsa .sadd f s fun e => scalarPlan e .sadd f [f.s0, f.s1] 2 fun a b _ =>
    let v := Ty.read f.ty a + Ty.read f.ty b
    if f.sub == 1 then (Ty.wrap f.ty (Ty.clamp f.ty v).1, (Ty.clamp f.ty v).2) else (Ty.wrap f.ty v, {})

/-- ssub (R142). -/
def execSsub (f : Form) (s : State) : Out State :=
  runIsa .ssub f s fun e => scalarPlan e .ssub f [f.s0, f.s1] 2 fun a b _ =>
    let v := Ty.read f.ty a - Ty.read f.ty b
    if f.sub == 1 then (Ty.wrap f.ty (Ty.clamp f.ty v).1, (Ty.clamp f.ty v).2) else (Ty.wrap f.ty v, {})

/-- smul (R142): SUB 1 (hi) is the floor of the product divided by 2^w. -/
def execSmul (f : Form) (s : State) : Out State :=
  runIsa .smul f s fun e => scalarPlan e .smul f [f.s0, f.s1] 4 fun a b _ =>
    let v := Ty.read f.ty a * Ty.read f.ty b
    (Ty.wrap f.ty (if f.sub == 1 then v / (2 ^ Ty.width f.ty : Nat) else v), {})

/-- smad (R142). -/
def execSmad (f : Form) (s : State) : Out State :=
  runIsa .smad f s fun e => scalarPlan e .smad f [f.s0, f.s1, f.s2] 4 fun a b c =>
    (Ty.wrap f.ty (Ty.read f.ty a * Ty.read f.ty b + Ty.read f.ty c), {})

/-- slog (R142). -/
def execSlog (f : Form) (s : State) : Out State :=
  runIsa .slog f s fun e => scalarPlan e .slog f [f.s0, f.s1] 2 fun a b _ => (logicOp f.sub.toNat a b, {})

/-- sshf (R142). -/
def execSshf (f : Form) (s : State) : Out State :=
  runIsa .sshf f s fun e => scalarPlan e .sshf f [f.s0, f.s1] 2 fun a b _ =>
    let w := Ty.width f.ty
    (BitVec.ofNat 64 (shiftOp f.sub.toNat w (a.toNat % 2 ^ w) (b.toNat % 2 ^ w)), {})

/-- scmp (R142). -/
def execScmp (f : Form) (s : State) : Out State :=
  runIsa .scmp f s fun e => scalarPlan e .scmp f [f.s0, f.s1] 2 fun a b _ =>
    (if relOp f.sub.toNat (Ty.read f.ty a) (Ty.read f.ty b) then 1 else 0, {})

/-- ssel (R142). -/
def execSsel (f : Form) (s : State) : Out State :=
  runIsa .ssel f s fun e => scalarPlan e .ssel f [f.s0, f.s1, f.s2] 2 fun a b c => (if c == 0 then b else a, {})

/-- smov (R142). -/
def execSmov (f : Form) (s : State) : Out State :=
  runIsa .smov f s fun e => scalarPlan e .smov f [f.s0] 2 fun a _ _ => (a, {})

/-- sadr (R143): a scaled index added to a register, or to the bundle's own address. -/
def execSadr (f : Form) (s : State) : Out State :=
  runIsa .sadr f s fun e => scalarPlan e .sadr f (if f.variant == 0 then [f.s0, f.s1] else [f.s1]) 2 fun a b _ =>
    ((if f.variant == 0 then a else BitVec.ofNat 64 e.p.pc) + b * BitVec.ofNat 64 (2 ^ f.rm), {})

/-- sbit (R142). -/
def execSbit (f : Form) (s : State) : Out State :=
  runIsa .sbit f s fun e => scalarPlan e .sbit f [f.s0] 2 fun a _ _ =>
    let w := Ty.width f.ty
    (BitVec.ofNat 64 (bitOp f.sub.toNat w (a.toNat % 2 ^ w)), {})

/-- smm (R142): 0 min, 1 max. -/
def execSmm (f : Form) (s : State) : Out State :=
  runIsa .smm f s fun e => scalarPlan e .smm f [f.s0, f.s1] 2 fun a b _ =>
    let x := Ty.read f.ty a
    let y := Ty.read f.ty b
    (Ty.wrap f.ty (if f.sub == 0 then (if x ≤ y then x else y) else (if x ≤ y then y else x)), {})

end Sys2Proof.Machine
end

