-- ==== Sys2Proof/Machine/Lane.lean ====
section
/-! DEFINITION. The lane integer family, OPC 0x20 to 0x2C (R174 to R182). -/

namespace Sys2Proof.Machine

/-- A lane operand's needs for a type: a pair for 64-bit types, at an even number (R174). -/
def tyNeed (t : Ty) : Env.Need := { span := Ty.span t, mult := Ty.span t }

/-- The plan of an instruction that works in active lanes: with none, nothing changes (R176). -/
def lanePlan (e : Env) (o : Op) (f : Form) (srcs : List (Src × Env.Need)) (dn : Env.Need) (due : Nat)
    (res : Lanes → List RegWrite × Option Latch × Fl) (cross : Bool := false)
    (more : List (List (Src × Env.Need) × Lanes) := []) : Plan :=
  let act := e.active f.pred
  let fl := if e.isCont && !cross then allLanes.map fun i => if lane act i then (res (laneBit i)).2.2.bits else 0 else []
  e.regPlan o f srcs dn due (fun _ => if act == 0 then ([], none, {}) else res act) cross fl more

namespace Env

/-- Whether a source gives each lane its own bits; other sources give every element one value (R175). -/
def lanewise (e : Env) (s : Src) : Bool :=
  match s with
  | .vec _ | .vecAt _ => true
  | .latch k => (match e.latch k.toNat with | .vec _ => true | _ => false)
  | _ => false

/-- Element `i` of `w` bits of a source in a lane (R174, R175). -/
def elem (e : Env) (f : Form) (s : Src) (w l i : Nat) : Nat :=
  let x := (if w = 64 then e.val2 f s l else e.val f s l).toNat
  if e.lanewise s then x / 2 ^ (w * i) % 2 ^ w else x % 2 ^ w

/-- Results of one or more consecutive registers from the destination on (R108, R174): the latch takes the lowest. -/
def outRegs (e : Env) (f : Form) (act : Lanes) (rs : List (Nat → W32)) : List RegWrite × Option Latch :=
  match e.dstNum f.dst with
  | none => ([], none)
  | some n =>
    let vs := rs.map fun r => vreg fun i => if lane act i then r i else 0
    (if f.nwb then [] else (List.range vs.length).map fun j => .v (n + j) act (getAt vs j),
      match f.dst with | .vec _ => some (.vec (getAt vs 0)) | _ => none)

end Env

/-- Elements of a lane (R174). -/
def laneCount (w : Nat) : Nat := if w = 64 then 1 else 32 / w

/-- An element read as a number. -/
def asInt (signed : Bool) (w x : Nat) : Int := if signed && 2 ^ (w - 1) ≤ x then (x : Int) - 2 ^ w else x

/-- A lane's elements packed into 64 bits (R174). -/
def packLane (w : Nat) (g : Nat → Nat) : W64 :=
  BitVec.ofNat 64 ((List.range (laneCount w)).foldl (fun a i => a + g i % 2 ^ w * 2 ^ (w * i)) 0)

/-- The plan of R180: `w`-bit elements, `op` on the element codes of a, b and c. -/
def elemPlan (e : Env) (o : Op) (f : Form) (n w : Nat) (lat : Nat) (op : Nat → Nat → Nat → Nat × Fl) : Plan :=
  let need := tyNeed f.ty
  let srcs := ([f.s0, f.s1, f.s2].take n).map fun s => (s, need)
  lanePlan e o f srcs need (e.after lat) fun act =>
    let r := fun (l i : Nat) => op (e.elem f f.s0 w l i) (if 2 ≤ n then e.elem f f.s1 w l i else 0)
      (if 3 ≤ n then e.elem f f.s2 w l i else 0)
    let fl := Fl.all ((lanesOf act).map fun l => Fl.all ((List.range (laneCount w)).map fun i => (r l i).2))
    let out := if w = 64 then e.out64 f act fun l => packLane w fun i => (r l i).1
      else e.out32 f act fun l => (packLane w fun i => (r l i).1).setWidth 32
    (out.1, out.2, fl)

/-- Width of a lane integer instruction's elements: 32 for TY 0 (R180). -/
def laneWidth (t : Ty) : Nat := if t.bits == 0 then 32 else t.bits

/-- The plan of an integer operation with an exact result that wraps, or is clamped when `sat` (R180). -/
def intPlan (e : Env) (o : Op) (f : Form) (n : Nat) (lat : Nat) (sat : Bool) (op : Int → Int → Int → Int) : Plan :=
  let w := laneWidth f.ty
  let rd := asInt f.ty.signed w
  elemPlan e o f n w lat fun a b c =>
    let x := op (rd a) (rd b) (rd c)
    if sat then (intCode w (Ty.clamp f.ty x).1, (Ty.clamp f.ty x).2) else (intCode w x, {})

/-- add (R181). -/
def execAdd (f : Form) (s : State) : Out State := runIsa .add f s fun e => intPlan e .add f 2 2 (f.sub == 1) fun a b _ => a + b
/-- sub (R181). -/
def execSub (f : Form) (s : State) : Out State := runIsa .sub f s fun e => intPlan e .sub f 2 2 (f.sub == 1) fun a b _ => a - b
/-- mul (R181): hi is the floor of the product divided by 2^w. -/
def execMul (f : Form) (s : State) : Out State :=
  runIsa .mul f s fun e => intPlan e .mul f 2 4 false fun a b _ =>
    if f.sub == 1 then a * b / (2 ^ laneWidth f.ty : Nat) else a * b
/-- mad (R181). -/
def execMad (f : Form) (s : State) : Out State :=
  runIsa .mad f s fun e => intPlan e .mad f 3 4 (f.sub == 1) fun a b c => a * b + c
/-- log (R181), on 32 bits. -/
def execLog (f : Form) (s : State) : Out State :=
  runIsa .log f s fun e => elemPlan e .log f 2 32 2 fun a b _ =>
    ((logicOp f.sub.toNat (BitVec.ofNat 64 a) (BitVec.ofNat 64 b)).toNat % 2 ^ 32, {})
/-- shf (R181). -/
def execShf (f : Form) (s : State) : Out State :=
  runIsa .shf f s fun e => elemPlan e .shf f 2 (laneWidth f.ty) 2 fun a b _ => (shiftOp f.sub.toNat (laneWidth f.ty) a b, {})

/-- cmp (R181): one 32-bit register or a predicate, even for 64-bit types. -/
def execCmp (f : Form) (s : State) : Out State :=
  runIsa .cmp f s fun e =>
    let need := tyNeed f.ty
    let w := laneWidth f.ty
    lanePlan e .cmp f [(f.s0, need), (f.s1, need)] {} (e.after 2) fun act =>
      let rd := fun (x : Src) (l : Nat) => asInt f.ty.signed w (e.elem f x w l 0)
      let out := e.out32 f act fun l => if relOp f.sub.toNat (rd f.s0 l) (rd f.s1 l) then 1 else 0
      (out.1, out.2, {})

/-- sel (R181). -/
def execSel (f : Form) (s : State) : Out State :=
  runIsa .sel f s fun e => elemPlan e .sel f 3 32 2 fun a b c => (if c = 0 then b else a, {})
/-- mov (R181). -/
def execMov (f : Form) (s : State) : Out State := runIsa .mov f s fun e => elemPlan e .mov f 1 32 2 fun a _ _ => (a, {})
/-- mm (R181). -/
def execMm (f : Form) (s : State) : Out State :=
  runIsa .mm f s fun e => intPlan e .mm f 2 2 false fun a b _ =>
    if f.sub == 0 then (if a ≤ b then a else b) else (if a ≤ b then b else a)
/-- bit (R181). -/
def execBit (f : Form) (s : State) : Out State :=
  runIsa .bit f s fun e => elemPlan e .bit f 1 (laneWidth f.ty) 2 fun a _ _ => (bitOp f.sub.toNat (laneWidth f.ty) a, {})

/-- dot4 (R181): four products of 8-bit elements added to a 32-bit c. -/
def execDot4 (f : Form) (s : State) : Out State :=
  runIsa .dot4 f s fun e => lanePlan e .dot4 f [(f.s0, {}), (f.s1, {}), (f.s2, {})] {} (e.after 4) fun act =>
    let sg := f.ty.signed
    let t : Ty := if sg then .i32 else .n32
    let x := fun (l : Nat) =>
      asInt sg 32 (e.elem f f.s2 32 l 0)
        + ((List.range 4).map fun j => asInt sg 8 (e.elem f f.s0 8 l j) * asInt sg 8 (e.elem f f.s1 8 l j)).sum
    let out := e.out32 f act fun l => BitVec.ofNat 32 (intCode 32 (if f.sub == 1 then (Ty.clamp t (x l)).1 else x l))
    (out.1, out.2, if f.sub == 1 then Fl.all ((lanesOf act).map fun l => (Ty.clamp t (x l)).2) else {})

/-! ### movx (R182) -/

/-- The register that each lane of a movx names: N + idx(L). -/
def movxReg (e : Env) (f : Form) (base l : Nat) : Nat := base + (e.val f f.s1 l).toNat % 2 ^ 32

/-- The trap of R182 for the lowest active lane whose register is out of bounds. -/
def movxTrap (e : Env) (f : Form) (base : Nat) (act : Lanes) : Option Trap :=
  match (lanesOf act).find? fun l => e.c.regs ≤ movxReg e f base l with
  | some l => some { code := 0x05, lanes := e.p.exm, info := BitVec.ofNat 64 (movxReg e f base l) }
  | none => none

/-- movx.ld (R182). -/
def execMovxLd (f : Form) (s : State) : Out State :=
  runIsa .movxLd f s fun e =>
    let act := e.active f.pred
    let base := (e.srcNum f.s0).getD 0
    match e.check [(f.s0, {}), (f.s1, {})] f.dst {} with
    | some t => .trap t
    | none =>
      match movxTrap e f base act with
      | some t => .trap t
      | none =>
        let out := if act == 0 then ([], none) else e.out32 f act fun l => vlane (e.vget (movxReg e f base l)) l
        let regs : List (Src × Env.Need) := (lanesOf act).map fun l => (.vec (BitVec.ofNat 8 (movxReg e f base l)), {})
        let srcs := (f.s1, {}) :: (match f.s0 with | .vecAt k => (.idx k, {}) :: regs | _ => regs)
        if e.contStalls srcs out.1 then .stall
        else .go (e.contMarks [(f.s1, {})] out.1 act false
          (e.issue { e.flight .movxLd f with due := e.after 4, writes := out.1, latch := out.2 })
          ((lanesOf act).map fun l => ([(.vec (BitVec.ofNat 8 (movxReg e f base l)), {})], laneBit l)))

/-- movx.st (R182): each active lane writes its own slice of the register it names. -/
def execMovxSt (f : Form) (s : State) : Out State :=
  runIsa .movxSt f s fun e =>
    let act := e.active f.pred
    let base := (e.dstNum f.dst).getD 0
    match e.check [(f.s0, {}), (f.s1, {})] f.dst {} with
    | some t => .trap t
    | none =>
      match movxTrap e f base act with
      | some t => .trap t
      | none =>
        let a := vreg fun l => if lane act l then (e.val f f.s0 l).setWidth 32 else 0
        let regs := ((lanesOf act).map fun l => movxReg e f base l).eraseDups
        let ws : List RegWrite := regs.map fun r => .v r (maskOf fun l => lane act l && movxReg e f base l == r) a
        if e.contStalls [(f.s0, {}), (f.s1, {})] ws then .stall
        else .go (e.contMarks [(f.s0, {}), (f.s1, {})] ws act false
          (e.issue { e.flight .movxSt f with
            due := e.after 4, writes := ws
            latch := if act == 0 then none else (match f.dst with | .vec _ => some (.vec a) | _ => none) }))

end Sys2Proof.Machine
end

