-- ==== Sys2Proof/Machine/Float.lean ====
section
/-! DEFINITION. The lane floating-point family, OPC 0x30 to 0x37 (R183 to R187). -/

namespace Sys2Proof.Machine

/-- The element type that a floating-point TY names (R114). -/
def fmtOf (t : Ty) : Fmt :=
  match t with
  | .f16 => .f16
  | .bf16 => .bf16
  | _ => .f32

/-- The rounding of an instruction: RM, with DYN read from FMODE; SATF and SEED of the group (R63, R65, R73). -/
def Env.rnd (e : Env) (rm : Nat) : Rnd :=
  { mode := if rm == 7 then e.g.frm.toNat else rm, satf := e.g.satf, seed := e.g.seed }

/-- The code of element `i` of a floating-point source in a lane; an f32 immediate of a 16-bit instruction is converted
by RNE, under the group's SATF, without a flag (R66, R73, R103, R175). -/
def Env.fcode (e : Env) (f : Form) (s : Src) (t : Fmt) (l i : Nat) : Nat :=
  match s with
  | .immF => if t == .f32 then f.imm.toNat else (roundTo (decodeNum .f32 f.imm.toNat) t { satf := e.g.satf } 0).1
  | _ => e.elem f s t.bits l i

/-- A lane operation on element codes, with flags; one 32-bit register per operand. `op` takes the draw's index. -/
def floatPlan (e : Env) (o : Op) (f : Form) (n lat : Nat) (op : Fmt → Nat → Nat → Nat → Nat → Nat × Fl) : Plan :=
  let t := fmtOf f.ty
  lanePlan e o f (([f.s0, f.s1, f.s2].take n).map fun s => (s, {})) {} (e.after lat) fun act =>
    let k := t.perReg
    let r := fun (l i : Nat) => op t (k * l + i) (e.fcode f f.s0 t l i) (if 2 ≤ n then e.fcode f f.s1 t l i else 0)
      (if 3 ≤ n then e.fcode f f.s2 t l i else 0)
    let out := e.out32 f act fun l => (packLane t.bits fun i => (r l i).1).setWidth 32
    (out.1, out.2, Fl.all ((lanesOf act).map fun l => Fl.all ((List.range k).map fun i => (r l i).2)))

/-- An arithmetic result: canonical NaN for a NaN operand, NV for an invalid operation, else RoundTo (R183). -/
def arith (t : Fmt) (r : Rnd) (idx : Nat) (codes : List Nat) (exact : List Num → Num × Bool) : Nat × Fl :=
  let xs := codes.map fun c => decodeNum t c
  let rd := Fl.all (codes.map fun c => readFl t c)
  if xs.any Num.isNan then ((special t (.nan false)).1, rd)
  else
    let v := exact xs
    if v.2 then ((special t (.nan false)).1, { nv := true })
    else roundTo v.1 t r idx

/-- Sum of two values under a rounding (R51). -/
def Rnd.sum (r : Rnd) (a b : Num) : Num × Bool := Num.add (r.mode == 3) a b

/-- fadd (R183): SUB[5:3] = 1 subtracts. -/
def execFadd (f : Form) (s : State) : Out State :=
  runIsa .fadd f s fun e =>
    let r := e.rnd f.rm
    floatPlan e .fadd f 2 4 fun t idx a b _ => arith t r idx [a, b] fun xs =>
      let y := getAt xs 1
      r.sum (getAt xs 0) (if f.variant == 1 then y.negate else y)

/-- fmul (R183). -/
def execFmul (f : Form) (s : State) : Out State :=
  runIsa .fmul f s fun e =>
    let r := e.rnd f.rm
    floatPlan e .fmul f 2 4 fun t idx a b _ => arith t r idx [a, b] fun xs => Num.mul (getAt xs 0) (getAt xs 1)

/-- fma (R183): 0 a*b + c, 1 a*b - c, 2 -(a*b) + c, 3 -(a*b) - c. -/
def execFma (f : Form) (s : State) : Out State :=
  runIsa .fma f s fun e =>
    let r := e.rnd f.rm
    floatPlan e .fma f 3 4 fun t idx a b c => arith t r idx [a, b, c] fun xs =>
      let p := Num.mul (getAt xs 0) (getAt xs 1)
      let c := getAt xs 2
      let v := r.sum (if 2 ≤ f.variant then p.1.negate else p.1) (if f.variant % 2 == 1 then c.negate else c)
      (v.1, p.2 || v.2)

/-- fmm (R184): 0 min, 1 max, 2 minnum, 3 maxnum, 4 amax. -/
def fmmOp (sub : Nat) (t : Fmt) (a b : Nat) : Nat × Fl :=
  let x := decodeNum t a
  let y := decodeNum t b
  let v := match sub with
    | 0 => numMin x y
    | 1 => numMax x y
    | 2 => if x.isNan then y else if y.isNan then x else numMin x y
    | 3 => if x.isNan then y else if y.isNan then x else numMax x y
    | _ => numMax x.abs y.abs
  (exactCode t v, (readFl t a).or (readFl t b))

/-- fmm (R184). -/
def execFmm (f : Form) (s : State) : Out State :=
  runIsa .fmm f s fun e => floatPlan e .fmm f 2 2 fun t _ a b _ => fmmOp f.sub.toNat t a b

/-- The relation of fcmp (R185): 0 eq, 1 ne, 2 lt, 3 le, 4 gt, 5 ge, 6 un, 7 ord, with its flags. -/
def fcmpOp (sub a b : Nat) : Bool × Fl :=
  let x := decodeNum .f32 a
  let y := decodeNum .f32 b
  let un := x.isNan || y.isNan
  let v := match sub with
    | 0 => Num.cmpEq x y
    | 1 => !Num.cmpEq x y
    | 2 => Num.cmpLt x y
    | 3 => !un && !Num.cmpLt y x
    | 4 => Num.cmpLt y x
    | 5 => !un && !Num.cmpLt x y
    | 6 => un
    | _ => !un
  (v, if 2 ≤ sub && sub ≤ 5 then { nv := un } else (readFl .f32 a).or (readFl .f32 b))

/-- fcmp (R185). -/
def execFcmp (f : Form) (s : State) : Out State :=
  runIsa .fcmp f s fun e => floatPlan e .fcmp f 2 2 fun _ _ a b _ =>
    let r := fcmpOp f.sub.toNat a b
    (if r.1 then 1 else 0, r.2)

/-- fsf (R186). -/
def execFsf (f : Form) (s : State) : Out State :=
  runIsa .fsf f s fun e =>
    let r := e.rnd f.rm
    floatPlan e .fsf f 1 8 fun t idx a _ _ =>
      let v := fsfNum f.variant (decodeNum t a)
      let c := roundTo v.1 t r idx
      (c.1, (readFl t a).or (v.2.or c.2))

/-- The class bit of a code (R185). -/
def classOf (t : Fmt) (c : Nat) : Nat :=
  match decodeNum t c, floatP t with
  | .nan true, _ => 8
  | .nan false, _ => 9
  | .inf s, _ => if s then 0 else 7
  | .fin s m _, some p =>
    if m = 0 then (if s then 3 else 4)
    else if c % signBit t < 2 ^ p.mbits then (if s then 2 else 5)
    else (if s then 1 else 6)
  | .fin _ _ _, none => 4

/-- fcls (R185): the mask is SRC1's bits [9:0]; an f32 immediate is converted to TY (R103). -/
def execFcls (f : Form) (s : State) : Out State :=
  runIsa .fcls f s fun e =>
    floatPlan e .fcls f 2 2 fun t _ a m _ => (if m.testBit (classOf t a) then 1 else 0, {})

/-- fsgn (R187): 0 abs, 1 neg, 2 cpy, 3 xsg. -/
def fsgnOp (sub : Nat) (t : Fmt) (a b : Nat) : Nat :=
  let sb := signBit t
  let sa := a / sb % 2
  let sgb := b / sb % 2
  if (decodeNum t a).isNan then (special t (.nan false)).1
  else
    a % sb + sb * (match sub with
      | 0 => 0
      | 1 => 1 - sa
      | 2 => sgb
      | _ => (sa + sgb) % 2)

/-- fsgn (R187). -/
def execFsgn (f : Form) (s : State) : Out State :=
  runIsa .fsgn f s fun e => floatPlan e .fsgn f (if f.sub.toNat ≤ 1 then 1 else 2) 2 fun t _ a b _ =>
    (fsgnOp f.sub.toNat t a b, {})

end Sys2Proof.Machine
end

