-- ==== Sys2Proof/Machine/Moves.lean ====
section
/-! DEFINITION. The data moves of the ordering machine (R291, R299, R301): drains, fills, drops, write-backs, reads,
atomics, replica copies and bank commands. -/

namespace Sys2Proof.Machine

namespace State

/-! ### Drain (R291, R301) -/

/-- A key of the own-hive replica as one of replica `r` (R222, R301). -/
def replicaKey (r k : Nat) : Nat :=
  if keyRegion k == 1 then key 1 (2 * r * 2 ^ 34 + keyAddr k % 2 ^ 34) else key 0 (2 * r * 2 ^ 36 + keyAddr k % 2 ^ 36)

/-- Whether an entry may drain (R291, R295, R298). -/
def mayDrain (s : State) (e : SBEntry) : Bool :=
  let ks := (entryBytes e).map fun d => d.1
  !((s.olderEntries e.comb e.group e.ord).any fun x =>
      (x.tt == e.tt && (e.tt == 2 || isWindow e)) || (!isWindow x && !isWindow e && (entryBytes x).any fun d => ks.contains d.1))
    && !((s.olderFlights e.comb e.group e.ord).any fun f =>
      releases f || s.acquires f e.va.toNat (max e.data.length 1)
        || (f.stores.any fun x => (x.tt == e.tt && (e.tt == 2 || isWindow e)) || (x.data ++ x.side).any fun d => ks.contains d.1)
        || (!isWindow e && f.rcn.any fun x => ks.any fun k => lineKey k == x.1))
    && (isWindow e || ks.all fun k => !s.accessAhead e.comb e.group e.ord k 1 false && s.reaches k)

/-- Writes an entry at its place: card words to the group's card (R267), bank commands on their way (R282, R261), the
bytes of other entries to memory (R290). -/
def drainAt (s : State) (e : SBEntry) (r : Nat) : State :=
  if e.tt == 5 then
    match e.data with
    | [] => s
    | d :: _ =>
      let w := BitVec.ofNat 64 (leNat (e.data.map fun x => x.2))
      s.modGroup e.comb e.group fun g => { g with card := setAt g.card (keyAddr d.1 / 8) (some w) }
  else if e.tt == 6 then
    match e.data with
    | [] => s
    | d :: _ =>
      { s.bump with coh := { s.coh with bank := s.coh.bank ++
          [{ num := s.clk.serial, launch := e.launch, comb := e.comb, group := e.group, ord := e.ord, key := d.1, bop := r
             a := BitVec.ofNat 64 (leNat (e.data.map fun x => x.2)) }] } }
  else if e.tt == 4 then s.writePlace e.core ((entryBytes e).map fun d => (replicaKey r d.1, d.2))
  else s.writePlace e.core (entryBytes e)

/-- SB_DRAIN (R291): one replica of an entry is written. -/
def drain (s : State) (eid r : Nat) : State :=
  match s.coh.sb.find? fun e => e.eid == eid with
  | none => s
  | some e =>
    if !e.reps.contains r || isGo e || !s.mayDrain e then s
    else
      let left := e.reps.filter fun x => x != r
      let s := s.drainAt e r
      s.modSB fun l => if left.isEmpty then l.filter fun x => x.eid != eid
        else l.map fun x => if x.eid == eid then { x with reps := left } else x

/-! ### Fill, Drop, Invalidate (R291) -/

/-- CACHE_FILL (R291). -/
def fill (s : State) (k : CacheId) (line : Nat) : State :=
  if line % 128 != 0 || !l1able line then s
  else match k with
    | .l1 core => if core < 256 then s.fillL1 core line else s
    | .rdc hive => if hive < 4 && viaRdc hive line then s.fillRdc hive line else s

/-- L1_INVALIDATE (R291): an L1 copy of a line homed on its own hive that differs from the home slice goes. -/
def invalidateL1 (s : State) (core line : Nat) : State :=
  match s.copy? (.l1 core) line with
  | none => s
  | some c =>
    if keyRegion line == 0 && homeHive line == hiveOf core && (c.data != s.bytesAt line 128 || c.side != s.placeSide line) then
      s.dropCopy (.l1 core) line
    else s

/-! ### Read (R291) -/

/-- The keys of an access, payload and sidecar. -/
def accKeys (a : Acc) : List Nat := (List.range a.size).map (fun i => a.key + i) ++ a.side

/-- Whether an access is a load with hint nc (R220). -/
def isNc (f : Flight) : Bool := f.op == .ld && f.form.sub.toNat % 8 == 1

/-- Before a read with hint nc, copies of the line that are older than the launch are dropped (R220) (DEDUCED, log 18). -/
def freshen (s : State) (core line launch : Nat) : State :=
  let n := ((s.launch? launch).map fun l => l.began).getD launch
  let old := fun (id : CacheId) => match s.copy? id line with | some c => c.born ≤ n | none => false
  let s : State := if old (.l1 core) then s.dropCopy (.l1 core) line else s
  if viaRdc (hiveOf core) line && old (.rdc (hiveOf core)) then s.dropCopy (.rdc (hiveOf core)) line else s

/-- The bytes of a read with hint nc: each is the one that the route gives or the one that stands at the place (R220)
(DEDUCED, log 18). -/
def ncBytes (s : State) (k : Nat) (bs : List Byte) : List Byte :=
  (List.range bs.length).map fun i => if s.freeW.getLsbD i then s.byteAt (k + i) else getAt bs i

/-- Notes bytes that a continuation's load has read, but for what its own held-back stores gave it (R303). -/
def noteSeen (s : State) (f : Flight) (ds : List (Nat × Byte)) : State :=
  match f.cont with
  | none => s
  | some n => s.modGroup f.comb f.group fun g => g.modFork n fun k =>
      { k with seen := (k.seen ++ ds.filter fun d => (newestSpec d.1 f.ord k.specSB).isNone).eraseDups }

/-- LOAD_READ (R291): the first unread access of a lane returns its bytes. -/
def loadRead (s : State) (fid l : Nat) : State :=
  match s.flight? fid with
  | none => s
  | some f =>
    match f.accs.find? fun a => a.lane == l && a.val.isNone with
    | none => s
    | some a =>
      match s.comb? f.comb with
      | none => s
      | some c =>
        if a.kind != .load || f.sync.isSome || !Env.mayRead s c.core f.comb f.group f.ord a.va.toNat a.key a.size (accKeys a) then s
        else
          let s : State := if isNc f then s.freshen c.core (lineKey a.key) c.launch else s
          let fork := match f.cont with | some k => (s.group? f.comb f.group).bind fun g => g.fork? k | none => none
          let (bs, s) := s.readMem c.core f.comb f.group f.ord fork a.key a.size
          let (bs, s) := if isNc f then (s.ncBytes a.key bs, s.spend) else (bs, s)
          let xs := a.side.map fun k => s.readByte c.core f.comb f.group f.ord fork k
          let s : State := if f.op == .ld && f.form.sub.toNat % 8 == 3 && l1able a.key then
              s.dropCopy (.l1 c.core) (lineKey a.key) else s
          let done := fun (x : Acc) => if x == a then { x with val := some (leNat (bs ++ xs)) } else x
          let s := s.noteSeen f ((accKeys a).zip (bs ++ xs))
          s.modFlight fid fun f => { (s.later f) with accs := f.accs.map done }

/-! ### Atomics (R229, R291) -/

/-- The bytes that an atomic of a core finds at its place (R229, R290). -/
def atomBytes (s : State) (core scope : Nat) (a : Acc) : List Byte :=
  (List.range a.size).map fun i => if a.tt == 0 && scope ≤ 1 then s.hiveByte (hiveOf core) (a.key + i) else s.byteAt (a.key + i)

/-- What an atomic leaves: none when a comparison fails. -/
def atomResult (a : Acc) (old : Nat) : Option Nat :=
  let w := 8 * a.size
  match a.kind with
  | .atom op => some (atomNew op w old (a.a.toNat % 2 ^ w))
  | .cas => if old == a.a.toNat % 2 ^ w then some (a.b.toNat % 2 ^ w) else none
  | .load => none

/-- The command of an atomic at BANK scope. -/
def atomCmd (s : State) (fid l : Nat) : Option BankCmd := s.coh.bank.find? fun b => b.atom == some (fid, l)

/-- Whether a bank command is the next of its path in its bank's queue (R245, R299), and the line is not being rebuilt
(R329). -/
def cmdFirst (s : State) (c : BankCmd) : Bool := !s.bankAhead c.comb c.group c.ord (s.queueOf c.key) && !s.isStale c.key

/-- A POD atomic on another device's memory is sent to its home (R330). -/
def sendAtom (s : State) (a : Acc) : State :=
  if keyRegion a.key == 7 then
    let kind : RemoteKind := match a.kind with | .cas => .cas a.a a.b | .atom op => .atomic op a.a | .load => .load
    s.sendRemote a.key { kind := kind, src := 0, asid := 0, va := keyAddr a.key % 2 ^ 56, size := a.size }
  else s

/-- A core's copy of a line homed on its own hive takes the bytes that an atomic of the core read at the place, so that the
path reads nothing earlier afterwards (R292). -/
def seenAt (s : State) (core : Nat) (a : Acc) (old : Nat) : State :=
  if keyRegion a.key == 0 && homeHive a.key == hiveOf core then s.takeBytes (.l1 core) (cellsFrom a.key (leBytes a.size old)) else s

/-- Whether older accesses and synchronising steps of the path, or a place that cannot be reached, hold back an atomic
(R291, R295, R298). -/
def atomWaits (s : State) (f : Flight) (a : Acc) : Bool :=
  let ks := accKeys a
  s.heldBack f.comb f.group f.ord a.va.toNat a.size || (f.orde != 0 && s.syncAhead f)
    || ((s.olderEntries f.comb f.group f.ord).any fun e => !isWindow e && (entryBytes e).any fun d => ks.contains d.1)
    || Env.storeAhead s f.comb f.group f.ord ks || s.accessAhead f.comb f.group f.ord a.key a.size false || !s.reaches a.key

/-- ATOMIC_PERFORM (R291). -/
def atomPerform (s : State) (fid l : Nat) : State :=
  match s.flight? fid with
  | none => s
  | some f =>
    match f.accs.find? fun a => a.lane == l && a.val.isNone && a.kind != .load with
    | none => s
    | some a =>
      match s.comb? f.comb with
      | none => s
      | some c =>
        let cmd := if f.scope == 6 then s.atomCmd fid l else none
        let bankOk := f.scope != 6 || (match cmd with | some b => b.queued && s.cmdFirst b | none => false)
        if !bankOk || s.atomWaits f a then s
        else
          let s0 : State := if keyRegion a.key == 7 then s.writeBack (hiveOf c.core) (lineKey a.key) else s
          let old := leNat (s0.atomBytes c.core f.scope a)
          let new := atomResult a old
          let rel := (f.orde == 2 || f.orde == 3) && new.isSome
          let region := lockRegion f a
          if rel && (!s.mayRelease f.comb f.group fid f.ord false region
              || (4 ≤ scopeOf f.scope && s0.stuck (hiveOf c.core) fun k => s0.lineIn (s.ctxOf c) c.core k region)) then s
          else
            let s : State := if rel && 4 ≤ scopeOf f.scope then
                s0.writeBackAll (hiveOf c.core) fun k => s0.lineIn (s.ctxOf c) c.core k region else s0
            let s := s.sendAtom a
            let s : State := match new with
              | none => s.seenAt c.core a old
              | some v =>
                let cells := s.masked (cellsFrom a.key (leBytes a.size v))
                ((s.perform cells).takeBytes (.rdc (hiveOf c.core)) cells).takeBytes (.l1 c.core) cells
            let s : State := match cmd with
              | some b => { s with coh := { s.coh with bank := s.coh.bank.filter fun x => x.num != b.num } }
              | none => s
            let s : State := if f.orde == 1 || f.orde == 3 then s.acquireFor c f (scopeOf f.scope) region else s
            let done := fun (x : Acc) => if x == a then { x with val := some old } else x
            s.modFlight fid fun f => { (s.later f) with accs := f.accs.map done }

/-! ### rcn (R224, R301) -/

/-- Whether older accesses and acquires of the path hold back an rcn's copies of a line (R291, R295, R298). -/
def rcnWaits (s : State) (f : Flight) (line : Nat) : Bool :=
  ((s.olderEntries f.comb f.group f.ord).any fun e => !isWindow e && (entryBytes e).any fun d => lineKey d.1 == lineKey line)
    || Env.storeAhead s f.comb f.group f.ord ((List.range 128).map fun i => line + i)
    || s.accessAhead f.comb f.group f.ord line 128 false
    || s.heldBack f.comb f.group f.ord (getAt f.ops 0).toNat (getAt f.ops 1).toNat

/-- RCN_LINE_COPY (R301): hive h's replica bytes of one line go to one other replica. -/
def rcnCopy (s : State) (fid line r : Nat) : State :=
  match s.flight? fid with
  | none => s
  | some f =>
    let src := replicaKey (f.form.imm.toNat % 4) line
    let dst := replicaKey r line
    if !f.rcn.contains (line, r) || s.rcnWaits f line then s
    else
      let core := ((s.comb? f.comb).map fun c => c.core).getD 0
      let s := s.writePlace core (cellsFrom dst (s.bytesAt src 128) ++ cellsFrom (sideKey dst 0) (s.sideAt src))
      s.modFlight fid fun f => { (s.later f) with rcn := f.rcn.filter fun x => x != (line, r) }

/-! ### Bank commands (R261, R282, R299) -/

def cmd? (s : State) (n : Nat) : Option BankCmd := s.coh.bank.find? fun b => b.num == n

/-- BANK_FORWARD (R299): the command enters its bank's queue, after the path's older ones for that queue. -/
def bankForward (s : State) (n : Nat) : State :=
  match s.cmd? n with
  | none => s
  | some c =>
    if c.queued || s.coh.bank.any fun b => b.comb == c.comb && b.group == c.group && !b.queued
        && s.queueOf b.key == s.queueOf c.key && b.ord.before c.ord then s
    else { s with coh := { s.coh with bank := s.coh.bank.map fun b => if b.num == n then { b with queued := true } else b } }

/-- Performs a window's bank command on the 8 bytes at T (R282): `op` maps the old dword and the operand to the new. -/
def bankPerform (s : State) (n bop : Nat) (op : Nat → Nat → Nat) : State :=
  match s.cmd? n with
  | none => s
  | some c =>
    if !c.queued || c.atom.isSome || c.bop != bop || !s.cmdFirst c then s
    else
      let s := s.performAt c.key (leBytes 8 (op (s.natAt c.key 8) c.a.toNat))
      { s with coh := { s.coh with bank := s.coh.bank.filter fun b => b.num != n } }

/-- Acts on the two 32-bit halves of a dword. -/
def onHalves (op : Nat → Nat → Nat) (o a : Nat) : Nat := op (o % 2 ^ 32) (a % 2 ^ 32) + 2 ^ 32 * op (o / 2 ^ 32 % 2 ^ 32) (a / 2 ^ 32)

end State

/-- SB_DRAIN (R291). -/
def execSbDrain (entry replica : Nat) (s : State) : Out State := .next (s.drain entry replica)

/-- CACHE_FILL (R291). -/
def execCacheFill (k : CacheId) (line : Nat) (s : State) : Out State := .next (s.fill k line)

/-- CACHE_DROP (R291). -/
def execCacheDrop (k : CacheId) (line : Nat) (s : State) : Out State := .next (s.dropCopy k line)

/-- RDC_WRITE_BACK (R291). -/
def execRdcWriteBack (hive line : Nat) (s : State) : Out State := .next (s.writeBack hive line)

/-- L1_INVALIDATE (R291). -/
def execL1Invalidate (core line : Nat) (s : State) : Out State := .next (s.invalidateL1 core line)

/-- LOAD_READ (R291). -/
def execLoadRead (fid lane : Nat) (s : State) : Out State := .next (s.loadRead fid lane)

/-- ATOMIC_PERFORM (R291). -/
def execAtomicPerform (fid lane : Nat) (s : State) : Out State := .next (s.atomPerform fid lane)

/-- RCN_LINE_COPY (R301). -/
def execRcnLineCopy (fid line replica : Nat) (s : State) : Out State := .next (s.rcnCopy fid line replica)

/-- BANK_FORWARD (R299). -/
def execBankForward (cmd : Nat) (s : State) : Out State := .next (s.bankForward cmd)

/-- BANK_FADD2 (R282). -/
def execBankFadd2 (cmd : Nat) (s : State) : Out State := .next (s.bankPerform cmd 0 (State.onHalves f32Sum))

/-- BANK_IADD2 (R282). -/
def execBankIadd2 (cmd : Nat) (s : State) : Out State := .next (s.bankPerform cmd 1 (State.onHalves fun o a => (o + a) % 2 ^ 32))

/-- BANK_IADD64 (R282). -/
def execBankIadd64 (cmd : Nat) (s : State) : Out State := .next (s.bankPerform cmd 2 fun o a => (o + a) % 2 ^ 64)

/-- BANK_FMAX2 (R282): fmm max of each half. -/
def execBankFmax2 (cmd : Nat) (s : State) : Out State :=
  .next (s.bankPerform cmd 3 (State.onHalves fun o a => (fmmOp 1 .f32 o a).1))

/-- BANK_WRITE (R282). -/
def execBankWrite (cmd : Nat) (s : State) : Out State := .next (s.bankPerform cmd 4 fun _ a => a)

end Sys2Proof.Machine
end

