-- ==== Sys2Proof/Machine/Jobs.lean ====
section
/-! DEFINITION. What every engine job shares (R267 to R274, R286, R300): the parts of a card, translation page by page
(R271), sources and destinations, the start of a job, and its writes. -/

namespace Sys2Proof.Machine

/-! ### Cards (R269) -/

/-- Operations defined for each engine (R269). -/
def jobOps : Nat → Nat
  | 0 => 3
  | 1 => 2
  | 2 => 1
  | 3 => 5
  | 4 => 5
  | 5 => 2
  | _ => 0

/-- The type of a panel-layout matrix that an engine accepts: legal for its block form (R48, R49), and of at most 32 bits
(R253). -/
def panelFmt (code blk : Nat) : Option Fmt :=
  match Fmt.ofCode code with
  | some t => if t.blkOk blk && t.bits ≤ 32 then some t else none
  | none => none

/-- What the checks of R269 find on a card, its footprints as byte ranges, and its destination bytes that count for
PENDING (R273). -/
structure Check where
  /-- a reserved field is nonzero, or an RM is 5 or 6 -/
  rsv   : Bool := false
  form  : Bool := false
  align : Bool := false
  src   : List (Nat × Nat) := []
  dst   : List (Nat × Nat) := []
  owed  : Nat := 0
deriving DecidableEq, Repr, Inhabited

/-- The lines of a byte range (R270). -/
def rangeLines (r : Nat × Nat) : List (Nat × Nat) := if r.2 = 0 then [] else [(r.1 / 128, (r.1 + r.2 - 1) / 128 + 1)]

/-- Whether two footprints meet (R270). -/
def footMeets (a b : List (Nat × Nat)) : Bool := a.any fun x => b.any fun y => x.1 < y.2 && y.1 < x.2

/-! ### Translation (R271) -/

/-- A translated part of a range. -/
structure Piece where
  va  : Nat
  key : Nat
  len : Nat
  tt  : Nat
deriving DecidableEq, Repr, Inhabited

/-- Translated parts up to the first that fails, and the failure: status and DETAIL. -/
structure Got where
  s    : State
  ps   : List Piece := []
  fail : Option (Nat × Nat) := none

/-- The key of a translated address. -/
def keyIn (ps : List Piece) (va : Nat) : Nat :=
  match ps.find? fun p => p.va ≤ va && va < p.va + p.len with
  | some p => p.key + (va - p.va)
  | none => 0

/-- Whether `n` bytes from an address on have been translated. -/
def covers (ps : List Piece) (va n : Nat) : Bool :=
  n = 0 || ((ps.any fun p => p.va ≤ va && va < p.va + p.len) && ps.any fun p => p.va ≤ va + n - 1 && va + n - 1 < p.va + p.len)

/-- Whether translated parts all lie in one tower (R283). -/
def oneTower (ps : List Piece) : Bool := ps.all fun p => p.tt == 0 && towerOf p.key == towerOf ((ps.headD default).key)

namespace State

/-- A job's translation of one address: the pager brings a managed page that is not present (R271); while it has to make room
for one, the page stays absent and the job waits (DEDUCED, log 81). -/
def jobXlate (s : State) (j : Job) (va : Nat) (need : Access) : State × XRes :=
  match s.xlate j.ctx j.core (BitVec.ofNat 64 va) need with
  | .absent =>
    match s.makePresent j.ctx va (s.originHive j.launch) with
    | some s => (s, s.xlate j.ctx j.core (BitVec.ofNat 64 va) need)
    | none => (s, if s.hopelessAt j.ctx va (s.originHive j.launch) then .fault 0x10 else .absent)
  | r => (s, r)

/-- Whether a range of a core's scratchpad lies in the window of a running comb of a launch (R209). -/
def inLaunchWindow (s : State) (launch k n : Nat) : Bool :=
  let off := keyAddr k % 2 ^ 20
  s.combs.any fun c => c.launch == launch && c.core == keyAddr k / 2 ^ 20 && c.spOff ≤ off && off + n ≤ c.spOff + c.scratch

/-- The target rules of a translated part (R269, R271): `side` says that sidecars are accessed too. -/
def partFail (s : State) (j : Job) (side : Bool) (p : Piece) : Option (Nat × Nat) :=
  if p.tt == 5 || p.tt == 6 || (p.tt == 2 && side) then some (0x14, 0)
  else if p.tt == 3 && !s.inLaunchWindow j.launch p.key p.len then some (0x15, p.va / 128)
  else
    match (List.range (p.len / 128 + 2)).find? fun i => s.uncorrectable (p.key / 128 * 128 + 128 * i) && p.key / 128 * 128 + 128 * i < p.key + p.len with
    | some i => some (0x17, p.va / 128 + i)
    | none => none

/-- Translates a range of `n` bytes in parts of at most 4 KiB; the fuel counts parts. A failure with status 0 says that the
pager has still to act. -/
def pieces (s : State) (j : Job) (need : Access) (side : Bool) : Nat → Nat → Nat → Got
  | 0, _, _ => { s := s }
  | fuel + 1, va, n =>
    if n = 0 then { s := s }
    else
      let k := min n (4096 - va % 4096)
      let r := s.jobXlate j va need
      match r.2 with
      | .ok tt kk =>
        let p : Piece := { va := va, key := kk, len := k, tt := tt }
        match r.1.partFail j side p with
        | some e => { s := r.1, fail := some e }
        | none =>
          let g := (r.1.note j.ctx (BitVec.ofNat 64 va)).pieces j need side fuel (va + k) (n - k)
          { g with ps := p :: g.ps }
      | .absent => { s := r.1, fail := some (0, va / 128) }
      | .fault code => { s := r.1, fail := some (if code == 0x12 then 0x17 else 0x15, va / 128) }

/-- Translates a range. -/
def range (s : State) (j : Job) (need : Access) (side : Bool) (va n : Nat) : Got := s.pieces j need side (n / 4096 + 2) va n

/-! ### Sources (R254, R300) -/

end State

/-- What a job read: the state, payload bytes, sidecars by line, and a failure; of a plain source, the translated parts. -/
structure Source where
  s     : State
  ps    : List Piece := []
  bytes : List Byte := []
  sides : List (List Byte) := []
  fail  : Option (Nat × Nat) := none

/-- The line of a source. -/
def Source.line (x : Source) (l : Nat) : List Byte × List Byte := ((x.bytes.drop (128 * l)).take 128, getAt x.sides l)

/-- A source as a matrix in panel layout. -/
def Source.panel (x : Source) (t : Fmt) (blk rows : Nat) : Panel := { t := t, blk := blk, rows := rows, line := fun l => some (x.line l) }

namespace State

/-- Reads `n` bytes at their places, with the sidecars of their lines when `side` (R300). -/
def readPlain (s : State) (j : Job) (side : Bool) (va n : Nat) : Source :=
  let g := s.range j .read side va n
  let lines := (n + 127) / 128
  { s := g.s, ps := g.ps, fail := g.fail, bytes := (g.ps.map fun p => g.s.bytesAt p.key p.len).flatten
    sides := if side then (List.range lines).map fun l => g.s.sideAt (keyIn g.ps (va + 128 * l)) else [] }

/-- Reads `n` logical bytes of a compressed region in the issuing comb's window (R254): a bad stream is status 0x18. -/
def readComp (s : State) (j : Job) (side : Bool) (h n : Nat) : Source :=
  match s.comb? j.comb with
  | none => { s := s, fail := some (0x15, h / 128) }
  | some c =>
    match s.windowKey c h 8 with
    | none => { s := s, fail := some (0x15, h / 128) }
    | some k =>
      let lines := (n + 127) / 128
      let p := s.operand c .i8 (if side then 1 else 0) 0 lines true k
      let ls := (List.range lines).map fun l => p.line l
      if ls.any fun x => x.isNone then { s := s, fail := some (0x18, 0) }
      else
        let got := ls.map fun x => x.getD ([], [])
        { s := s, bytes := (got.map fun x => x.1).flatten.take n, sides := if side then got.map fun x => x.2 else [] }

/-- Reads a source. -/
def readSource (s : State) (j : Job) (comp side : Bool) (va n : Nat) : Source :=
  if comp then s.readComp j side va n else s.readPlain j side va n

end State

/-! ### Destinations -/

/-- The first key of a write. -/
def JobWrite.head (w : JobWrite) : Option Nat :=
  match w.data with
  | d :: _ => some d.1
  | [] => w.copy.head?.map fun d => d.1

/-- What a job does: the state after its translations, its writes, its flags, and a failure; `exact` when a failure leaves
exactly the writes named. Where `early`, a write may be made once the source lines of its own are read; `needs` names them by
its index (R300). -/
structure Work where
  s      : State
  writes : List JobWrite := []
  fl     : Fl := {}
  fail   : Option (Nat × Nat) := none
  exact  : Bool := false
  early  : Bool := false
  needs  : Nat → List Nat := fun _ => []

/-- The keys of the lines of a translated range. -/
def lineKeys (ps : List Piece) (va n : Nat) : List Nat :=
  if n = 0 then [] else (List.range ((va + n - 1) / 128 + 1 - va / 128)).map fun i => lineKey (keyIn ps (va / 128 * 128 + 128 * i))

/-- Work whose writes need only the source lines named. -/
def Work.needing (w : Work) (f : Nat → List Nat) : Work := { w with early := true, needs := f }

/-- Cuts a range at the ends of lines. -/
def cutLines : Nat → Nat → Nat → List (Nat × Nat)
  | 0, _, _ => []
  | fuel + 1, va, n =>
    if n = 0 then [] else
      let k := min n (128 - va % 128)
      (va, k) :: cutLines fuel (va + k) (n - k)

/-- The parts of a range by line. -/
def lineCuts (va n : Nat) : List (Nat × Nat) := cutLines (n / 128 + 2) va n

/-- Writes of bytes at a translated range, line by line, with the sidecars of the lines where there are any. -/
def byteWrites (ps : List Piece) (va : Nat) (bs : List Byte) (sides : List (List Byte)) : List JobWrite :=
  ((lineCuts va bs.length).filter fun x => covers ps x.1 x.2).map fun x =>
    let k := keyIn ps x.1
    { data := cellsFrom k ((bs.drop (x.1 - va)).take x.2) ++ cellsFrom (sideKey k 0) (getAt sides ((x.1 - va) / 128)), count := x.2 }

/-- Writes that copy `n` bytes from one translated range to another, line by line of the destination; with `side` the
sidecars of the lines too. The bytes are read when a write lands (R274). -/
def copyWrites (ps qs : List Piece) (a b n : Nat) (side : Bool) : List JobWrite :=
  ((lineCuts b n).filter fun x => covers qs x.1 x.2 && covers ps (a + (x.1 - b)) x.2).map fun x =>
    let at_ := fun (i : Nat) => (keyIn qs (x.1 + i), keyIn ps (a + (x.1 - b) + i))
    let sk := fun (i : Nat) => (sideKey (keyIn qs x.1) i, sideKey (keyIn ps (a + (x.1 - b))) i)
    { copy := (List.range x.2).map at_ ++ (if side then (List.range 32).map sk else []), count := x.2 }

/-- The tiles of a compressed region's logical bytes, the last padded with zeros (R279). -/
def tilesOf (bs : List Byte) : List (List Byte) :=
  (List.range ((bs.length + 4095) / 4096)).map fun t =>
    let b := (bs.drop (4096 * t)).take 4096
    b ++ List.replicate (4096 - b.length) 0

/-- The bytes that stand for a tile in the data area: its stream when that is shorter (R227). -/
def tileStream (tile : List Byte) : List Byte := if (bdzTile tile).length < 4096 then bdzTile tile else tile

/-- Streams with their offsets in units of 32 bytes, one after another (DEDUCED, log 78). -/
def placeStreams : Nat → List (List Byte) → List (Nat × List Byte)
  | _, [] => []
  | o, x :: xs => (o, x) :: placeStreams (o + (x.length + 31) / 32) xs

/-- The writes of a compressed region with header key `k` and `room` bytes from the header to the window's end (R227,
R279); none when it does not fit. -/
def compWrites (k room : Nat) (bs : List Byte) : Option (List JobWrite) :=
  let ts := placeStreams 0 ((tilesOf bs).map tileStream)
  let n := ts.length
  let fits := ts.all fun x => bdzData n + 32 * x.1 + x.2.length ≤ room
  if n = 0 then some []
  else if 192 < n || room < 8 + 4 * n || !fits then none
  else
    let head := leBytes 4 n ++ leBytes 4 0 ++ (ts.map fun x => leBytes 4 (x.1 * 8192 + x.2.length)).flatten
    some ({ data := cellsFrom k head, count := head.length } ::
      ts.map fun x => { data := cellsFrom (k + bdzData n + 32 * x.1) x.2, count := x.2.length })

namespace State

/-- Writes payload bytes and sidecars at a plain destination. -/
def sinkPlain (s : State) (j : Job) (va : Nat) (bs : List Byte) (sides : List (List Byte)) (fl : Fl) : Work :=
  let g := s.range j .write (!sides.isEmpty) va bs.length
  { s := g.s, writes := byteWrites g.ps va bs sides, fl := fl, fail := g.fail }

/-- Writes a compressed destination in the issuing comb's window (R254, R279): status 0x19 when it does not fit. -/
def sinkComp (s : State) (j : Job) (h : Nat) (bs : List Byte) (sides : List (List Byte)) (fl : Fl) : Work :=
  match (s.comb? j.comb).bind fun c => (s.windowKey c h 8).map fun k => (c, k) with
  | none => { s := s, fail := some (0x15, h / 128) }
  | some (c, k) =>
    let pad := if sides.isEmpty then [] else List.replicate ((128 - bs.length % 128) % 128) (0 : Byte)
    match compWrites k (c.spOff + c.scratch - keyAddr k % 2 ^ 20) (bs ++ pad ++ sides.flatten) with
    | none => { s := s, fail := some (0x19, 0), fl := fl }
    | some ws => { s := s, writes := ws, fl := fl }

/-- Writes a destination. -/
def sink (s : State) (j : Job) (comp : Bool) (va : Nat) (bs : List Byte) (sides : List (List Byte)) (fl : Fl) : Work :=
  if comp then s.sinkComp j va bs sides fl else s.sinkPlain j va bs sides fl

/-! ### Start (R270, R300) -/

/-- Whether a bank-unit job's work on a tower line waits: for a bank command of its path that comes before it in the line's
queue (R245, R299), or for the line to be rebuilt (R329). -/
def bankHeld (s : State) (j : Job) (k : Nat) : Bool :=
  jobEng j.card == 3 && keyRegion k == 0 && (s.isStale (lineKey k) || s.bankAhead j.comb j.group j.ord (s.queueOf k))

/-- Whether a waiting job is ready: the jobs on its edges have a status, its launch runs, and its context is not being
saved (R270, R286). -/
def jobReady (s : State) (j : Job) : Bool :=
  j.phase == .waiting && j.edges.isEmpty && (s.ctx j.ctx).pstate == 0
    && !((s.launch? j.launch).map (fun l => l.aborted)).getD true

/-- The keys of lines that a job reads, wherever they lie (R300). -/
def jobLines (s : State) (j : Job) (src : List (Nat × Nat)) : List Nat :=
  (src.map fun y => (List.range (y.2 - y.1)).filterMap fun i =>
    match s.xlate j.ctx j.core (BitVec.ofNat 64 ((y.1 + i) * 128)) .read with
    | .ok tt k => if tt == 5 || tt == 6 then none else some k
    | _ => none).flatten.eraseDups

/-- The keys of the lines of a job's source footprint (R300). -/
def sourceLines (s : State) (j : Job) : List Nat := s.jobLines j j.src

/-- What a job reads (R300): what it has read already, and else what stands at the places of the lines now, never a clean
copy (R290). -/
def jobView (s : State) (j : Job) : State := (s.placeView (hiveOf j.core)).withRead j.got

/-- The cells of a line, payload and sidecar, as they stand at their place. -/
def lineCells (s : State) (hive k : Nat) : List (Nat × Byte) :=
  let s := s.placeView hive
  cellsFrom k (s.bytesAt k 128) ++ cellsFrom (sideKey k 0) (s.sideAt k)

/-- A job reads one source line at its place, payload and sidecar, and keeps what it read (R300). -/
def readLine (s : State) (j : Job) (todo : List Nat) (k : Nat) : State :=
  let cells := s.lineCells (hiveOf j.core) k
  s.modJob j.num fun j => { j with phase := .reading (todo.erase k), got := cells ++ j.got }

/-- A job makes one of its writes whose source lines it has read, while it still reads others (R300); writes that begin at one
place keep their order (R280). -/
def writeEarly (s : State) (j : Job) (todo : List Nat) (i : Nat) (f : State → Job → Work) : State :=
  let w := f (s.jobView j) j
  match w.writes[i]? with
  | none => s
  | some x =>
    let before := ((w.writes.take i).zip (List.range i)).any fun y => y.1.head == x.head && !j.early.contains y.2
    if w.early && (w.fail.isNone || w.exact) && !j.early.contains i && !before && !(w.needs i).any fun k => todo.contains k then
      s.modJob j.num fun j => { j with writes := j.writes ++ [x], early := i :: j.early }
    else s

/-- The writes of a job that it has not made early. -/
def lateWrites (j : Job) (ws : List JobWrite) : List JobWrite :=
  if j.early.isEmpty then ws else ((ws.zip (List.range ws.length)).filter fun x => !j.early.contains x.2).map fun x => x.1

/-- Decides a job's result from what it has read, and from the lines that it has not read yet as they stand (R300): its
writes are to land. A job that fails keeps a part of them that the model leaves open (R271) (DESIGN CHOICE, log 74). -/
def decideWork (s : State) (j : Job) (f : State → Job → Work) : State :=
  let s := (f s j).s
  let w := f (s.jobView j) j
  let ws := lateWrites j w.writes
  match w.fail with
  | none =>
    s.modJob j.num fun j => { j with phase := .ending 1 0, writes := j.writes ++ ws, flags := j.flags ||| w.fl.bits
                                     owed := ((j.writes ++ ws).map fun x => x.count).sum }
  | some (code, detail) =>
    let keep := if w.exact then ws else ws.take (Config.freePick s.clk.free % (ws.length + 1))
    s.spend.modJob j.num fun j => { j with phase := .ending code detail, writes := j.writes ++ keep, flags := j.flags ||| w.fl.bits }

/-- Whether the work waits for the pager: its failure has status 0 (R271). -/
def waitsForPage (w : Work) : Bool := match w.fail with | some (0, _) => true | _ => false

/-- The job that an event starts: ready, of the engine and operation named, and no older ready job of its core waits for
the same engine (R270). -/
def startable (s : State) (n eng op : Nat) : Option Job :=
  match s.job? n with
  | none => none
  | some j =>
    if s.jobReady j && jobEng j.card == eng && jobOp j.card == op
        && !(s.jobs.any fun o => o.num < n && o.core == j.core && jobEng o.card == eng && s.jobReady o) then some j else none

/-- The job that an event carries on: of the engine and operation named, with the source lines that it may still read. -/
def readingJob (s : State) (n eng op : Nat) : Option (Job × List Nat) :=
  match s.job? n with
  | none => none
  | some j =>
    match j.phase with
    | .reading todo => if jobEng j.card == eng && jobOp j.card == op then some (j, todo) else none
    | _ => none

/-- Starts a job, or carries on one that reads its sources (R300): it reads its source lines one by one, in an order that is
open (log 1), makes a write whose lines it has read, or decides its result with some of them unread, which it then reads at
once (DEDUCED, log 73). It waits for
the pager (R271), for a line that is being rebuilt (R329) and for a home that cannot be reached. -/
def startJob (s : State) (n eng op : Nat) (f : State → Job → Work) : State :=
  match s.readingJob n eng op with
  | some (j, todo) =>
    let held := fun (k : Nat) => s.isStale k || !s.reaches k || s.bankHeld j k
    let pick := if todo.isEmpty then 0 else Config.freePick s.clk.free % (todo.length + 2)
    match todo[pick]? with
    | some k => if held k then s.spend else s.spend.readLine j todo k
    | none =>
      if pick = todo.length + 1 then s.spend.spend.writeEarly j todo (Config.freePick (s.clk.free + 1)) f
      else if todo.any held || waitsForPage (f s j) then s.spend else s.spend.decideWork j f
  | none =>
    match s.startable n eng op with
    | none => s
    | some j =>
      let w := f s j
      if waitsForPage w then s
      else w.s.modJob n fun j => { j with phase := .reading (w.s.sourceLines j) }

/-! ### Landing (R273, R300) -/

/-- Adds words of 4 bytes to what stands at their place (R283). -/
def addWords (s : State) (isInt : Bool) : Nat → List (Nat × Byte) → List (Nat × Byte) × Fl
  | 0, _ => ([], {})
  | fuel + 1, cells =>
    match cells with
    | [] => ([], {})
    | d :: _ =>
      let old := s.natAt d.1 4
      let a := leNat ((cells.take 4).map fun x => x.2)
      let r : Nat × Fl := if isInt then ((old + a) % 2 ^ 32, {}) else addF32 old a
      let rest := s.addWords isInt fuel (cells.drop 4)
      (cellsFrom d.1 (leBytes 4 r.1) ++ rest.1, r.2.or rest.2)

/-- The bytes that a write of a job leaves, and the flags it raises: bytes that it copies are those that the job has read,
or are read now (R274). -/
def landCells (s : State) (j : Job) (w : JobWrite) : List (Nat × Byte) × Fl :=
  match w.add with
  | some isInt => s.addWords isInt w.data.length w.data
  | none =>
    let r := s.jobView j
    (w.data ++ w.copy.map fun d => (d.1, r.byteAt d.2), {})


/-- Performs an engine's write at its place from a hive (R300): a remote line's bytes are written back to their home at
once, where their members see them (R238). -/
def landHome (s : State) (hive : Nat) (cells : List (Nat × Byte)) : State :=
  ((cells.filter fun d => keyRegion d.1 == 7 || keyRegion d.1 == 8).map fun d => lineKey d.1).eraseDups.foldl
    (fun s l => s.writeBack hive l) (s.writeHome hive cells)

/-- Performs a write of a job at its place (R300): a bank-unit job's as a bank command on the tower. -/
def landAt (s : State) (j : Job) (cells : List (Nat × Byte)) : State :=
  if jobEng j.card == 3 && cells.all (fun d => keyRegion d.1 == 0 || keyRegion d.1 == 1) then s.perform cells
  else s.landHome (hiveOf j.core) cells

/-- Whether a write can be performed now: its home can be reached, the sources that it has still to copy too, and a bank
unit's lines are not held (R245, R323, R329). -/
def landReady (s : State) (j : Job) (w : JobWrite) : Bool :=
  (w.data.all fun d => s.reaches d.1) && (w.copy.all fun d => s.reaches d.1 && s.reaches d.2)
    && !(((w.data.map fun d => lineKey d.1) ++ (w.copy.map fun d => [lineKey d.1, lineKey d.2]).flatten).eraseDups.any fun k => s.bankHeld j k)

/-- Subtracts landed bytes of a job whose GO has PB from its barrier's PENDING (R273) (DEDUCED, log 75). -/
def landCount (s : State) (j : Job) (n : Nat) : State :=
  if j.pb then s.landed (s.jobComb j) j.bar n else s

/-- JOB_WRITE_LAND (R300): one of the job's writes is performed; which one is open (log 1), but writes that begin at one
place land in their order (R280). -/
def landWrite (s : State) (n : Nat) : State :=
  match s.job? n with
  | none => s
  | some j =>
    match j.writes[Config.freePick s.clk.free % (max j.writes.length 1)]? with
    | none => s
    | some w0 =>
      let w := (j.writes.find? fun x => x.head == w0.head).getD w0
      if !s.landReady j w then s.spend
      else
      let r := s.landCells j w
      let s := s.spend.landAt j r.1
      let s := s.modJob n fun j => { j with writes := j.writes.erase w, owed := j.owed - w.count, flags := j.flags ||| r.2.bits }
      s.landCount j w.count

end State

/-- JOB_WRITE_LAND (R300). -/
def execJobWriteLand (job : Nat) (s : State) : Out State := .next (s.landWrite job)

end Sys2Proof.Machine
end

