-- ==== Sys2Proof/Machine/Engines.lean ====
section
/-! DEFINITION. The transform, gather and chain engines and the bank units (R278 to R283): the checks of their cards at GO
and what their jobs do. -/

namespace Sys2Proof.Machine

/-! ### Transform (R278, R279) -/

/-- Fields of a transform card. -/
structure TCard where
  sc    : Bool
  dc    : Bool
  src   : Nat
  dst   : Nat
  len   : Nat
  r     : Nat
  c     : Nat
  sf    : Nat
  sblk  : Nat
  df    : Nat
  dblk  : Nat
  rm    : Nat
  shift : Int
  seed  : W64
  side  : Bool
deriving DecidableEq, Repr, Inhabited

/-- Reads a transform card (R278). -/
def tCard (card : List W64) : TCard :=
  { sc := (jc card 1).getLsbD 63, dc := (jc card 2).getLsbD 63, src := wBits (jc card 1) 0 56, dst := wBits (jc card 2) 0 56
    len := wBits (jc card 0) 0 32, r := wBits (jc card 0) 16 16 + 1, c := wBits (jc card 0) 0 16 + 1
    sf := wBits (jc card 3) 27 5, sblk := wBits (jc card 3) 25 2, df := wBits (jc card 3) 20 5, dblk := wBits (jc card 3) 18 2
    rm := wBits (jc card 3) 15 3, shift := ((jc card 3).extractLsb' 7 8).toInt, seed := (jc card 3) >>> 32
    side := (jc card 3).getLsbD 0 }

/-- The source's and the destination's bytes of a conv or convT (R278). -/
def convBytes (op : Nat) (t : TCard) : Nat × Nat :=
  match Fmt.ofCode t.sf, Fmt.ofCode t.df with
  | some sf, some df =>
    let r := if op = 1 then t.r else t.c
    let c := if op = 1 then t.c else t.r
    (128 * panelLines sf t.r t.c, 128 * panelLines df r c)
  | _, _ => (0, 0)

/-- Whether a compressed end lies in the issuing comb's window (R227, R278), and its footprint: from the header to the
window's end. -/
def compEnd (s : State) (c : Comb) (h : Nat) : Bool × (Nat × Nat) :=
  (h % 32 == 0 && (s.windowKey c h 8).isSome, (h, c.spBase.toNat + c.scratch - h))

/-- The checks of a transform card (R269, R278). -/
def transformCheck (s : State) (c : Comb) (card : List W64) : Check :=
  let op := jobOp card
  let t := tCard card
  let sEnd := compEnd s c t.src
  let dEnd := compEnd s c t.dst
  let fixed := wBits (jc card 0) 32 24 != 0 || wBits (jc card 1) 56 7 != 0 || wBits (jc card 2) 56 7 != 0 || wBits (jc card 3) 1 6 != 0
  let inside := (!t.sc || sEnd.1) && (!t.dc || dEnd.1)
  if op = 0 then
    { rsv := fixed || (jc card 3).toNat / 2 != 0
      align := !inside || (t.side && (t.src % 128 != 0 || t.dst % 128 != 0 || t.len % 128 != 0))
      src := [if t.sc then sEnd.2 else (t.src, t.len)], dst := [if t.dc then dEnd.2 else (t.dst, t.len)]
      owed := if t.dc then (s.freeW).toNat else t.len }
  else
    let n := convBytes op t
    { rsv := fixed || t.side || t.rm == 5 || t.rm == 6
      form := (panelFmt t.sf t.sblk).isNone || (panelFmt t.df t.dblk).isNone
      align := !inside || (!t.sc && t.src % 128 != 0) || (!t.dc && t.dst % 128 != 0)
      src := [if t.sc then sEnd.2 else (t.src, n.1)], dst := [if t.dc then dEnd.2 else (t.dst, n.2)]
      owed := if t.dc then (s.freeW).toNat else n.2 }

/-- copy (R279): between plain ends the bytes are read as each line is written. -/
def copyWork (s : State) (j : Job) : Work :=
  let t := tCard j.card
  if t.sc || t.dc then
    let x := s.readSource j t.sc t.side t.src t.len
    match x.fail with
    | some e => { s := x.s, fail := some e }
    | none => x.s.sink j t.dc t.dst x.bytes x.sides {}
  else
    let p := s.range j .read t.side t.src t.len
    let q := p.s.range j .write t.side t.dst t.len
    { s := q.s, writes := copyWrites p.ps q.ps t.src t.dst t.len t.side, fail := p.fail.orElse fun _ => q.fail }

/-- The exact value of element (i, j) of a panel, and the flags of reading it (R69, R78). -/
def panelNum (p : Panel) (i j : Nat) : Num × Fl :=
  match p.line (panelAt p.t p.rows i j).1 with
  | none => (.nan false, {})
  | some l =>
    let at_ := (panelAt p.t p.rows i j).2
    let code := elemAt p.t (leNat l.1) at_
    if p.blk = 0 then (decodeNum p.t code, readFl p.t code)
    else
      let x := ((l.2[at_ / 16]?).getD 0).toNat
      let mu := ((l.2[16 + at_ / 16]?).getD 0).toNat
      (scaledNum p.t x (muAt mu (at_ % 16)) code, if x = 0xFF then {} else readFl p.t code)

/-- Rounding in a job (R63, R65): RM 7 reads the group's FMODE at GO. -/
def jobRnd (j : Job) (rm : Nat) (seed : W64) : Rnd := { mode := if rm = 7 then j.frm.toNat else rm, satf := j.satf, seed := seed }

/-- The lines of a panel-layout source of `rows` rows that the elements on a line of a panel-layout result come from. -/
def panelNeeds (sf df : Fmt) (tr : Bool) (rows r c l : Nat) : List Nat :=
  ((List.range r).map fun i => ((List.range c).filter fun k => (panelAt df r i k).1 == l).map fun k =>
    (if tr then panelAt sf rows k i else panelAt sf rows i k).1).flatten.eraseDups

/-- conv and convT (R279) (DEDUCED, log 34). -/
def convWork (tr : Bool) (s : State) (j : Job) : Work :=
  let t := tCard j.card
  match panelFmt t.sf t.sblk, panelFmt t.df t.dblk with
  | some sf, some df =>
    let x := s.readSource j t.sc (t.sblk != 0) t.src (128 * panelLines sf t.r t.c)
    match x.fail with
    | some e => { s := x.s, fail := some e }
    | none =>
      let p := x.panel sf t.sblk t.r
      let r := if tr then t.c else t.r
      let c := if tr then t.r else t.c
      let y := fun (i k : Nat) => ((if tr then panelNum p k i else panelNum p i k).1).scale t.shift
      let fl := Fl.all ((List.range (t.r * t.c)).map fun q => (panelNum p (q / t.c) (q % t.c)).2)
      let out := panelWrite df t.dblk (jobRnd j t.rm t.seed) r c y fun i k => i * c + k
      let w := x.s.sink j t.dc t.dst (out.1.map fun l => l.1).flatten (if t.dblk = 0 then [] else out.1.map fun l => l.2) (fl.or out.2)
      if t.sc || t.dc then w
      else w.needing fun i => (panelNeeds sf df tr t.r r c i).map fun l => lineKey (keyIn x.ps (t.src + 128 * l))
  | _, _ => { s := s, fail := some (0x12, 0) }

/-! ### Gather (R280) -/

/-- Fields of a gather card. -/
structure GCard where
  rs  : Nat
  lim : Nat
  cnt : Nat
  src : Nat
  dst : Nat
  idx : Nat
deriving DecidableEq, Repr, Inhabited

/-- Reads a gather card (R280). -/
def gCard (card : List W64) : GCard :=
  { rs := 2 ^ (wBits (jc card 0) 52 4 + 2), lim := wBits (jc card 0) 46 6, cnt := wBits (jc card 0) 0 32
    src := wBits (jc card 1) 0 56, dst := wBits (jc card 2) 0 56, idx := wBits (jc card 3) 0 56 }

/-- The checks of a gather card (R269, R280): with COUNT = 0 there is nothing to wait for (DEDUCED, log 80). -/
def gatherCheck (card : List W64) : Check :=
  let g := gCard card
  let table := 2 ^ g.lim * g.rs
  let list := (g.idx, 4 * g.cnt)
  { rsv := wBits (jc card 0) 32 14 != 0 || 10 < wBits (jc card 0) 52 4 || 32 < g.lim
      || (List.range 3).any fun i => wBits (jc card (i + 1)) 56 8 != 0
    align := g.src % min g.rs 128 != 0 || g.dst % min g.rs 128 != 0 || g.idx % 4 != 0
    src := if g.cnt = 0 then [] else [(g.src, if jobOp card = 0 then table else g.cnt * g.rs), list]
    dst := if g.cnt = 0 then [] else [(g.dst, if jobOp card = 0 then g.cnt * g.rs else table)]
    owed := g.cnt * g.rs }

/-- Moves `n` rows from row `k` on (R280). -/
def moveRows (scatter : Bool) (j : Job) (g : GCard) (s : State) : Nat → Nat → Work
  | 0, _ => { s := s }
  | n + 1, k =>
    let i := s.range j .read false (g.idx + 4 * k) 4
    match i.fail with
    | some e => { s := i.s, fail := some e }
    | none =>
      let x := i.s.natAt (keyIn i.ps (g.idx + 4 * k)) 4
      if 2 ^ g.lim ≤ x then { s := i.s, fail := some (0x16, k), exact := true }
      else
        let a := g.src + (if scatter then k else x) * g.rs
        let b := g.dst + (if scatter then x else k) * g.rs
        let p := i.s.range j .read false a g.rs
        let q := p.s.range j .write false b g.rs
        match p.fail.orElse fun _ => q.fail with
        | some e => { s := q.s, fail := some e }
        | none =>
          let r := moveRows scatter j g q.s n (k + 1)
          let ws := copyWrites p.ps q.ps a b g.rs false
          let list := lineKeys (s.range j .read false g.idx (4 * (k + 1))).ps g.idx (4 * (k + 1))
          { r with writes := ws ++ r.writes, early := true, needs := fun m => if m < ws.length then list else r.needs (m - ws.length) }

/-- gather and scatter (R280). -/
def rowsWork (scatter : Bool) (s : State) (j : Job) : Work := moveRows scatter j (gCard j.card) s (gCard j.card).cnt 0

/-! ### Chain (R281) -/

/-- The parameter block of a chain job. -/
structure ChainBlk where
  prog : List W32
  b    : Nat
  af   : Nat
  bf   : Nat
  df   : Nat
  rm   : Nat
  seed : W64
  /-- its reserved bits are zero -/
  zero : Bool
deriving DecidableEq, Repr, Inhabited

/-- Reads a parameter block (R281). -/
def chainBlk (bs : List Byte) : ChainBlk :=
  let w : W64 := BitVec.ofNat 64 (leNat ((bs.drop 40).take 8))
  { prog := (List.range 8).map fun i => BitVec.ofNat 32 (leNat ((bs.drop (4 * i)).take 4))
    b := leNat ((bs.drop 32).take 8), af := wBits w 0 5, bf := wBits w 5 5, df := wBits w 10 5, rm := wBits w 15 3
    seed := w >>> 32, zero := wBits w 18 14 == 0 && (bs.drop 48).all fun x => x == 0 }

/-- Bytes of a stream of `n` elements: a panel-layout matrix of one row. -/
def streamBytes (code n : Nat) : Nat :=
  match panelFmt code 0 with
  | some t => 128 * panelLines t 1 n
  | none => 0

/-- The checks of a chain card (R269, R281). `bs` is the block as it stands at acceptance: the streams of the footprint
are formed from it (DEDUCED). -/
def chainCheck (card : List W64) (bs : List Byte) : Check :=
  let n := wBits (jc card 0) 0 32
  let k := chainBlk bs
  { rsv := wBits (jc card 0) 32 24 != 0
    align := (jc card 1).toNat % 128 != 0 || (jc card 2).toNat % 128 != 0 || (jc card 3).toNat % 64 != 0
    src := [((jc card 1).toNat, streamBytes k.af n), (k.b, if k.b = 0 then 0 else streamBytes k.bf n), ((jc card 3).toNat, 64)]
    dst := [((jc card 2).toNat, streamBytes k.df n)]
    owed := streamBytes k.df n }

/-- The status that a parameter block gives its job when it starts, and its program (R269, R281). R49 rejects a card with a
reserved FMT; here the BFMT of a block without stream B names no stream and is not looked at (DESIGN CHOICE, log 112). -/
def chainProg (k : ChainBlk) : List Epi ⊕ Nat :=
  match epiProgram 0 k.prog with
  | .inr _ => .inr 0x11
  | .inl es =>
    if !(epiVectors es).isEmpty then .inr 0x11
    else if !k.zero || k.rm == 5 || k.rm == 6 then .inr 0x13
    else if (panelFmt k.af 0).isNone || (panelFmt k.df 0).isNone || (k.b != 0 && (panelFmt k.bf 0).isNone) then .inr 0x12
    else if k.b % 128 != 0 then .inr 0x14
    else .inl es

/-- The type of a checked format code. -/
def fmtOr (code : Nat) : Fmt := (panelFmt code 0).getD .f32

/-- chain (R281) (DEDUCED, log 35). -/
def chainWork (s : State) (j : Job) : Work :=
  let n := wBits (jc j.card 0) 0 32
  let x := s.readPlain j false (jc j.card 3).toNat 64
  match x.fail with
  | some e => { s := x.s, fail := some e }
  | none =>
    let k := chainBlk x.bytes
    match chainProg k with
    | .inr code => { s := x.s, fail := some (code, 0) }
    | .inl es =>
      let a := x.s.readPlain j false (jc j.card 1).toNat (streamBytes k.af n)
      let b := if k.b = 0 then { s := a.s } else a.s.readPlain j false k.b (streamBytes k.bf n)
      match a.fail.orElse fun _ => b.fail with
      | some e => { s := b.s, fail := some e }
      | none =>
        let rd := fun (y : Source) (code i : Nat) =>
          let v := panelNum (y.panel (fmtOr code) 0 1) 0 i
          let r := toF32 v.1
          (decodeNum .f32 r.1, v.2.or r.2)
        let one := fun (i : Nat) =>
          let e0 := rd a k.af i
          let e1 : Num × Fl := if k.b = 0 then (.fin false 0 0, {}) else rd b k.bf i
          epiRun (fun _ => .nan false) (fun _ => .nan false) es (epiStart e0.1 [e1.1]) (e0.2.or e1.2)
        let ys := (List.range n).map one
        let out := panelWrite (fmtOr k.df) 0 (jobRnd j k.rm k.seed) 1 n (fun _ i => (getAt (ys.map fun y => y.1) i)) fun _ i => i
        let from_ := fun (y : Source) (code at_ i : Nat) =>
          (panelNeeds (fmtOr code) (fmtOr k.df) false 1 1 n i).map fun l => lineKey (keyIn y.ps (at_ + 128 * l))
        (b.s.sinkPlain j (jc j.card 2).toNat (out.1.map fun l => l.1).flatten [] ((Fl.all (ys.map fun y => y.2)).or out.2)).needing fun i =>
          lineKeys x.ps (jc j.card 3).toNat 64 ++ from_ a k.af (jc j.card 1).toNat i ++ (if k.b = 0 then [] else from_ b k.bf k.b i)

/-! ### Bank units (R283) -/

/-- Fields of an mv card. -/
structure MvCard where
  fv : Nat
  bv : Nat
  fw : Nat
  bw : Nat
  m  : Nat
  k  : Nat
deriving DecidableEq, Repr, Inhabited

/-- Reads an mv card (R283). -/
def mvCard (card : List W64) : MvCard :=
  let w := jc card 0
  { fv := wBits w 51 5, bv := wBits w 49 2, fw := wBits w 44 5, bw := wBits w 42 2, m := wBits w 16 16 + 1, k := 32 * (wBits w 0 16 + 1) }

/-- The vector's type and the weights' type: scaled, but for a plain bf16 vector (R259, R283). -/
def mvFmts (m : MvCard) : Option (Fmt × Fmt) :=
  match panelFmt m.fv m.bv, panelFmt m.fw m.bw with
  | some v, some w => if m.bw != 0 && (m.bv != 0 || v == .bf16) then some (v, w) else none
  | _, _ => none

/-- Bytes of the vector and of the weights. -/
def mvBytes (m : MvCard) : Nat × Nat :=
  match mvFmts m with
  | some (v, w) => (128 * panelLines v 1 m.k, 128 * m.m * panelLines w 1 m.k)
  | none => (0, 0)

/-- The checks of a bank-unit card (R269, R283). -/
def bankCheck (card : List W64) : Check :=
  let op := jobOp card
  let a := (jc card 1).toNat
  let b := (jc card 2).toNat
  let n := wBits (jc card 0) 0 32
  let top := wBits (jc card 0) 32 24 != 0 || jc card 3 != 0
  match op with
  | 0 =>
    let m := mvCard card
    { rsv := wBits (jc card 0) 32 10 != 0, form := (mvFmts m).isNone
      align := a % 128 != 0 || (jc card 3).toNat % 128 != 0 || b % 4 != 0
      src := [(a, (mvBytes m).1), ((jc card 3).toNat, (mvBytes m).2)], dst := [(b, 4 * m.m)], owed := 4 * m.m }
  | 1 =>
    let f := wBits (jc card 0) 51 5
    { rsv := wBits (jc card 0) 32 19 != 0 || jc card 3 != 0, form := f != 0x08 && f != 0x02
      align := a % 4 != 0 || b % 4 != 0, src := [(a, 4 * n)], dst := [(b, 4 * n)], owed := 4 * n }
  | 2 => { rsv := top, align := a % 4 != 0 || b % 4 != 0, src := [(a, 4 * n)], dst := [(b, 4)], owed := 4 }
  | 3 => { rsv := top, align := b % 8 != 0 || n % 8 != 0, dst := [(b, n)], owed := n }
  | _ => { rsv := top, align := a % 128 != 0 || b % 128 != 0 || n % 128 != 0, src := [(a, n)], dst := [(b, n)], owed := n }

/-- mv (R260, R283). -/
def mvWork (s : State) (j : Job) : Work :=
  let m := mvCard j.card
  match mvFmts m with
  | none => { s := s, fail := some (0x12, 0) }
  | some (tv, tw) =>
    let v := s.readPlain j (m.bv != 0) (jc j.card 1).toNat (mvBytes m).1
    let w := v.s.range j .read true (jc j.card 3).toNat (mvBytes m).2
    match v.fail.orElse fun _ => w.fail with
    | some e => { s := w.s, fail := some e }
    | none =>
      if !oneTower w.ps then { s := w.s, fail := some (0x14, 0) }
      else
        let ys := w.s.mvRows (v.panel tv m.bv 1) tw m.bw m.k m.m (w.ps.map fun p => (p.key, p.len))
        let dst := (jc j.card 2).toNat
        let row := 128 * panelLines tw 1 m.k
        (w.s.sinkPlain j dst (ys.map fun y => leBytes 4 y.1).flatten [] (Fl.all (ys.map fun y => y.2))).needing fun i =>
          let x := getAt (lineCuts dst (4 * m.m)) i
          lineKeys v.ps (jc j.card 1).toNat (mvBytes m).1 ++ lineKeys w.ps ((jc j.card 3).toNat + (x.1 - dst) / 4 * row) (x.2 / 4 * row)

/-- accm (R283): each line's words are added when its write lands. -/
def accmWork (s : State) (j : Job) : Work :=
  let n := 4 * wBits (jc j.card 0) 0 32
  let b := (jc j.card 2).toNat
  let x := s.readPlain j false (jc j.card 1).toNat n
  let q := x.s.range j .write false b n
  match x.fail.orElse fun _ => q.fail with
  | some e => { s := q.s, fail := some e }
  | none =>
    if !oneTower q.ps then { s := q.s, fail := some (0x14, 0) }
    else
      let isInt := wBits (jc j.card 0) 51 5 == 0x02
      let a := (jc j.card 1).toNat
      let w : Work := { s := q.s, writes := (byteWrites q.ps b x.bytes []).map fun w => { w with add := some isInt } }
      w.needing fun i =>
        let c := getAt (lineCuts b n) i
        lineKeys x.ps (a + (c.1 - b)) c.2

/-- The largest magnitude of f32 codes; a NaN anywhere gives the canonical NaN (R283). -/
def amaxOf (ws : List Nat) : Nat :=
  let ms := ws.map fun w => w % 2 ^ 31
  if ms.any fun m => 0x7F800000 < m then 0x7FC00000 else ms.foldl max 0

/-- amax (R283) (DEDUCED, log 33). -/
def amaxWork (s : State) (j : Job) : Work :=
  let n := wBits (jc j.card 0) 0 32
  let p := s.range j .read false (jc j.card 1).toNat (4 * n)
  match p.fail with
  | some e => { s := p.s, fail := some e }
  | none =>
    if !oneTower p.ps then { s := p.s, fail := some (0x14, 0) }
    else
      let bs := (p.ps.map fun x => p.s.bytesAt x.key x.len).flatten
      let ws := (List.range n).map fun i => leNat ((bs.drop (4 * i)).take 4)
      p.s.sinkPlain j (jc j.card 2).toNat (leBytes 4 (amaxOf ws)) [] (Fl.all (ws.map (readFl .f32)))

/-- fill (R283). -/
def fillWork (s : State) (j : Job) : Work :=
  let n := wBits (jc j.card 0) 0 32
  let b := (jc j.card 2).toNat
  let q := s.range j .write false b n
  match q.fail with
  | some e => { s := q.s, fail := some e }
  | none =>
    if !oneTower q.ps then { s := q.s, fail := some (0x14, 0) }
    else
      let pat := leBytes 8 (jc j.card 1).toNat
      { s := q.s, writes := byteWrites q.ps b ((List.range (n / 8)).map fun _ => pat).flatten [] }

/-- copy within a tower, payload and sidecars (R283). -/
def bankCopyWork (s : State) (j : Job) : Work :=
  let n := wBits (jc j.card 0) 0 32
  let a := (jc j.card 1).toNat
  let b := (jc j.card 2).toNat
  let p := s.range j .read true a n
  let q := p.s.range j .write true b n
  match p.fail.orElse fun _ => q.fail with
  | some e => { s := q.s, fail := some e }
  | none =>
    if !oneTower (p.ps ++ q.ps) then { s := q.s, fail := some (0x14, 0) }
    else { s := q.s, writes := copyWrites p.ps q.ps a b n true }

/-- TRANSFORM_COPY (R279). -/
def execTransformCopy (job : Nat) (s : State) : Out State := .next (s.startJob job 0 0 copyWork)

/-- TRANSFORM_CONV (R279). -/
def execTransformConv (job : Nat) (s : State) : Out State := .next (s.startJob job 0 1 (convWork false))

/-- TRANSFORM_CONVT (R279). -/
def execTransformConvt (job : Nat) (s : State) : Out State := .next (s.startJob job 0 2 (convWork true))

/-- GATHER (R280). -/
def execGather (job : Nat) (s : State) : Out State := .next (s.startJob job 1 0 (rowsWork false))

/-- SCATTER (R280). -/
def execScatter (job : Nat) (s : State) : Out State := .next (s.startJob job 1 1 (rowsWork true))

/-- CHAIN (R281). -/
def execChain (job : Nat) (s : State) : Out State := .next (s.startJob job 2 0 chainWork)

/-- BANK_MV (R283). -/
def execBankMv (job : Nat) (s : State) : Out State := .next (s.startJob job 3 0 mvWork)

/-- BANK_ACCM (R283). -/
def execBankAccm (job : Nat) (s : State) : Out State := .next (s.startJob job 3 1 accmWork)

/-- BANK_AMAX (R283). -/
def execBankAmax (job : Nat) (s : State) : Out State := .next (s.startJob job 3 2 amaxWork)

/-- BANK_FILL (R283). -/
def execBankFill (job : Nat) (s : State) : Out State := .next (s.startJob job 3 3 fillWork)

/-- BANK_COPY (R283). -/
def execBankCopy (job : Nat) (s : State) : Out State := .next (s.startJob job 3 4 bankCopyWork)

end Sys2Proof.Machine
end

