-- ==== Sys2Proof/Machine/Snapshot.lean ====
section
/-! DEFINITION. The snapshot engine (R285, R343 to R346): arming, the cut, the drain and the cancel. -/

namespace Sys2Proof.Machine

/-- Dword i of a byte list. -/
def dwordAt (bs : List Byte) (i : Nat) : W64 := BitVec.ofNat 64 (leNat ((bs.drop (8 * i)).take 8))

namespace State

/-! ### The pages of a context (R343) -/

/-- The leaves of a table tree: virtual address, entry, and whether it maps 2 MiB (R325). -/
def leaves (s : State) : List (Nat × Nat) → Nat → Nat → List (Nat × W64 × Bool)
  | [], _, _ => []
  | (sh, w) :: ls, t, va =>
    ((List.range (2 ^ w)).map fun i =>
      let e := s.wordAt (kTower (t + 8 * i))
      let v := va + i * 2 ^ sh
      if sh == 16 then (if leafOk e false then [(v, e, false)] else [])
      else if sh == 21 && e.getLsbD 1 then (if leafOk e true then [(v, e, true)] else [])
      else if isPointer e then s.leaves ls ((e.extractLsb' 8 31).toNat * 256) v
      else []).flatten

/-- The TT 0 pages of a context that lie in this device: those of its tables, and the stack pages of its groups
(DEDUCED, log 86). -/
def markable (s : State) (x : Nat) : List SnapPage :=
  let mapped := (s.leaves levels ((s.ctx x).ptroot.toNat % 2 ^ 39 / 4096 * 4096) 0).filter fun l => leafTT l.2.1 == 0 && leafPresent l.2.1
  let combs := (s.combs.filter fun c => s.ctxOf c == x) ++ ((s.ctx x).saved.filter fun v => !v.back).map fun v => v.comb
  mapped.map (fun l => { va := l.1, tower := leafAddr l.2.1 / 65536, big := l.2.2 })
    ++ (combs.map fun c => c.groups.filterMap fun g => g.stack.map fun p => ({ va := stackVa c.core g, tower := p } : SnapPage)).flatten

/-! ### Layout (R346) -/

end State

/-- Bytes of a page's content: its payload, then its sidecars. -/
def SnapPage.size (p : SnapPage) : Nat := (if p.big then 32 else 1) * (65536 + 16384)

/-- Where the page contents begin. -/
def snapBase (q n : Nat) : Nat := (0x1000 + 16 * q + 16 * n + 65535) / 65536 * 65536

/-- Content offsets of pages from one on. -/
def snapOffsets : Nat → List SnapPage → List Nat
  | _, [] => []
  | o, p :: ps => o :: snapOffsets (o + p.size) ps

/-- Bytes of an image. -/
def snapSize (pages : List SnapPage) (n : Nat) : Nat := snapBase pages.length n + (pages.map SnapPage.size).sum

/-- A job entry of an image. -/
def SnapJob.bytes (j : SnapJob) : List Byte :=
  leBytes 8 (j.batch.toNat * 2 ^ 32 + j.index % 65536 * 65536 + j.gslot * 1024 + coreX j.core * 64 + coreY j.core * 4)
    ++ leBytes 8 (j.status * 256 + j.eng * 16 + j.op)

/-- The header, page entries and job entries of an image. -/
def snapHead (cid step : Nat) (pages : List SnapPage) (jobs : List SnapJob) : List Byte :=
  let h := leBytes 8 0x53 ++ leBytes 8 cid ++ leBytes 8 step ++ leBytes 8 pages.length ++ leBytes 8 jobs.length
  let os := snapOffsets (snapBase pages.length jobs.length) pages
  h ++ List.replicate (4096 - h.length) 0
    ++ ((pages.zip os).map fun x => leBytes 8 (x.1.va + if x.1.big then 1 else 0) ++ leBytes 8 x.2).flatten
    ++ (jobs.map SnapJob.bytes).flatten

namespace State

/-- The record of a job that has no status yet (R343): its place in its batch, or in the batch that the open jobs will
form. -/
def snapJob (s : State) (j : Job) : SnapJob :=
  let g := (s.groupHome? j.comb j.group).getD {}
  let place : W32 × Nat := match g.batches.find? fun b => b.jobs.any fun y => y.num == j.num with
    | some b => (b.num, indexIn j.num b.jobs 0)
    | none => (g.closed + 1, indexIn j.num g.openJobs 0)
  { batch := place.1, index := place.2, gslot := g.gslot, core := j.core, eng := jobEng j.card, op := jobOp j.card, status := 0 }

/-- The chunks in flight of a collective job that has no status yet (R343). -/
def snapChunks (j : Job) : List SnapChunk :=
  match j.phase, j.coll with
  | .running, some c =>
    let d := c.desc
    ((List.range c.chunks).filter fun i => !c.bad.contains i && !c.got.any fun x => x.2 == i).map fun i =>
      { cid := wBits (getAt d 0) 16 16, step := (getAt d 1).toNat, chunk := i }
  | _, _ => []

/-! ### The cut (R343, R344) -/

def modSnap (s : State) (job : Nat) (f : Snap → Snap) : State :=
  { s with snaps := s.snaps.map fun n => if n.job == job then f n else n }

/-- Ends a snapshot whose image cannot be written: marks and shadows go, and the arm job ends with a status. -/
def failSnap (s : State) (n : Snap) (code detail : Nat) : State :=
  (s.dropSnap n code).modJob n.job fun j => { j with phase := match j.phase with | .ending c _ => .ending c detail | p => p }

/-- An arm job whose pages have all drained ends with 0x01 (R345). -/
def snapDone (s : State) (job : Nat) : State :=
  match s.snaps.find? fun n => n.job == job with
  | none => s
  | some n =>
    if n.cut && n.pages.all fun p => p.done then
      { s with snaps := s.snaps.filter fun x => x.job != job }.modJob job fun j => { j with phase := .ending 1 0 }
    else s

/-- The cut point of one snapshot (R343): pages are marked, jobs without a status and chunks in flight are recorded in one
move; a page that was copied before keeps its copy (R344). -/
def cutOne (s : State) (n : Snap) : State :=
  match s.job? n.job with
  | none => s
  | some j =>
    let same := fun (e p : SnapPage) => e.tower == p.tower && e.big == p.big
    let pages := (s.markable n.ctx).map fun p => { p with shadow := ((n.pages.find? fun e => same e p).map fun e => e.shadow).getD [] }
    let gone := n.pages.filter fun e => !pages.any fun p => same e p
    let s := s.freePagesOf ((gone.map fun e => e.shadow.map fun x => x.2).flatten)
    let mine := s.jobs.filter fun x => x.ctx == n.ctx
    let jobs := mine.map s.snapJob
    let chunks := (mine.map snapChunks).flatten
    if n.extent < snapSize pages jobs.length then s.failSnap n 0x14 0
    else
      let head := snapHead n.cid n.step pages jobs
      let g := s.range j .write false n.dest.toNat head.length
      match g.fail with
      | some e => g.s.failSnap n (if e.1 = 0 then 0x15 else e.1) e.2
      | none =>
        let ws := byteWrites g.ps n.dest.toNat head []
        let owed := head.length + (pages.map fun p => 8 + 81920 * if p.big then 32 else 1).sum
        ((g.s.modSnap n.job fun x => { x with cut := true, pages := pages, jobs := jobs, chunks := chunks }).modJob n.job
          fun j => { j with writes := ws, owed := owed }).snapDone n.job

/-- The cut point of step `step` of collective `cid`: the spire accepts the device's own contribution (R343)
(DEDUCED, log 87). -/
def cutAt (s : State) (cid step : Nat) : State :=
  if s.spire.contributed.contains (cid, step) then s
  else
    let s : State := { s with spire := { s.spire with contributed := (cid, step) :: s.spire.contributed } }
    (s.snaps.filter fun n => !n.cut && n.cid == cid && n.step == step).foldl (fun s n => s.cutOne n) s

/-- A write from a device whose own cut point for a snapshot has passed arrives at a page that is not yet marked: the page
is copied first, all of it (R344). -/
def copyEarly (s : State) (cuts : List (Nat × Nat)) (k : Nat) : State :=
  let line := if isSide k then sideLine k else k
  if keyRegion line != 0 then s
  else
    let page := keyAddr line / 65536
    let within := fun (p : SnapPage) => p.tower ≤ page && page < p.tower + (if p.big then 32 else 1)
    (s.snaps.filter fun n => !n.cut && cuts.contains (n.cid, n.step) && !n.pages.any within).foldl (fun s n =>
      match (s.markable n.ctx).find? within with
      | none => s
      | some p =>
        let k := if p.big then 32 else 1
        if (s.ctx n.ctx).resmax.toNat < s.reserved n.ctx + k then s.dropSnap n 0x1D
        else
          match s.takeShadows (p.tower / 2 ^ 20) p.tower (List.range k) with
          | none => s.dropSnap n 0x1D
          | some (l, s) => s.modSnap n.job fun x => { x with pages := { p with shadow := l } :: x.pages }) s

/-! ### The drain (R345) -/

/-- The content of a page: its payload, then its sidecars, each 64 KiB part from its shadow where it has one. -/
def snapBytes (s : State) (p : SnapPage) : List Byte :=
  let at_ := fun (i : Nat) => ((p.shadow.find? fun x => x.1 == i).map fun x => x.2).getD (p.tower + i)
  let parts := List.range (if p.big then 32 else 1)
  (parts.map fun i => s.bytesAt (kTower (at_ i * 65536)) 65536).flatten
    ++ (parts.map fun i => s.bytesAt (key 1 (at_ i * 16384)) 16384).flatten

/-- Whether a page that the drain reads has an uncorrectable line (R271). -/
def snapLost (s : State) (p : SnapPage) : Bool :=
  p.shadow.isEmpty && (List.range (512 * if p.big then 32 else 1)).any fun i => s.uncorrectable (kTower (p.tower * 65536 + 128 * i))

/-- SNAPSHOT_PAGE_DRAIN (R345): one marked page, chosen by the device, is written to the destination and DRAINED rises; the
bytes of both writes count for PENDING (R273). -/
def drainPage (s : State) (job : Nat) : State :=
  match s.snaps.find? fun n => n.job == job, s.job? job with
  | some n, some j =>
    let todo := (n.pages.zip (snapOffsets (snapBase n.pages.length n.jobs.length) n.pages)).filter fun x => !x.1.done
    match (if n.cut then todo[Config.freePick s.clk.free % (max todo.length 1)]? else none) with
    | none => s
    | some (p, off) =>
      if s.snapLost p then s.failSnap n 0x17 (p.va / 128)
      else
        let bs := s.snapBytes p
        let g := s.spend.range j .write false (n.dest.toNat + off) bs.length
        let d := g.s.range j .write false (n.desc.toNat + 24) 8
        match g.fail.orElse fun _ => d.fail with
        | some (0, _) => s.spend
        | some e => d.s.failSnap n e.1 e.2
        | none =>
          let ws := byteWrites g.ps (n.dest.toNat + off) bs [] ++ byteWrites d.ps (n.desc.toNat + 24) (leBytes 8 (n.drained + 1)) []
          let count := bs.length + 8
          let s := ws.foldl (fun s w => s.landHome (hiveOf j.core) w.data) d.s
          let s := (s.modJob job fun j => { j with owed := j.owed - count }).landCount j count
          let s := s.freePagesOf (p.shadow.map fun x => x.2)
          (s.modSnap job fun x => { x with drained := x.drained + 1, pages := x.pages.map fun q =>
            if q.va == p.va && q.tower == p.tower then { q with done := true, shadow := [] } else q }).snapDone job
  | _, _ => s

end State

/-! ### Arm and cancel (R285) -/

/-- The checks of a snapshot card (R269, R285, R343). `desc` is the descriptor as it stands at acceptance. What an arm would
land is known from its cut point on only (R273) (DEDUCED, log 75). -/
def snapshotCheck (s : State) (card : List W64) (desc : List Byte) : Check :=
  let a := (jc card 3).toNat
  { rsv := wBits (jc card 0) 0 56 != 0 || jc card 2 != 0
    align := jobOp card == 0 && !desc.isEmpty
      && s.spire.contributed.contains (wBits (dwordAt desc 0) 16 16, (dwordAt desc 1).toNat)
    src := [(a, 32)], dst := [(a, 32)], owed := if jobOp card == 0 then (s.freeW).toNat else 0 }

/-- arm (R285): the destination is host or CXL memory. -/
def armJob (s : State) (n : Nat) : State :=
  match s.startable n 5 0 with
  | none => s
  | some j =>
    let fail := fun (s : State) (code detail : Nat) => s.modJob n fun j => { j with phase := .ending code detail }
    let x := s.readPlain j false (jc j.card 3).toNat 32
    match x.fail with
    | some (0, _) => s
    | some e => fail x.s e.1 e.2
    | none =>
      let cid := wBits (dwordAt x.bytes 0) 16 16
      let step := (dwordAt x.bytes 1).toNat
      let extent := (dwordAt x.bytes 2).toNat
      let g := x.s.range j .write false (jc j.card 1).toNat extent
      match g.fail with
      | some (0, _) => s
      | some e => fail g.s e.1 e.2
      | none =>
        if x.s.spire.contributed.contains (cid, step) || g.ps.any fun p => p.tt != 2 then fail g.s 0x14 0
        else
          let snap : Snap := { job := n, ctx := j.ctx, desc := jc j.card 3, cid := cid, step := step, extent := extent, dest := jc j.card 1 }
          { g.s with snaps := snap :: g.s.snaps }.modJob n fun j => { j with phase := .running }

/-- Arm jobs of a context with a descriptor address that have no status yet, and whose drain has not ended (DEDUCED,
log 88). -/
def armsOf (s : State) (x : Nat) (desc : W64) : List Job :=
  s.jobs.filter fun o => o.ctx == x && jobEng o.card == 5 && jobOp o.card == 0 && jc o.card 3 == desc
    && match o.phase with | .ending _ _ => false | _ => true

/-- The acceptance of a cancel ends the arm jobs of its descriptor (R285). -/
def cancelArms (s : State) (x : Nat) (card : List W64) : State :=
  if jobEng card == 5 && jobOp card == 1 then
    (armsOf s x (jc card 3)).foldl (fun s o => (s.releaseSnap o.num).giveStatus o.num 0x40 0) s
  else s

/-- cancel (R285): what it cancels ended when it was accepted. -/
def cancelSnap (s : State) (n : Nat) : State :=
  match s.startable n 5 1 with
  | none => s
  | some _ => s.modJob n fun j => { j with phase := .ending 1 0 }

/-- SNAPSHOT_ARM (R285). -/
def execSnapshotArm (job : Nat) (s : State) : Out State := .next (armJob s job)

/-- SNAPSHOT_CANCEL (R285). -/
def execSnapshotCancel (job : Nat) (s : State) : Out State := .next (cancelSnap s job)

/-- SNAPSHOT_PAGE_DRAIN (R345). -/
def execSnapshotPageDrain (job : Nat) (s : State) : Out State := .next (s.drainPage job)

end Sys2Proof.Machine
end

