-- ==== Sys2Proof/Machine/Spire.lean ====
section
/-! DEFINITION. The collective sequencer and the spire's reduction slots (R284, R333 to R342). -/

namespace Sys2Proof.Machine

/-! ### Descriptors (R284) -/

/-- Fields of a collective descriptor. -/
structure CDesc where
  rop   : Nat
  fmt   : Nat
  blk   : Nat
  nanp  : Bool
  pers  : Bool
  cid   : Nat
  p     : Nat
  step  : Nat
  tmo   : Nat
  chunk : Nat
  peers : Nat
  route : Nat
  miss  : Nat
deriving DecidableEq, Repr, Inhabited

/-- Reads a collective descriptor (R284). -/
def cDesc (d : List W64) : CDesc :=
  let w := fun (i : Nat) => jc d i
  { rop := wBits (w 0) 52 4, fmt := wBits (w 0) 47 5, blk := wBits (w 0) 45 2, nanp := (w 0).getLsbD 44, pers := (w 0).getLsbD 43
    cid := wBits (w 0) 16 16, p := wBits (w 0) 0 16 + 1, step := (w 1).toNat, tmo := wBits (w 2) 32 32, chunk := wBits (w 2) 0 32
    peers := wBits (w 3) 0 56, route := wBits (w 4) 0 56, miss := wBits (w 5) 0 56 }

/-- The element type of a collective: any type with a block form that is legal for it (R48, R49). -/
def collFmt (d : CDesc) : Option Fmt :=
  match Fmt.ofCode d.fmt with
  | some t => if t.blkOk d.blk then some t else none
  | none => none

/-- Contribution bytes of a collective card. -/
def collBytes (card : List W64) : Nat := wBits (jc card 0) 0 32

/-- Chunks of a contribution. -/
def collChunks (card : List W64) (d : CDesc) : Nat := if d.chunk = 0 then 0 else (collBytes card + d.chunk - 1) / d.chunk

/-- Bytes of the result at JC2 (R284). -/
def resultBytes (card : List W64) (d : CDesc) : Nat :=
  match jobOp card with
  | 1 => collBytes card / d.p
  | 2 => d.p * collBytes card
  | _ => collBytes card

/-- The checks of a collective card (R269, R284, R336, R337) with the descriptor as read at acceptance
(DEDUCED, log 84). -/
def collCheck (card d : List W64) : Check :=
  let k := cDesc d
  let op := jobOp card
  let n := collBytes card
  let a := (jc card 3).toNat
  let isInt := match Fmt.ofCode k.fmt with | some t => (intSigned t).isSome | none => false
  let fixed := wBits (jc card 0) 32 24 != 0 || wBits (jc d 0) 56 8 != 0 || wBits (jc d 0) 32 11 != 0 || jc d 7 != 0
    || ((List.range 3).any fun i => wBits (jc d (3 + i)) 56 8 != 0)
  let fields := k.p < 2 || 1024 < k.p || 3 < k.rop || (k.nanp && (k.rop == 0 || isInt)) || (op != 4 && jc d 4 != 0)
  let sizes := k.chunk == 0 || k.chunk % 128 != 0 || n % 128 != 0 || (op == 1 && n % (128 * k.p) != 0)
  let scaled := k.blk != 0 && ((jc card 1).toNat % 128 != 0 || (jc card 2).toNat % 128 != 0)
  { rsv := fixed || fields, form := (collFmt k).isNone, align := a % 64 != 0 || sizes || scaled
    src := [((jc card 1).toNat, n), (a, 64), (k.peers, 2 * k.p), (k.route, if op = 4 then 32 else 0)]
    dst := [((jc card 2).toNat, resultBytes card k), (k.miss, (k.p + 7) / 8), (a + 48, 8)]
    owed := resultBytes card k }

/-! ### Combining (R336) -/

/-- The element values of a packet's payload. -/
def packNums (t : Fmt) (p : Packet) : List Num :=
  let ln := fun (l : Nat) => some ((p.payload.drop (128 * l)).take 128, (p.side.drop (32 * l)).take 32)
  let x : Panel := { t := t, blk := p.blk, rows := 1, line := ln }
  (List.range (p.payload.length / 128 * lineElems t)).map fun i => (panelNum x 0 i).1

/-- x ⊕ y (R336). -/
def collOp (rop : Nat) (x y : Num) : Num :=
  match rop with
  | 0 => if x.isNan || y.isNan then .nan false else decodeNum .f32 (toF32 (Num.add false x y).1).1
  | 1 => numMax x y
  | 2 => numMin x y
  | _ => numMax x.abs y.abs

/-- Combines the values of one position, and counts the NaNs left out (R336). -/
def collPos (rop : Nat) (nanp : Bool) (xs : List Num) : Num × Nat :=
  let ys := if nanp then xs.filter fun x => !x.isNan else xs
  (match ys with
    | [] => if rop = 3 then .fin false 0 0 else .nan false
    | y :: r => r.foldl (collOp rop) y, xs.length - ys.length)

/-- An i32 sum wraps (R336). -/
def wrapSum (xs : List Num) : Num :=
  let one := fun (x : Num) => match x with
    | .fin s m e => Num.unitsAt s m e (min e 0)
    | _ => 0
  let v := xs.foldl (fun (a : Int) x => a + one x) 0
  Num.ofInt ((BitVec.ofInt 32 v).toInt)

/-- What combining some payloads gives: payload, sidecars, NaNs left out, flags. -/
structure Combined where
  bytes : List Byte := []
  side  : List Byte := []
  skip  : Nat := 0
  fl    : Fl := {}
deriving DecidableEq, Repr, Inhabited

/-- Inserts a packet by CONTRIB. -/
def insertPack (p : Packet) : List Packet → List Packet
  | [] => [p]
  | q :: qs => if p.contrib < q.contrib then p :: q :: qs else q :: insertPack p qs

/-- Combines packets in ascending CONTRIB order, and requantises the result (R336). -/
def combinePacks (ps : List Packet) : Combined :=
  match ps.foldl (fun l p => insertPack p l) [] with
  | [] => {}
  | p :: r =>
    match Fmt.ofCode p.fmt with
    | none => { bytes := p.payload, side := p.side }
    | some t =>
      let cols := (p :: r).map fun q => packNums t q
      let n := (cols.map fun c => c.length).foldl max 0
      let at_ := fun (i : Nat) => cols.filterMap fun c => (c.drop i).head?
      let pos := fun (i : Nat) => if t == Fmt.i32 && p.rop == 0 then (wrapSum (at_ i), 0) else collPos p.rop p.nanp (at_ i)
      let rs := (List.range n).map pos
      let out := panelWrite t p.blk {} 1 n (fun _ i => getAt (rs.map fun x => x.1) i) (fun _ i => i)
      let side := if p.blk = 0 then [] else (out.1.map fun l => l.2).flatten
      { bytes := (out.1.map fun l => l.1).flatten, side := side, skip := (rs.map fun x => x.2).sum, fl := out.2 }

/-! ### Link coding (R342) -/

/-- A packet as the link compressor sends it, when the queue stands above LCTHR: coded if that is shorter. -/
def linkCode (p : Packet) : Packet :=
  let b := linkCoded p.payload
  { p with payload := b.1, coded := b.2 }

/-- A packet as the receiving spire decodes it; none when the coding is invalid or of another length. -/
def linkDecode (p : Packet) : Option Packet :=
  if p.coded then (linkDecoded p.len p.payload).map fun b => { p with payload := b, coded := false }
  else if p.payload.length = p.len then some p else none

/-! ### The header (R333) -/

/-- The hop entries of two dwords, or of the last 24 bytes of a route block (R333, R338). -/
def hopBytes (hops : List (Nat × Nat)) : List Byte :=
  let bs := ((hops.take 8).map fun h => leBytes 2 (h.1 % 16 * 4096 + h.2 % 1024)).flatten
  bs ++ List.replicate (16 - bs.length) 0

/-- The 64 bytes of a packet's header. -/
def packetHeader (p : Packet) : List Byte :=
  let b := fun (x : Bool) => if x then 1 else 0
  leBytes 8 (b p.coded * 2 ^ 63 + b p.pt * 2 ^ 62 + p.nhop % 16 * 2 ^ 58 + p.rop % 16 * 2 ^ 52 + p.fmt % 32 * 2 ^ 47
      + p.blk % 4 * 2 ^ 45 + b p.nanp * 2 ^ 44 + b p.pers * 2 ^ 43 + p.src % 1024 * 2 ^ 32 + p.cid % 65536 * 2 ^ 16 + p.chunk % 65536)
    ++ leBytes 8 p.step
    ++ leBytes 8 (p.contrib % 65536 * 2 ^ 48 + p.ncont % 65536 * 2 ^ 32 + p.len % 2 ^ 32)
    ++ hopBytes p.hops ++ List.replicate 24 0

/-- `n` hop entries from a byte list on. -/
def hopsOf (bs : List Byte) (n : Nat) : List (Nat × Nat) :=
  (List.range (min n 8)).map fun i =>
    let e := leNat ((bs.drop (2 * i)).take 2)
    (e / 4096, e % 1024)

/-- A packet as its header and its payload tell it. What a result packet tells its receiver beside them, for which the
header has no field, stays with it (DESIGN CHOICE, log 113). -/
def ofWire (p : Packet) : Packet :=
  let h := packetHeader p
  let w0 := dwordAt h 0
  let w2 := dwordAt h 2
  { coded := w0.getLsbD 63, pt := w0.getLsbD 62, nhop := wBits w0 58 4, rop := wBits w0 52 4, fmt := wBits w0 47 5, blk := wBits w0 45 2
    nanp := w0.getLsbD 44, pers := w0.getLsbD 43, src := wBits w0 32 10, cid := wBits w0 16 16, chunk := wBits w0 0 16
    step := (dwordAt h 1).toNat, contrib := wBits w2 48 16, ncont := wBits w2 32 16, len := wBits w2 0 32
    hops := hopsOf (h.drop 24) (wBits w0 58 4), payload := p.payload, side := p.side, nskip := p.nskip, flags := p.flags }

/-- A route block's hops (R333, R338). -/
def routeHops (bs : List Byte) : List (Nat × Nat) := hopsOf (bs.drop 8) (wBits (dwordAt bs 0) 0 4)

/-- Whether a route block keeps the field rules of R338, for the device `me`. -/
def routeOk (bs : List Byte) (me : Nat) : Bool :=
  let w := dwordAt bs 0
  let n := wBits w 0 4
  let hs := routeHops bs
  let first := match hs with | (o, d) :: _ => o == 1 && d == me | [] => false
  wBits w 32 32 == 0 && wBits w 4 12 == 0 && 1 ≤ n && n ≤ 8 && dwordAt bs 3 == 0
    && (wBits w 16 16 != 0) == first
    && (List.range n).all fun i => leNat ((bs.drop (8 + 2 * i)).take 2) / 1024 % 4 == 0

namespace State

def modSpire (s : State) (f : Spire → Spire) : State := { s with spire := f s.spire }

/-- Changes a job's part in a collective. -/
def modColl (s : State) (n : Nat) (f : Coll → Coll) : State := s.modJob n fun j => { j with coll := j.coll.map f }

/-- Decides the result of a job that does not take part. -/
def decideJob (s : State) (n code detail : Nat) : State := s.modJob n fun j => { j with phase := .ending code detail }

/-- Notes that chunks of a running job have failed: the first failure decides its status (R340). -/
def failChunks (s : State) (n : Nat) (e : Nat × Nat) (ks : List Nat) : State :=
  s.modColl n fun c => { c with fail := c.fail.orElse (fun _ => some e), bad := c.bad ++ ks.filter fun k => !c.bad.contains k }

/-! ### Verdicts and sending (R333, R334, R340) -/

/-- The status that a verdict gives: a failure for late and refused packets. -/
def verdictFail (v : Verdict) : Option Nat :=
  match v with
  | .late => some 0x1A
  | .refused => some 0x1C
  | _ => none

/-- Collective jobs of a packet's CID and STEP that have no status yet. -/
def jobsFor (s : State) (p : Packet) : List Job :=
  s.jobs.filter fun j => match j.coll with
    | some c => (cDesc c.desc).cid == p.cid && (cDesc c.desc).step == p.step
    | none => false

/-- A packet of this device has come back over the wire and met its end here: the local jobs of its CID and STEP that wait for a
verdict on its chunk hear it (DEDUCED, log 132). -/
def tellOwn (s : State) (p : Packet) (v : Verdict) : State :=
  (s.jobsFor p).foldl (fun s j => s.modColl j.num fun c =>
    if c.away.contains p.chunk then
      { c with away := c.away.erase p.chunk, far := c.far ++ (verdictFail v).toList
               bad := if (verdictFail v).isSome then c.bad ++ [p.chunk] else c.bad }
    else c) s

/-- Tells a packet's sender what became of it: its local jobs, or another device, over the link that PODEN opens (R323,
R340). -/
def tell (s : State) (p : Packet) (v : Verdict) : State :=
  let s := p.owners.foldl (fun s n =>
    let s := s.modColl n fun c => { c with here := c.here - 1 }
    match verdictFail v with
    | some code => s.failChunks n (code, 0) [p.chunk]
    | none => s) s
  if !p.owners.isEmpty then s
  else if p.src == s.dev.devid.toNat then s.tellOwn p v
  else if s.dev.poden then s.modSpire fun x => { x with verdicts := (p, v) :: x.verdicts }
  else s.modSpire fun x => { x with verdHeld := x.verdHeld ++ [(p, v)] }

/-- Sends a packet to its next hop: a hop at this device crosses no link (R333); with no hop left it is refused (R334). The
station codes its payload when its queue stands high (R342), and holds it while PODEN = 0 (R323). -/
def sendOn (s : State) (p : Packet) : State :=
  match p.hops with
  | [] => s.tell p .refused
  | (_, d) :: _ =>
    if p.nhop = 0 then s.tell p .refused
    else if d == s.dev.devid.toNat then s.modSpire fun x => { x with loc := x.loc ++ [p] }
    else
      let q := { p with owners := [] }
      let q := if s.queueHigh then linkCode q else q
      let s := p.owners.foldl (fun s n => s.modColl n fun c => { c with here := c.here - 1, away := c.away ++ [p.chunk] }) s.spend
      if s.dev.poden then s.modSpire fun x => { x with sent := q :: x.sent }
      else s.modSpire fun x => { x with packHeld := x.packHeld ++ [q] }

/-- A new packet of this device: each of its jobs waits for its verdict. -/
def postPacket (s : State) (p : Packet) : State :=
  (p.owners.foldl (fun s n => s.modColl n fun c => { c with here := c.here + 1 }) s).sendOn p

/-! ### Slots (R335, R339, R341) -/

/-- The slot that a packet's key names. -/
def slotFor (s : State) (p : Packet) : Option Slot :=
  s.spire.slots.find? fun x => x.cid == p.cid && x.chunk == p.chunk && x.pers == p.pers && (p.pers || x.step == p.step)

def modSlot (s : State) (n : Nat) (f : Slot → Slot) : State :=
  s.modSpire fun x => { x with slots := x.slots.map fun y => if y.num == n then f y else y }

/-- Running collective jobs of a CID and step. -/
def collJobs (s : State) (cid step : Nat) : List Job :=
  s.jobs.filter fun j => j.phase == .running && match j.coll with
    | some c => (cDesc c.desc).cid == cid && (cDesc c.desc).step == step
    | none => false

/-- Whether an instance with PERS = 1 is busy: another local job of its CID, but for those of the same step that share the
instance, has no status yet (R341) (DEDUCED, log 83). -/
def persBusy (s : State) (j : Job) (d : CDesc) : Bool :=
  d.pers && s.jobs.any fun o => o.num != j.num && match o.coll with
    | some c => o.num < j.num && (cDesc c.desc).cid == d.cid && ((cDesc c.desc).step != d.step || hiveOf o.core == hiveOf j.core)
    | none => false

/-- The EXPECT and the remaining route that a job gives to slots (R335, R337, R338), from its acceptance on (R339): of OP 4,
those of its route block as it stands (DEDUCED, log 133); EXPECT 0 for none. -/
def gives (s : State) (j : Job) : Nat × List (Nat × Nat) :=
  match j.coll, j.phase with
  | some c, .running => (c.expect, c.route)
  | some c, .waiting =>
    let d := cDesc c.desc
    let me := s.dev.devid.toNat
    if s.persBusy j d then (0, [])
    else if jobOp j.card ≤ 1 then (d.p, [(2, me)])
    else if jobOp j.card = 4 then
      let x := (s.placeView (hiveOf j.core)).readPlain j false d.route 32
      if x.fail.isNone && routeOk x.bytes me then (wBits (dwordAt x.bytes 0) 16 16, (routeHops x.bytes).tail) else (0, [])
    else (0, [])
  | _, _ => (0, [])

/-- The job that gives the EXPECT of slots of a CID and step, if it has been accepted (R335, R338, R339). -/
def giver (s : State) (cid step : Nat) : Option Job :=
  s.jobs.find? fun j => (s.gives j).1 != 0 && match j.coll with
    | some c => (cDesc c.desc).cid == cid && (cDesc c.desc).step == step
    | none => false

/-- A late packet: dropped and counted (R339). -/
def lateDrop (s : State) (p : Packet) : State :=
  let s : State := { s with dev := { s.dev with latecnt := s.dev.latecnt + 1 } }
  let n := ((s.spire.late.find? fun x => x.1 == p.cid).map fun x => x.2).getD 0
  (s.modSpire fun x => { x with late := (p.cid, n + 1) :: x.late.filter fun y => y.1 != p.cid }).tell p .late

/-- The key of a slot or of a packet: with PERS = 1 it names no STEP (R335). -/
def slotKey (cid step chunk : Nat) (pers : Bool) : Nat × Option Nat × Nat := (cid, if pers then none else some step, chunk)

/-- Records an expired key on the list of the last 512 (R339). -/
def expireKey (s : State) (x : Slot) : State :=
  s.modSpire fun y => { y with expired := (slotKey x.cid x.step x.chunk x.pers :: y.expired).take 512 }

/-- Ranks that no packet of a slot covers. -/
def absentRanks (p : Nat) (ps : List Packet) : List Nat :=
  (List.range p).filter fun r => !ps.any fun q => q.contrib ≤ r && r < q.contrib + q.ncont

/-- The MISS bit map of a job (R339). -/
def missBytes (p : Nat) (miss : List Nat) : List Byte :=
  leBytes ((p + 7) / 8) ((List.range p).foldl (fun a r => if miss.contains r then a + 2 ^ r else a) 0)

/-- Writes MISS of the job that gave a slot its EXPECT (R339) (DEDUCED, log 85). -/
def writeMiss (s : State) (n : Nat) (absent : List Nat) : State :=
  match s.job? n with
  | none => s
  | some j =>
    match j.coll with
    | none => s
    | some c =>
      let d := cDesc c.desc
      let miss := c.miss ++ absent.filter fun r => !c.miss.contains r
      let bs := missBytes d.p miss
      let g := s.range j .write false d.miss bs.length
      match g.fail with
      | some e => g.s.failChunks n (if e.1 = 0 then 0x15 else e.1, e.2) []
      | none =>
        (g.s.modColl n fun c => { c with miss := miss }).modJob n fun j => { j with
          writes := j.writes ++ (byteWrites g.ps d.miss bs []).map fun w => { w with count := 0 } }

/-- The result packet of a slot (R334, R336): it carries the remaining route of the job that gave EXPECT. -/
def slotResult (s : State) (x : Slot) (partly : Bool) : State :=
  let ps := x.packs.foldl (fun l p => insertPack p l) []
  match ps with
  | [] => s
  | p :: _ =>
    let r := combinePacks ps
    s.postPacket { p with
      pt := partly || ps.any (fun q => q.pt), coded := false, nhop := x.route.length, hops := x.route, src := s.dev.devid.toNat
      ncont := (ps.map fun q => q.ncont).sum, len := r.bytes.length, payload := r.bytes, side := r.side
      owners := x.job.toList, nskip := (ps.map fun q => q.nskip).sum + r.skip
      flags := ps.foldl (fun a q => a ||| q.flags) r.fl.bits }

/-- A slot with what the job that gives its EXPECT says. -/
def armed (s : State) (x : Slot) (j : Job) : Slot :=
  match j.coll with
  | none => x
  | some c =>
    let g := s.gives j
    { x with expect := some g.1, job := some j.num, route := g.2, tmo := (cDesc c.desc).tmo, ranks := (cDesc c.desc).p }

/-- A slot that is allocated now for a packet (R335). -/
def newSlot (s : State) (p : Packet) : Slot :=
  let x : Slot := { num := s.clk.serial, cid := p.cid, step := p.step, chunk := p.chunk, pers := p.pers, born := s.clk.cycle }
  match s.giver p.cid p.step with
  | some j => s.armed x j
  | none => x

/-- Frees a slot: a packet held for the next instance starts it, its slot standing ready as it comes from the spire's queue
(R341). -/
def freeSlot (s : State) (x : Slot) : State :=
  match x.next with
  | none => s.modSpire fun y => { y with slots := y.slots.filter fun z => z.num != x.num }
  | some p =>
    let n := s.newSlot p
    s.bump.modSpire fun y => { y with slots := (y.slots.filter fun z => z.num != x.num) ++ [n], waiting := y.waiting ++ [p] }

/-- A slot is complete when its contributions reach EXPECT (R335). -/
def testSlot (s : State) (n : Nat) : State :=
  match s.spire.slots.find? fun x => x.num == n with
  | none => s
  | some x =>
    match x.expect with
    | none => s
    | some e => if e ≤ (x.packs.map fun p => p.ncont).sum then (s.freeSlot x).slotResult x false else s

/-- A packet joins a slot: it is held until the slot's EXPECT is known (R339). `p` has its hop popped. -/
def joinSlot (s : State) (x : Slot) (p : Packet) : State :=
  if x.expect.isSome then ((s.modSlot x.num fun y => { y with packs := y.packs ++ [p] }).tell p .accepted).testSlot x.num
  else s.modSlot x.num fun y => { y with held := y.held ++ [p] }

/-- A job that gives EXPECT has been accepted, or has started: the slots that wait for it accept the packets that they hold, and
their timeout is the job's (R338, R339). -/
def armSlots (s : State) (j : Job) : State :=
  match j.coll with
  | none => s
  | some c =>
    let d := cDesc c.desc
    if (s.gives j).1 = 0 then s
    else (s.spire.slots.filter fun x => x.cid == d.cid && x.step == d.step && x.expect.isNone).foldl (fun s x =>
      let s := s.modSlot x.num fun y => { (s.armed y j) with packs := y.packs ++ y.held, held := [] }
      (x.held.foldl (fun s p => s.tell p .accepted) s).testSlot x.num) s

/-- A packet enters its slot (R335, R339, R341). `whole` is the packet before its hop was popped: it waits when no slot is
free. -/
def enterSlot (s : State) (whole p : Packet) : State :=
  match s.slotFor p with
  | some x =>
    if x.step == p.step then s.joinSlot x p
    else if p.step < x.step then s.lateDrop p
    else if x.next.isNone then s.modSlot x.num fun y => { y with next := some whole }
    else s.tell p .refused
  | none =>
    if s.spire.expired.contains (slotKey p.cid p.step p.chunk p.pers) then s.lateDrop p
    else if 512 ≤ s.spire.slots.length then s.modSpire fun x => { x with waiting := x.waiting ++ [whole] }
    else
      let x := s.newSlot p
      (s.bump.modSpire fun y => { y with slots := y.slots ++ [x] }).joinSlot x p

/-! ### Delivery (R334, R337) -/

/-- Where a part of a payload goes: the offset in the payload, the bytes, and the offset in the result (R337). -/
def placeOf (j : Job) (c : Coll) (p : Packet) : Nat × Nat × Nat :=
  let d := cDesc c.desc
  match jobOp j.card with
  | 1 =>
    let share := collBytes j.card / d.p
    let a := p.chunk * d.chunk
    let lo := max a (c.rank * share)
    let hi := min (a + p.payload.length) ((c.rank + 1) * share)
    (lo - a, hi - lo, lo - c.rank * share)
  | 2 => (0, p.payload.length, p.contrib * collBytes j.card + p.chunk * d.chunk)
  | _ => (0, p.payload.length, p.chunk * d.chunk)

/-- Writes a delivered payload to the destination of one job. -/
def deliverTo (s : State) (p : Packet) (j : Job) : State :=
  match j.coll with
  | none => s
  | some c =>
    let w := placeOf j c p
    let a := (jc j.card 2).toNat + w.2.2
    let g := s.range j .write (p.blk != 0) a w.2.1
    match g.fail with
    | some e => g.s.failChunks j.num e [p.chunk]
    | none =>
      let bs := (p.payload.drop w.1).take w.2.1
      let sides := if p.blk = 0 then [] else (List.range ((w.2.1 + 127) / 128)).map fun l => (p.side.drop (32 * (w.1 / 128 + l))).take 32
      let part := (if jobOp j.card = 2 then p.contrib else 0, p.chunk)
      (g.s.modColl j.num fun c => { c with got := part :: c.got, partly := c.partly || p.pt, nskip := c.nskip + p.nskip }).modJob j.num
        fun j => { j with writes := j.writes ++ byteWrites g.ps a bs sides, flags := j.flags ||| p.flags }

/-- Local jobs of an instance that have received a status since the others were accepted. -/
def partsGone (js : List Job) : Nat := (js.map fun j => (j.coll.map fun c => c.gone).getD 0).foldl max 0

/-- Whether a delivery waits: a local job of the instance has not started or has not been accepted, or the pager has to make
room for a part of its destination (R271, R334, R337) (DEDUCED, log 135). -/
def deliveryWaits (s : State) (p : Packet) (js : List Job) : Bool :=
  let mine := js.map fun j => match j.coll with | some c => (c.peers.filter fun e => e == s.dev.devid.toNat).length | none => 0
  js.any fun j => j.phase == .waiting || js.length + partsGone js < mine.foldl max 0 || (match j.coll with
    | some c =>
      let w := placeOf j c p
      j.phase == .running && (s.range j .write (p.blk != 0) ((jc j.card 2).toNat + w.2.2) w.2.1).fail.any fun e => e.1 == 0
    | none => false)

/-- Delivers a payload to the local jobs of its CID and STEP; a packet with no such job is refused (R334). `on` sends it on
as well. -/
def deliver (s : State) (whole p : Packet) (on : Bool) : State :=
  match s.jobsFor p with
  | [] => s.tell p .refused
  | js =>
    if s.deliveryWaits p js then s.modSpire fun x => { x with waiting := x.waiting ++ [whole] }
    else
      let s := (js.filter fun j => j.phase == .running).foldl (fun s j => s.deliverTo p j) s
      if on then s.sendOn p else s.tell p .delivered

/-- A packet arrives, or one of this device's or of the spire's queue is acted on: it is decoded (R342), and refused when
its hop 0 names another device or NHOP is 0 (R334). `act` takes the packet and the packet with the hop popped. -/
def arrival (s : State) (p : Packet) (ops : Nat → Bool) (act : State → Packet → Packet → State) : State :=
  let q := s.spire
  let go := fun (s0 : State) (p : Packet) =>
    match p.hops with
    | [] => s0.tell p .refused
    | (o, d) :: rest =>
      if p.nhop = 0 || d != s.dev.devid.toNat then s0.tell p .refused
      else if ops o then act s0 p { p with hops := rest, nhop := p.nhop - 1 }
      else s
  if q.loc.contains p then go (s.modSpire fun x => { x with loc := x.loc.erase p }) p
  else if q.waiting.contains p then go (s.modSpire fun x => { x with waiting := x.waiting.erase p }) p
  else if !s.dev.poden then s
  else
    match linkDecode (ofWire p) with
    | none => s.outside fun s => s.tell (ofWire p) .refused
    | some p => if 3 ≤ s.dev.astate.toNat then s else go { s with dev := { s.dev with astate := 0 } } p

/-! ### The sequencer (R337, R338) -/

/-- A contribution that has been read. -/
structure Share where
  job   : Job
  rank  : Nat
  bytes : List Byte
  sides : List (List Byte)

/-- A packet of one chunk of a contribution. -/
def chunkPacket (me : Nat) (d : CDesc) (x : Share) (c : Nat) : Packet :=
  let bs := (x.bytes.drop (c * d.chunk)).take d.chunk
  { rop := d.rop, fmt := d.fmt, blk := d.blk, nanp := d.nanp, pers := d.pers, src := me, cid := d.cid, chunk := c, step := d.step
    contrib := x.rank, ncont := 1, len := bs.length, payload := bs
    side := ((x.sides.drop (c * d.chunk / 128)).take (bs.length / 128)).flatten, owners := [x.job.num] }

/-- The packet that combines the local contributions to a chunk in hive order (R336). -/
def localPacket (me : Nat) (d : CDesc) (xs : List Share) (c : Nat) : Option Packet :=
  match xs.map fun x => chunkPacket me d x c with
  | [] => none
  | [p] => some p
  | p :: ps =>
    let r := combinePacks (p :: ps)
    some { p with ncont := ps.length + 1, len := r.bytes.length, payload := r.bytes, side := r.side, nskip := r.skip
                  flags := r.fl.bits, owners := xs.map fun x => x.job.num }

/-- A packet on a route (DESIGN CHOICE, log 15). -/
def routed (p : Packet) (hops : List (Nat × Nat)) : Packet := { p with hops := hops, nhop := hops.length }

/-- The packets of a chunk (R337, R338). For OP 0 to 3 the sequencer sends one packet to every participant that needs the
chunk; there it is reduced and delivered, or delivered (log 15). -/
def chunkPackets (me : Nat) (op n : Nat) (d : CDesc) (peers : List Nat) (hops : List (Nat × Nat)) (xs : List Share) (c : Nat) :
    List Packet :=
  let ds := peers.eraseDups
  match op with
  | 2 => (xs.map fun x => ds.map fun e => routed (chunkPacket me d x c) [(2, e)]).flatten
  | 3 => ((xs.filter fun x => x.rank == 0).map fun x => ds.map fun e => routed (chunkPacket me d x c) [(2, e)]).flatten
  | 4 => (localPacket me d xs c).toList.map fun p => routed p hops
  | _ =>
    match localPacket me d xs c with
    | none => []
    | some p =>
      let share := n / d.p
      let needs := fun (e : Nat) => op == 0 || (List.range peers.length).any fun r =>
        getAt peers r == e && meets (c * d.chunk) p.len (r * share) share
      (ds.filter needs).map fun e => routed p [(1, e), (2, e)]

/-- Inserts a job by its core's hive. -/
def insertJob (j : Job) : List Job → List Job
  | [] => [j]
  | o :: os => if hiveOf j.core < hiveOf o.core then j :: o :: os else o :: insertJob j os

/-- Reads the contributions of local jobs, which take the device's ranks in hive order (R337): a job whose source cannot be
read fails. -/
def readShares (s : State) (blk : Nat) : List Job → List Nat → List Share × State
  | [], _ => ([], s)
  | j :: js, rs =>
    let r := rs.headD 0
    let s := s.modColl j.num fun c => { c with rank := r, sent := true }
    let x := s.readPlain j (blk != 0) (jc j.card 1).toNat (collBytes j.card)
    let y := (s.jobView j).readPlain j (blk != 0) (jc j.card 1).toNat (collBytes j.card)
    match x.fail with
    | some e => (x.s.failChunks j.num e (List.range ((j.coll.map fun c => c.chunks).getD 0))).readShares blk js rs.tail
    | none =>
      let t := x.s.readShares blk js rs.tail
      ({ job := j, rank := r, bytes := y.bytes, sides := y.sides } :: t.1, t.2)

/-- Sends the contribution of local jobs in one move, which is the device's cut point (R336, R343): lines that they have not
read yet are read at once. -/
def sendShares (s : State) (j : Job) (c : Coll) (js : List Job) : State :=
  let d := cDesc c.desc
  let me := s.dev.devid.toNat
  let ranks := (List.range c.peers.length).filter fun r => getAt c.peers r == me
  let t := s.readShares d.blk js (ranks ++ List.replicate (js.length - ranks.length) (ranks.getLastD 0))
  let s := t.2.cutAt d.cid d.step
  let op := jobOp j.card
  let hops := ((js.head?.bind fun o => o.coll).map fun x => x.route).getD []
  let full := if op = 4 then (match js.head?.bind fun o => (s.job? o.num).bind fun o => o.coll with
    | some x => (if x.expect = 0 then x.route else (1, me) :: x.route)
    | none => hops) else hops
  ((List.range c.chunks).map fun k => chunkPackets me op (collBytes j.card) d c.peers full t.1 k).flatten.foldl
    (fun s p => s.postPacket p) s

/-- The source range of a contribution. -/
def shareRange (o : Job) : List (Nat × Nat) := rangeLines ((jc o.card 1).toNat, collBytes o.card)

/-- Begins to read a contribution: its pages are made present (R271). -/
def beginShare (s : State) (blk : Nat) (o : Job) : State :=
  let x := s.readPlain o (blk != 0) (jc o.card 1).toNat (collBytes o.card)
  x.s.modColl o.num fun c => { c with todo := some (if x.fail.isNone then x.s.jobLines o (shareRange o) else []) }

/-- Carries on the device's contribution once all its local jobs of the instance have started (R300, R336, R337): the jobs read
their source lines one by one, in an order that is open (log 1), and then the contribution is sent. It waits for the pager
(R271), for a line that is being rebuilt (R329) and for a home that cannot be reached. -/
def contribute (s : State) (j : Job) : State :=
  match j.coll with
  | none => s
  | some c =>
    let d := cDesc c.desc
    let ranks := (List.range c.peers.length).filter fun r => getAt c.peers r == s.dev.devid.toNat
    let js := ((s.collJobs d.cid d.step).filter fun o => match o.coll with | some x => !x.sent | none => false).foldl
      (fun l o => insertJob o l) []
    let lines := fun (o : Job) => (o.coll.bind fun x => x.todo).getD []
    let held := fun (k : Nat) => s.isStale k || !s.reaches k
    if js.length + partsGone js < ranks.length || js.any fun o => waitsForPage { s := s, fail := (s.readPlain o (d.blk != 0) (jc o.card 1).toNat (collBytes o.card)).fail } then s
    else if js.any fun o => (o.coll.bind fun x => x.todo).isNone then js.foldl (fun s o => s.beginShare d.blk o) s
    else
      let all := (js.map fun o => (lines o).map fun k => (o, k)).flatten
      match all[Config.freePick s.clk.free % (all.length + 1)]? with
      | some (o, k) => if held k then s.spend
        else (s.spend.modColl o.num fun x => { x with todo := some ((lines o).erase k) }).modJob o.num fun o => { o with
          got := s.lineCells (hiveOf o.core) k ++ o.got }
      | none => if all.any fun x => held x.2 then s.spend else s.spend.sendShares j c js

/-- Whether equal device ids stand in consecutive ranks (R337). -/
def inARow : List Nat → Bool
  | [] => true
  | e :: es => (es.head? == some e || !es.contains e) && inARow es

/-- Whether an older local job of the instance holds the job's hive: at most one job per hive takes part (R337). -/
def hiveTaken (s : State) (j : Job) (d : CDesc) : Bool :=
  s.jobs.any fun o => o.num < j.num && hiveOf o.core == hiveOf j.core && match o.coll with
    | some c => (cDesc c.desc).cid == d.cid && (cDesc c.desc).step == d.step
    | none => false

/-- Starts a collective job (R337, R338). Repeated ids that do not stand in a row, and a second job of a hive, are breaches
for which R337 names no status: they get that of its other ones (DESIGN CHOICE, log 114). -/
def startColl (s : State) (n op : Nat) : State :=
  match s.startable n 4 op with
  | none => s
  | some j =>
    match j.coll with
    | none => s
    | some c =>
      let d := cDesc c.desc
      let me := s.dev.devid.toNat
      if s.persBusy j d then s.decideJob n 0x1B 0
      else
        let x := s.readPlain j false d.peers (2 * d.p)
        let y := if op = 4 then x.s.readPlain j false d.route 32 else { s := x.s }
        match x.fail.orElse fun _ => y.fail with
        | some (0, _) => s
        | some e => y.s.decideJob n e.1 e.2
        | none =>
          let v := y.s.placeView (hiveOf j.core)
          let xb := (v.readPlain j false d.peers (2 * d.p)).bytes
          let yb := if op = 4 then (v.readPlain j false d.route 32).bytes else []
          let peers := (List.range d.p).map fun i => leNat ((xb.drop (2 * i)).take 2)
          let mine := (peers.filter fun e => e == me).length
          if op = 4 && !routeOk yb me then y.s.decideJob n 0x13 0
          else if mine = 0 || !(peers.all fun e => (peers.filter fun x => x == e).length ≤ 4) || !inARow peers || s.hiveTaken j d then y.s.decideJob n 0x14 0
          else
            let hops := routeHops yb
            let reduce := op ≤ 1
            let expect := if op = 4 then wBits (dwordAt yb 0) 16 16 else if reduce then d.p else 0
            let want := op != 4 || hops.any fun h => (h.1 == 2 || h.1 == 3) && h.2 == me
            let c := { c with peers := peers, expect := expect, chunks := collChunks j.card d, want := want
                              route := if op = 4 then (if expect = 0 then hops else hops.tail) else if reduce then [(2, me)] else [] }
            let j := { j with phase := .running, coll := some c, owed := if want then j.owed else 0 }
            let s := y.s.modJob n fun _ => j
            (s.armSlots j).contribute j

/-- Sends the contribution of an instance whose jobs have started, when it could not be sent as they did: the pager had to
act (R271). -/
def contributeLate (s : State) (n op : Nat) : State :=
  match s.job? n with
  | some j => match j.phase, j.coll with
    | .running, some c => if jobEng j.card == 4 && jobOp j.card == op && !c.sent then s.contribute j else s
    | _, _ => s
  | none => s

/-! ### Status (R340) -/

/-- Parts of its result that a job still waits for. -/
def partsLeft (j : Job) (c : Coll) : List (Nat × Nat) :=
  let d := cDesc c.desc
  let share := collBytes j.card / d.p
  let cs := List.range c.chunks
  if !c.want then []
  else
    let all := match jobOp j.card with
      | 1 => (cs.filter fun k => meets (k * d.chunk) (min d.chunk (collBytes j.card - k * d.chunk)) (c.rank * share) share).map fun k => (0, k)
      | 2 => ((List.range d.p).map fun r => cs.map fun k => (r, k)).flatten
      | _ => cs.map fun k => (0, k)
    all.filter fun x => !c.got.contains x

/-- A job hears the verdicts on its packets that other devices send, in the order of its packets (R340). -/
def hear (c : Coll) (vs : List Verdict) : Coll :=
  let got := c.away.zip vs
  { c with away := c.away.drop got.length, far := c.far ++ got.filterMap fun x => verdictFail x.2
           bad := c.bad ++ got.filterMap fun x => (verdictFail x.2).map fun _ => x.1 }

/-- The status of a collective job when every chunk has been accepted, delivered or failed (R340). Which of several failures
came first, here and elsewhere, is open (log 5). -/
def collStatus (s : State) (j : Job) (c : Coll) : Option (Nat × Nat) :=
  if !c.sent || c.here != 0 || !c.away.isEmpty || !j.writes.isEmpty || (partsLeft j c).any (fun x => !c.bad.contains x.2) then none
  else
    let all := c.fail.toList ++ c.far.map fun b => (b, 0)
    some (all.getD (s.freeW.toNat % all.length) (if c.partly then 2 else 1, 0))

/-- Writes NSKIP and NLATE of a job (R339, R340), and gives it its status; it waits while the pager has to act. -/
def endColl (s : State) (j : Job) (c : Coll) (code detail : Nat) : State :=
  let d := cDesc c.desc
  let late := ((s.spire.late.find? fun x => x.1 == d.cid).map fun x => x.2).getD 0
  let a := (jc j.card 3).toNat + 48
  let g := s.range j .write false a 8
  match g.fail with
  | some (0, _) => s
  | some e => if 0x10 ≤ code then g.s.giveStatus j.num code detail else g.s.giveStatus j.num e.1 e.2
  | none =>
    let ws := byteWrites g.ps a (leBytes 8 (c.nskip % 2 ^ 32 * 2 ^ 32 + late % 2 ^ 32)) []
    let s := ws.foldl (fun s w => s.landHome (hiveOf j.core) w.data) g.s
    (s.modSpire fun x => { x with late := x.late.filter fun y => y.1 != d.cid }).giveStatus j.num code detail

/-- Whether a job that runs is cancelled after its launch's abort, or while its context's save waits for it: the device
chooses (R172, R286). -/
def lateCancel (s : State) (j : Job) : Bool :=
  let saving := (s.ctx j.ctx).pstate == 1 && j.coll.isNone && jobEng j.card != 5
  j.phase != .waiting && (((s.launch? j.launch).map (fun l => l.aborted)).getD false || saving) && s.freeW.getLsbD 0

/-- JOB_STATUS (R300, R340): a job whose result is decided and whose writes have landed receives its status; one of an aborted
launch or a context that is being saved may be cancelled instead (R286). `vs` are verdicts of other devices that arrive, over
the link that PODEN opens (R323). -/
def jobStatus (s : State) (n : Nat) (vs : List Verdict) : State :=
  match s.job? n with
  | none => s
  | some j =>
    if s.lateCancel j then (s.spend.releaseSnap n).giveStatus n 0x40 0
    else match j.phase, j.coll with
    | .ending code detail, some c => if j.writes.isEmpty then s.spend.endColl j c code detail else s
    | .ending code detail, none => if j.writes.isEmpty then s.spend.giveStatus n code detail else s.spend
    | .running, some c =>
      let c := if s.dev.poden then hear c vs else c
      let s := s.spend.modColl n fun _ => c
      match s.collStatus j c with
      | some e => s.endColl j c e.1 e.2
      | none => s
    | _, _ => s.spend

/-- SLOT_EXPIRY (R339): TMO of the job that gave EXPECT, or TMODEF, counted from the slot's allocation. -/
def expireSlot (s : State) (n : Nat) : State :=
  match s.spire.slots.find? fun x => x.num == n with
  | none => s
  | some x =>
    let us := if x.tmo = 0 then s.dev.tmodef.toNat else x.tmo
    if s.clk.cycle < x.born + 1500 * us then s
    else
      let s := (s.freeSlot x).expireKey x
      match x.expect with
      | none => x.held.foldl (fun s p => s.tell p .refused) s
      | some _ =>
        let s : State := match x.job with
          | some j => s.writeMiss j (absentRanks x.ranks x.packs)
          | none => s
        s.slotResult x true

end State

/-- ALL_REDUCE (R337). -/
def execAllReduce (job : Nat) (s : State) : Out State := .next ((s.startColl job 0).contributeLate job 0)

/-- REDUCE_SCATTER (R337). -/
def execReduceScatter (job : Nat) (s : State) : Out State := .next ((s.startColl job 1).contributeLate job 1)

/-- ALL_GATHER (R337). -/
def execAllGather (job : Nat) (s : State) : Out State := .next ((s.startColl job 2).contributeLate job 2)

/-- BROADCAST (R337). -/
def execBroadcast (job : Nat) (s : State) : Out State := .next ((s.startColl job 3).contributeLate job 3)

/-- IN_HOP_REDUCTION (R338). -/
def execInHopReduction (job : Nat) (s : State) : Out State := .next ((s.startColl job 4).contributeLate job 4)

/-- JOB_STATUS (R300, R340). -/
def execJobStatus (job : Nat) (verdicts : List Verdict) (s : State) : Out State := .next (s.jobStatus job verdicts)

/-- HOP_PASS (R334). -/
def execHopPass (p : Packet) (s : State) : Out State := .next (s.arrival p (fun o => o == 0) fun s _ p => s.sendOn p)

/-- HOP_REDUCE (R335). -/
def execHopReduce (p : Packet) (s : State) : Out State := .next (s.arrival p (fun o => o == 1) fun s w p => s.enterSlot w p)

/-- HOP_DELIVER (R334). -/
def execHopDeliver (p : Packet) (s : State) : Out State := .next (s.arrival p (fun o => o == 2) fun s w p => s.deliver w p false)

/-- HOP_COPY (R334). -/
def execHopCopy (p : Packet) (s : State) : Out State := .next (s.arrival p (fun o => o == 3) fun s w p => s.deliver w p true)

/-- HOP_INVALID (R334): an invalid HOPOP is refused. -/
def execHopInvalid (p : Packet) (s : State) : Out State := .next (s.arrival p (fun o => 4 ≤ o) fun s _ p => s.tell p .refused)

/-- SLOT_EXPIRY (R339). -/
def execSlotExpiry (slot : Nat) (s : State) : Out State := .next (s.expireSlot slot)

end Sys2Proof.Machine
end

