-- ==== Sys2Proof/Machine/Accept.lean ====
section
/-! DEFINITION. JOB_ACCEPT (R268, R269, R270, R273, R300): a GO drains, its card is checked, and its job enters the TDT. -/

namespace Sys2Proof.Machine

/-- The bytes of a block that the device reads at acceptance for a card (R281, R284, R285): none when there is no such block. -/
def acceptBlock (card : List W64) : Option (Nat × Nat) :=
  let a := (jc card 3).toNat
  match jobEng card with
  | 2 => some (a, 64)
  | 4 => some (a, 64)
  | 5 => some (a, 32)
  | _ => none

/-- The checks of a card, with the block that was read at acceptance (R269). -/
def cardCheck (s : State) (c : Comb) (card : List W64) (bs : List Byte) : Check :=
  match jobEng card with
  | 0 => transformCheck s c card
  | 1 => gatherCheck card
  | 2 => chainCheck card bs
  | 3 => bankCheck card
  | 4 => collCheck card ((List.range 8).map fun i => dwordAt bs i)
  | _ => snapshotCheck s card bs

/-- The status with which a GO is rejected, by the first check of R269 that fails; none when its job is accepted. `bad` says
that the GO data is invalid, `lost` that a collective's descriptor cannot be read (R284) (DEDUCED, log 76)
(DEDUCED, log 77). -/
def rejectCode (card : List W64) (k : Check) (bad lost : Bool) : Option Nat :=
  if jobOps (jobEng card) ≤ jobOp card then some 0x11
  else if lost then
    some (if bad || wBits (jc card 0) 32 24 != 0 then 0x13 else if (jc card 3).toNat % 64 != 0 then 0x14 else 0x15)
  else if k.rsv || bad then some 0x13
  else if k.form then some 0x12
  else if k.align then some 0x14
  else none

namespace State

/-- Jobs of a core in its TDT. -/
def tdt (s : State) (core : Nat) : List Job := s.jobs.filter fun j => j.core == core

/-- Whether the GO entry may drain (R268, R300): it may drain as a window store, the group's stores that completed before it
issued have drained, a bclose that issued before it has closed its batch (R276), and the core's TDT has a free entry. -/
def goReady (s : State) (e : SBEntry) : Bool :=
  isGo e && s.mayDrain e && !(s.coh.sb.any fun x => e.after.contains x.eid && x.eid != e.eid) && (s.tdt e.core).length < 64
    && !s.flights.any fun f => f.op == .bclose && f.sync.isSome && f.comb == e.comb && f.group == e.group && f.fid < e.fid

/-- A rejected job receives its status; a barrier that PB names breaks (R273). -/
def rejectJob (s : State) (e : SBEntry) (c : Comb) (n code : Nat) (pb : Bool) (bar : Nat) : State :=
  let s : State := if pb && code != 0x40 then
      (match s.barRef c bar with | some r => s.breakBar c r | none => s) else s
  s.recordStatus e.comb e.group n (statusEntry code 0 0) e.ctx (((s.launch? e.launch).map fun l => l.lid).getD 0)

/-- The job of an accepted card, with its footprints and its edges (R270) (DEDUCED, log 82). -/
def newJob (s : State) (e : SBEntry) (c : Comb) (n : Nat) (card : List W64) (go : W64) (k : Check) (bs : List Byte) : Job :=
  let src := (k.src.map rangeLines).flatten
  let dst := (k.dst.map rangeLines).flatten
  let coll : Option Coll := if jobEng card = 4 then some { desc := (List.range 8).map fun i => dwordAt bs i } else none
  let older := (s.tdt e.core).filter fun o => o.asid == e.asid && (footMeets src o.dst || footMeets dst o.src || footMeets dst o.dst)
  { num := n, ctx := e.ctx, asid := e.asid, launch := e.launch, comb := e.comb, core := e.core, group := e.group, card := card
    pb := go.getLsbD 15, bar := wBits go 0 15, frm := e.frm, satf := e.satf, ord := e.ord
    winBase := c.spBase.toNat, winLen := c.scratch, src := src, dst := dst, edges := older.map fun o => o.num, owed := k.owed, coll := coll }

/-- The read of a card's block at acceptance. A collective descriptor that is not 64-byte aligned is not read (DEDUCED,
log 121). -/
def blockRead (s : State) (ctx : Nat) (card : List W64) : Except (Nat × Nat) (List Byte × State) :=
  match acceptBlock card with
  | some (a, len) => if jobEng card == 4 && a % 64 != 0 then .ok ([], s) else s.devRead ctx a len
  | none => .ok ([], s)

/-- Accepts or rejects the job of a complete card; a gather or scatter of no rows is done at once (R280) (DEDUCED, log 79). -/
def acceptCard (s : State) (e : SBEntry) (c : Comb) (n : Nat) (card : List W64) (go : W64) : State :=
  let got : List Byte × State := match s.blockRead e.ctx card with
    | .ok r => r
    | .error _ => ([], s)
  let bs := match (s.placeView (hiveOf e.core)).blockRead e.ctx card with
    | .ok r => r.1
    | .error _ => []
  let s := got.2
  let pb := go.getLsbD 15
  let bar := wBits go 0 15
  let bad := wBits go 16 48 != 0 || (pb && (s.barRef c bar).isNone)
  let k := cardCheck s c card bs
  match rejectCode card k bad (jobEng card == 4 && bs.isEmpty) with
  | some code => s.rejectJob e c n code pb bar
  | none =>
    if jobEng card = 1 && (gCard card).cnt = 0 then
      s.recordStatus e.comb e.group n (statusEntry 1 0 0) e.ctx (((s.launch? e.launch).map fun l => l.lid).getD 0)
    else
    let s := cancelArms s e.ctx card
    let j := s.newJob e c n card go k bs
    let dst := j.dst
    let mark := fun (b : BatchJob) => if b.num == n then { b with dst := dst } else b
    let s := { s.spend with jobs := s.jobs ++ [j] }.modGroup e.comb e.group fun g => { g with openJobs := g.openJobs.map mark }
    if jobEng card = 4 then s.armSlots j else s

/-- Whether what a card's check reads cannot be made present yet: the job waits (R284, R326). -/
def acceptBusy (s : State) (e : SBEntry) (g : Group) : Bool :=
  match s.blockRead e.ctx (g.card.map fun w => w.getD 0) with
  | .error (0, _) => true
  | _ => false

/-- JOB_ACCEPT (R300). -/
def acceptJob (s : State) (eid : Nat) : State :=
  match s.coh.sb.find? fun e => e.eid == eid with
  | none => s
  | some e =>
    match s.comb? e.comb, s.group? e.comb e.group with
    | some c, some g =>
      if !s.goReady e || s.acceptBusy e g then s
      else
        let n := s.clk.serial
        let go := BitVec.ofNat 64 (leNat (e.data.map fun x => x.2))
        let s := s.bump.modSB fun l => l.filter fun x => x.eid != eid
        let s := s.modGroup e.comb e.group fun g => { g with
          card := List.replicate 4 none, openJobs := g.openJobs ++ [{ num := n }] }
        let pb := go.getLsbD 15
        let bar := wBits go 0 15
        if ((s.launch? e.launch).map (fun l => l.aborted)).getD true then s.rejectJob e c n 0x40 pb bar
        else if 4096 ≤ g.openJobs.length then s.rejectJob e c n 0x1E pb bar
        else if g.card.any fun w => w.isNone then s.rejectJob e c n 0x10 pb bar
        else s.acceptCard e c n (g.card.map fun w => w.getD 0) go
    | _, _ => s

end State

/-- JOB_ACCEPT (R268, R300). -/
def execJobAccept (entry : Nat) (s : State) : Out State := .next (s.acceptJob entry)

end Sys2Proof.Machine
end

