-- ==== Sys2Proof/Machine/Batch.lean ====
section
/-! DEFINITION. bclose, bwait and launch (R162, R276, R277): what happens when they issue; their steps are performed by
release moves (R294). -/

namespace Sys2Proof.Machine

/-- The operand of family 0x9, uniform (R276). -/
def batchSrcs (f : Form) : List (Src × Env.Need) := [(f.s0, { uniform := true })]

/-- bclose (R276): the record address is translated when the instruction issues. -/
def execBclose (f : Form) (s : State) : Out State :=
  runIsa .bclose f s fun e =>
    match e.check (batchSrcs f) f.dst {} with
    | some t => .trap t
    | none =>
      let act := e.active f.pred
      let a := e.uni f f.s0
      if act == 0 then .go (e.issue (e.flight .bclose f))
      else
        let fs : List LaneFault := if a == 0 then [] else
          match e.resolve 8 .write (fun t => t != 4 && t != 5 && t != 6) 0 a with
          | .inl _ => []
          | .inr x => (lanesOf act).map fun l => { x with lane := l }
        e.withFaults fs act fun e =>
          if e.active f.pred == 0 then .go (e.issue (e.flight .bclose f))
          else .go ({ e with s := e.s.spend }.issue { e.flight .bclose f with due := e.openDue, sync := some (.bclose a f.dst) })

/-- The batch that a bwait waits for (R277): the group's last closed batch when `a` lies beyond it. -/
def bwaitNum (g : Group) (a : W32) : W32 := if 2 ^ 31 ≤ (g.closed - a).toNat then g.closed else a

/-- Whether DONE has reached a batch (R277). -/
def bwaitReady (g : Group) (a : W32) : Bool := (g.done - bwaitNum g a).toNat < 2 ^ 31

/-- bwait (R277): a waiting instruction. -/
def bwaitPlan (e : Env) (f : Form) : Plan :=
  match e.check (batchSrcs f) f.dst {} with
  | some t => .trap t
  | none =>
    let act := e.active f.pred
    let a := (e.uni f f.s0).setWidth 32
    if act == 0 then .go (e.issue (e.flight .bwait f))
    else if a == 0 then
      let w := e.outS f act 0
      .go (e.issue { e.flight .bwait f with writes := w.1, latch := w.2 })
    else if !bwaitReady e.g a then .stall
    else .go ({ e with s := e.s.spend }.issue { e.flight .bwait f with
      due := e.openDue, sync := some (.bwait (bwaitNum e.g a)) })

/-- bwait (R277). -/
def execBwait (f : Form) (s : State) : Out State := runIsa .bwait f s fun e => bwaitPlan e f

/-- launch (R162): a record address that is no multiple of 128 gives 0x17 at once; a fault on the record is one of
every lane in T. -/
def execLaunch (f : Form) (s : State) : Out State :=
  runIsa .launch f s fun e =>
    match e.check (batchSrcs f) f.dst {} with
    | some t => .trap t
    | none =>
      let act := e.active f.pred
      let a := e.uni f f.s0
      if act == 0 then .go (e.issue (e.flight .launch f))
      else if a.toNat % 128 != 0 then
        let w := e.outS f act 0x17
        .go ({ e with s := e.s.spend }.issue { e.flight .launch f with due := e.openDue, writes := w.1, latch := w.2 })
      else
        let fs : List LaneFault := match e.resolve 128 .read (fun t => t != 5 && t != 6) 0 a with
          | .inl _ => []
          | .inr x => (lanesOf act).map fun l => { x with lane := l }
        e.withFaults fs act fun e =>
          if e.active f.pred == 0 then .go (e.issue (e.flight .launch f))
          else .go ({ e with s := e.s.spend }.issue { e.flight .launch f with
            due := e.openDue, sync := some (.launchRec a f.dst) })

end Sys2Proof.Machine
end

