-- ==== Sys2Proof/Machine/Convert.lean ====
section
/-! DEFINITION. The conversion and block-aware family, OPC 0x40 to 0x46 (R188 to R195), and the participating lanes of
a tile (R196). -/

namespace Sys2Proof.Machine

/-- The type named by FMT and by SFMT (R188). -/
def Form.fmtT (f : Form) : Fmt := (Fmt.ofCode f.fmt).getD .f32
def Form.sfmtT (f : Form) : Fmt := (Fmt.ofCode f.sfmt).getD .f32

/-- i32, n32 or f32: the wide side of a conversion (R189). -/
def wide32 (t : Fmt) : Bool := t == .i32 || t == .n32 || t == .f32

/-- One conversion (R189): an integer to an integer is clamped with SA only; every other goes through RoundTo. -/
def cvtOp (d s : Fmt) (r : Rnd) (idx code : Nat) : Nat × Fl :=
  match intSigned d, decodeNum s code, (intSigned s).isSome with
  | some sg, .fin neg m _, true =>
    let v : Int := if neg then -(m : Int) else m
    let lo := intLo sg d.bits
    let hi := intHi sg d.bits
    if v < lo then (intCode d.bits lo, { sa := true })
    else if hi < v then (intCode d.bits hi, { sa := true })
    else (intCode d.bits v, {})
  | _, x, _ =>
    let c := roundTo x d r idx
    (c.1, (readFl s code).or c.2)

/-- cvt (R189): element i of the narrow side corresponds to register i of the wide side. -/
def execCvt (f : Form) (s : State) : Out State :=
  runIsa .cvt f s fun e =>
    let d := Form.fmtT f
    let t := Form.sfmtT f
    let n := if wide32 t then d.perReg else t.perReg
    let sspan := if wide32 t then n else if t.bits = 64 then 2 else 1
    let dspan := if wide32 d then (if wide32 t then 1 else n) else if d.bits = 64 then 2 else 1
    let sn : Env.Need := { span := sspan, mult := if t.bits = 64 then 2 else 1, vecLatch := true }
    let dn : Env.Need := { span := dspan, mult := if d.bits = 64 then 2 else 1 }
    let r := e.rnd f.rm
    lanePlan e .cvt f [(f.s0, sn)] dn (e.after 4) fun act =>
      let src := fun (l i : Nat) =>
        if wide32 t then
          (match e.srcNum f.s0 with
            | some a => (vlane (e.vget (a + i)) l).toNat
            | none => e.elem f f.s0 32 l 0)
        else e.elem f f.s0 t.bits l i
      let c := fun (l i : Nat) => cvtOp d t r (n * l + i) (src l i)
      let fl := Fl.all ((lanesOf act).map fun l => Fl.all ((List.range n).map fun i => (c l i).2))
      let out :=
        if wide32 d then e.outRegs f act ((List.range n).map fun i => fun l => BitVec.ofNat 32 (c l i).1)
        else if d.bits = 64 then e.out64 f act fun l => BitVec.ofNat 64 (c l 0).1
        else e.outRegs f act [fun l => BitVec.ofNat 32 (packElems d ((List.range n).map fun i => (c l i).1))]
      (out.1, out.2, fl)

/-! ### Tiles (R196) -/

/-- The participating lanes of the tile of lane `l`. -/
def Env.peers (e : Env) (act : Lanes) (l : Nat) : List Nat := (e.tileLanes (e.tileOf l)).filter fun i => lane act i

/-- bmax (R190): the largest magnitude over a tile's participating lanes and `n` registers. -/
def execBmax (f : Form) (s : State) : Out State :=
  runIsa .bmax f s fun e =>
    let n := f.sub.toNat + 1
    let srcs : List (Src × Env.Need) := (f.s0, { span := n }) :: (if f.mod then [(f.s1, { vecLatch := true })] else [])
    lanePlan (cross := true) { e with s := e.s.spend } .bmax f srcs {} (e.varDue 4 40) fun act =>
      let a := (e.srcNum f.s0).getD 0
      let codes := fun (l : Nat) => (List.range n).map (fun j => (vlane (e.vget (a + j)) l).toNat)
        ++ (if f.mod then [(e.val f f.s1 l).toNat % 2 ^ 32] else [])
      let m := fun (l : Nat) =>
        let xs := ((e.peers act l).map codes).flatten.map fun c => (decodeNum .f32 c).abs
        xs.foldl numMax (.fin false 0 0)
      let out := e.out32 f act fun l => BitVec.ofNat 32 (exactCode .f32 (m l))
      (out.1, out.2, Fl.all ((lanesOf act).map fun l => Fl.all ((codes l).map fun c => readFl .f32 c)))

/-- bscl (R191). -/
def execBscl (f : Form) (s : State) : Out State :=
  runIsa .bscl f s fun e => lanePlan e .bscl f [(f.s0, {})] {} (e.after 2) fun act =>
    let out := e.out32 f act fun l => BitVec.ofNat 32 (scaleFor (Form.fmtT f) (f32 ((e.val f f.s0 l).setWidth 32)).abs)
    (out.1, out.2, {})

/-- qnt (R192): quantises K f32 values under the scale in SRC1. -/
def execQnt (f : Form) (s : State) : Out State :=
  runIsa .qnt f s fun e =>
    let t := Form.fmtT f
    let k := laneElems t
    let r := e.rnd f.rm
    lanePlan e .qnt f [(f.s0, { span := k }), (f.s1, {})] { span := 2, mult := 2 } (e.after 4) fun act =>
      let a := (e.srcNum f.s0).getD 0
      let codes := fun (l : Nat) => (List.range k).map fun i => (vlane (e.vget (a + i)) l).toNat
      let b := fun (l : Nat) => quantUnder t (f.blk == 2) ((e.val f f.s1 l).toNat % 256) r
        ((codes l).map fun c => decodeNum .f32 c) (k * l)
      let out := e.outRegs f act [fun l => (blockPair t (b l)).1, fun l => (blockPair t (b l)).2]
      (out.1, out.2,
        Fl.all ((lanesOf act).map fun l => ((b l).fl).or (Fl.all ((codes l).map fun c => readFl .f32 c))))

/-- A lane's block of a scaled register pair (R85). -/
def Env.pairAt (e : Env) (t : Fmt) (n l : Nat) : Block := pairBlock t (vlane (e.vget n) l) (vlane (e.vget (n + 1)) l)

/-- dqnt (R193). -/
def execDqnt (f : Form) (s : State) : Out State :=
  runIsa .dqnt f s fun e =>
    let t := Form.fmtT f
    let k := laneElems t
    let r := e.rnd f.rm
    lanePlan e .dqnt f [(f.s0, { span := 2, mult := 2 })] { span := k } (e.after 4) fun act =>
      let n := (e.srcNum f.s0).getD 0
      let c := fun (l i : Nat) =>
        let b := e.pairAt t n l
        let code := (b.el[i]?).getD 0
        let v := roundTo (scaledNum t b.x (muAt b.mu i) code) .f32 r (k * l + i)
        (v.1, v.2.or (blockReadFl t b.x [code]))
      let out := e.outRegs f act ((List.range k).map fun i => fun l => BitVec.ofNat 32 (c l i).1)
      (out.1, out.2, Fl.all ((lanesOf act).map fun l => Fl.all ((List.range k).map fun i => (c l i).2)))

/-- rblk (R194): re-expresses a scaled pair under a new scale; 0xFF on either side gives scale 0xFF and zeros. Its flags are
those of R194 and of reading the elements (DEDUCED, log 31). -/
def execRblk (f : Form) (s : State) : Out State :=
  runIsa .rblk f s fun e =>
    let t := Form.fmtT f
    lanePlan e .rblk f [(f.s0, { span := 2, mult := 2 }), (f.s1, {})] { span := 2, mult := 2 } (e.after 4) fun act =>
      let n := (e.srcNum f.s0).getD 0
      let b := fun (l : Nat) =>
        let o := e.pairAt t n l
        let x := (e.val f f.s1 l).toNat % 256
        if o.x == 0xFF || x == 0xFF then ({ x := 0xFF, el := o.el.map fun _ => 0 } : Block)
        else
          let r := reexpress t (f.blk == 2) x (blockNums t o.x o.mu o.el)
          { r with fl := r.fl.or (blockReadFl t o.x o.el) }
      let out := e.outRegs f act [fun l => (blockPair t (b l)).1, fun l => (blockPair t (b l)).2]
      (out.1, out.2, Fl.all ((lanesOf act).map fun l => (b l).fl))

/-- Replaces element `i` of a word (R195). -/
def insElem (t : Fmt) (a i b : Nat) : Nat :=
  let k := t.perReg
  packElems t ((List.range k).map fun j => if j == i then b else elemAt t a j)

/-- pack (R195): ext takes element I, ins replaces it; the operands are 32-bit words (DEDUCED, log 32). -/
def execPack (f : Form) (s : State) : Out State :=
  runIsa .pack f s fun e =>
    let t := Form.fmtT f
    let srcs : List (Src × Env.Need) := (f.s0, {}) :: (if f.variant == 0 then [] else [(f.s1, {})])
    lanePlan e .pack f srcs {} (e.after 2) fun act =>
      let w := fun (x : Src) (l : Nat) => (e.val f x l).toNat % 2 ^ 32
      let out := e.out32 f act fun l => BitVec.ofNat 32
        (if f.variant == 0 then elemAt t (w f.s0 l) f.rm else insElem t (w f.s0 l) f.rm (w f.s1 l))
      (out.1, out.2, {})

end Sys2Proof.Machine
end

