-- ==== Sys2Proof/Machine/Cross.lean ====
section
/-! DEFINITION. The cross-lane family, OPC 0x50 to 0x56 (R196 to R204). -/

namespace Sys2Proof.Machine

/-- The plan of a cross-lane instruction: variable latency (R178), participating lanes at issue (R196). -/
def crossPlan (e : Env) (o : Op) (f : Form) (srcs : List (Src × Env.Need))
    (res : Lanes → List RegWrite × Option Latch × Fl) (more : List (List (Src × Env.Need) × Lanes) := []) : Plan :=
  lanePlan (cross := true) (more := more) { e with s := e.s.spend } o f srcs {} (e.varDue 4 40) res

/-- Src(S) (R197): what lane `l` supplies, zero for a lane that has exited or was never launched. -/
def Env.fromLane (e : Env) (f : Form) (s : Src) (l : Nat) : W32 :=
  if lane e.g.launched l && !lane e.g.exited l then (e.val f s l).setWidth 32 else 0

/-- The source lane of shfl (R199): 0 pos, 1 lag, 2 lead, 3 flip. -/
def shflLane (sub w l b : Nat) : Nat :=
  let t := l / w * w
  let p := l - t
  match sub with
  | 0 => t + b % w
  | 1 => if b ≤ p then l - b else l
  | 2 => if p + b < w then l + b else l
  | _ => t + (p ^^^ (b % w))

/-- shfl and perm.lane: each lane takes operand a of the lane that `src` names (R197, R199). -/
def fromPlan (e : Env) (o : Op) (f : Form) (src : Nat → Nat) : Plan :=
  let read := maskOf fun i => (lanesOf (e.active f.pred)).any fun l => src l == i
  crossPlan e o f [(f.s0, { vecLatch := true }), (f.s1, {})] (more := [([(f.s0, {})], read)]) fun act =>
    let out := e.out32 f act fun l => e.fromLane f f.s0 (src l)
    (out.1, out.2, {})

/-- shfl (R199). -/
def execShfl (f : Form) (s : State) : Out State :=
  runIsa .shfl f s fun e => fromPlan e .shfl f fun l => shflLane f.sub.toNat e.width l ((e.val f f.s1 l).toNat % 2 ^ 32)

/-- perm.lane (R199). -/
def execPermLane (f : Form) (s : State) : Out State :=
  runIsa .permLane f s fun e => fromPlan e .permLane f fun l => (e.val f f.s1 l).toNat % 32

/-- The byte that a selector nibble picks from the eight bytes of a and b (R199). -/
def permByte (ab nib : Nat) : Nat := if 8 ≤ nib then 0 else ab / 256 ^ nib % 256

/-- perm.byte (R199). -/
def execPermByte (f : Form) (s : State) : Out State :=
  runIsa .permByte f s fun e => crossPlan e .permByte f [(f.s0, {}), (f.s1, {}), (f.s2, {})] fun act =>
    let w := fun (x : Src) (l : Nat) => (e.val f x l).toNat % 2 ^ 32
    let out := e.out32 f act fun l =>
      let ab := w f.s0 l + 2 ^ 32 * w f.s1 l
      BitVec.ofNat 32 ((List.range 4).foldl (fun a j => a + permByte ab (w f.s2 l / 16 ^ j % 16) * 256 ^ j) 0)
    (out.1, out.2, {})

/-- The 32-bit value of a predicate source in a lane: a q register's bit, or the operand (R198). -/
def Env.predVal (e : Env) (f : Form) (l : Nat) : W32 := (e.val f f.s0 l).setWidth 32

/-- vote (R200): 0 every, 1 some, 2 same. -/
def execVote (f : Form) (s : State) : Out State :=
  runIsa .vote f s fun e => crossPlan e .vote f [(f.s0, {})] fun act =>
    let r := fun (l : Nat) =>
      let vs := (e.peers act l).map fun i => e.predVal f i
      match f.sub.toNat with
      | 0 => vs.all fun v => v != 0
      | 1 => vs.any fun v => v != 0
      | _ => vs.all fun v => v == e.predVal f l
    let out := e.out32 f act fun l => if r l then 1 else 0
    (out.1, out.2, {})

/-- ballot (R200): the tile's true participating lanes, as bits from the tile's first lane on. -/
def execBallot (f : Form) (s : State) : Out State :=
  runIsa .ballot f s fun e => crossPlan e .ballot f [(f.s0, {})] fun act =>
    let p := e.predOf f f.s0
    let out := e.out32 f act fun l => BitVec.ofNat 32
      (((e.peers act l).filter fun i => lane p i).foldl (fun a i => a + 2 ^ (i - e.tileOf l * e.width)) 0)
    (out.1, out.2, {})

/-- ballot.grp (R200): the group's true participating lanes in a scalar register. -/
def execBallotGrp (f : Form) (s : State) : Out State :=
  runIsa .ballotGrp f s fun e => crossPlan e .ballotGrp f [(f.s0, {})] fun act =>
    let out := e.outS f act ((act &&& e.predOf f f.s0).setWidth 64)
    (out.1, out.2, {})

/-- popc (R200): the tile's true participating lanes, or with pre those below the lane. -/
def execPopc (f : Form) (s : State) : Out State :=
  runIsa .popc f s fun e => crossPlan e .popc f [(f.s0, {})] fun act =>
    let p := e.predOf f f.s0
    let out := e.out32 f act fun l => BitVec.ofNat 32
      ((e.peers act l).filter fun i => lane p i && (f.sub == 0 || i < l)).length
    (out.1, out.2, {})

/-! ### red and scan (R201 to R203) -/

/-- Comb of two 32-bit values (R201): 0 add, 1 min, 2 max, 3 and, 4 or, 5 xor. -/
def combOp (op : Nat) (t : Ty) (x y : Nat) : Nat × Fl :=
  if t == .f32 then
    let a := decodeNum .f32 x
    let b := decodeNum .f32 y
    match op with
    | 0 =>
      let v := Num.add false a b
      let c := toF32 v.1
      (c.1, ({ nv := v.2 } : Fl).or c.2)
    | 1 => (exactCode .f32 (numMin a b), {})
    | _ => (exactCode .f32 (numMax a b), {})
  else
    let a := asInt t.signed 32 x
    let b := asInt t.signed 32 y
    (match op with
    | 0 => (x + y) % 2 ^ 32
    | 1 => if a ≤ b then x else y
    | 2 => if a ≤ b then y else x
    | 3 => x &&& y
    | 4 => x ||| y
    | _ => x ^^^ y, {})

/-- Comb where a value may be absent: the other one then, unchanged (R201). -/
def combAbs (op : Nat) (t : Ty) (x y : Option Nat × Fl) : Option Nat × Fl :=
  match x.1, y.1 with
  | some a, some b =>
    let c := combOp op t a b
    (some c.1, x.2.or (y.2.or c.2))
  | some a, none => (some a, x.2.or y.2)
  | none, b => (b, x.2.or y.2)

/-- One level of the tree: positions 2i and 2i + 1 of the last level are combined. -/
def treeLevel (op : Nat) (t : Ty) (vs : List (Option Nat × Fl)) : List (Option Nat × Fl) :=
  (pairs vs).map fun p => match p with
    | [a, b] => combAbs op t a b
    | [a] => a
    | _ => (none, {})

/-- The fixed tree of red over a tile of 2^n positions (R202). -/
def treeRed (op : Nat) (t : Ty) (vs : List (Option Nat × Fl)) : Nat → Option Nat × Fl
  | 0 => getAt vs 0
  | n + 1 => treeRed op t (treeLevel op t vs) n

/-- A result as it is written: a NaN of an f32 result is canonical (R201). -/
def canonOut (t : Ty) (x : Nat) : W32 :=
  BitVec.ofNat 32 (if t == .f32 && (decodeNum .f32 x).isNan then 0x7FC00000 else x)

/-- The flags of a signalling NaN among the participants (R202). -/
def snanFl (t : Ty) (xs : List Nat) : Fl := if t == .f32 then Fl.all (xs.map fun x => readFl .f32 x) else {}

/-- The value of operand a in a lane. -/
def Env.lane32 (e : Env) (f : Form) (l : Nat) : Nat := (e.val f f.s0 l).toNat % 2 ^ 32

/-- red of one tile (R202). -/
def Env.redTile (e : Env) (f : Form) (act : Lanes) (tile : Nat) : Nat × Fl :=
  let ls := e.tileLanes tile
  let r := treeRed f.sub.toNat f.ty (ls.map fun l => (if lane act l then some (e.lane32 f l) else none, {})) e.g.logw.toNat
  (r.1.getD 0, r.2.or (snanFl f.ty ((ls.filter fun l => lane act l).map fun l => e.lane32 f l)))

/-- The tiles of a group. -/
def Env.tiles (e : Env) : List Nat := List.range (32 / e.width)

/-- red (R202). -/
def execRed (f : Form) (s : State) : Out State :=
  runIsa .red f s fun e => crossPlan e .red f [(f.s0, {})] fun act =>
    let out := e.out32 f act fun l => canonOut f.ty (e.redTile f act (e.tileOf l)).1
    (out.1, out.2, Fl.all (e.tiles.map fun t => (e.redTile f act t).2))

/-- The identity of an exclusive scan (R201). -/
def scanIdentity (op : Nat) (t : Ty) : Nat :=
  match t, op with
  | .f32, 1 => 0x7F800000
  | .f32, 2 => 0xFF800000
  | .f32, _ => 0
  | .n32, 1 => 0xFFFFFFFF
  | .n32, 3 => 0xFFFFFFFF
  | .n32, _ => 0
  | _, 1 => 0x7FFFFFFF
  | _, 2 => 0x80000000
  | _, 3 => 0xFFFFFFFF
  | _, _ => 0

/-- scan over the participating lanes of a tile in ascending order (R203): each lane's result, and the flags. -/
def scanLanes (op : Nat) (t : Ty) (excl : Bool) (a : Nat → Nat) : List Nat → Option Nat × Fl → List (Nat × Nat) × Fl
  | [], acc => ([], acc.2)
  | l :: ls, acc =>
    let next := combAbs op t acc (some (a l), {})
    let r := scanLanes op t excl a ls next
    ((l, if excl then acc.1.getD (scanIdentity op t) else next.1.getD 0) :: r.1, r.2)

/-- scan (R203): SUB[3] = 1 is exclusive. -/
def execScan (f : Form) (s : State) : Out State :=
  runIsa .scan f s fun e => crossPlan e .scan f [(f.s0, {})] fun act =>
    let rs := e.tiles.map fun t =>
      let ls := (e.tileLanes t).filter fun l => lane act l
      let r := scanLanes f.rm f.ty (f.variant == 1) (e.lane32 f) ls (none, {})
      (r.1, r.2.or (snanFl f.ty (ls.map fun l => e.lane32 f l)))
    let vals := (rs.map fun r => r.1).flatten
    let out := e.out32 f act fun l => canonOut f.ty (((vals.find? fun v => v.1 == l).map fun v => v.2).getD 0)
    (out.1, out.2, Fl.all (rs.map fun r => r.2))

end Sys2Proof.Machine
end

