-- ==== Sys2Proof/Machine/Crypto.lean ====
section
/-! DEFINITION. SHA-512 and Ed25519, which the loader, the measurement log, the boot ROM and attestation use (R133,
R135, R349 to R351). The spec names them and does not restate them: they follow FIPS 180-4 and RFC 8032 (PRESUMED,
log 8). -/

namespace Sys2Proof.Machine

/-! ### SHA-512 -/

/-- The first `n` primes from `k` on. -/
def primesFrom : Nat → Nat → Nat → List Nat
  | 0, _, _ => []
  | _, _, 0 => []
  | fuel + 1, k, n + 1 =>
    if (List.range k).all fun d => d < 2 || k % d != 0 then k :: primesFrom fuel (k + 1) n else primesFrom fuel (k + 1) (n + 1)

/-- The largest `r` below 2^`b` whose power `e` is at most `n`, bit by bit. -/
def rootBits (e n : Nat) : Nat → Nat → Nat
  | 0, acc => acc
  | b + 1, acc => if (acc + 2 ^ b) ^ e ≤ n then rootBits e n b (acc + 2 ^ b) else rootBits e n b acc

/-- The first 64 bits of the fractional part of the `e`-th root of a prime. -/
def rootFrac (e p : Nat) : W64 := BitVec.ofNat 64 (rootBits e (p * 2 ^ (64 * e)) 72 0)

/-- The round constants. -/
def shaK : List W64 := (primesFrom 420 2 80).map (rootFrac 3)

/-- The initial hash value. -/
def shaInit : List W64 := (primesFrom 30 2 8).map (rootFrac 2)

/-- Bytes of a number, most significant first. -/
def beBytes (n v : Nat) : List Byte := (leBytes n v).reverse

/-- The number of bytes, most significant first. -/
def beNat (bs : List Byte) : Nat := leNat bs.reverse

/-- The padded message. -/
def shaPad (m : List Byte) : List Byte :=
  m ++ [0x80] ++ List.replicate ((239 - m.length % 128) % 128) 0 ++ beBytes 16 (8 * m.length)

/-- The message schedule: the last 16 words, newest last, extended `n` times. -/
def shaSchedule : Nat → List W64 → List W64 → List W64
  | 0, _, out => out
  | n + 1, w, out =>
    let g := fun (i : Nat) => (w[i]?).getD 0
    let s0 := (g 1).rotateRight 1 ^^^ (g 1).rotateRight 8 ^^^ (g 1 >>> 7)
    let s1 := (g 14).rotateRight 19 ^^^ (g 14).rotateRight 61 ^^^ (g 14 >>> 6)
    let x := g 0 + s0 + g 9 + s1
    shaSchedule n (w.drop 1 ++ [x]) (out ++ [x])

/-- One round. -/
def shaRound (h : List W64) (k w : W64) : List W64 :=
  match h with
  | [a, b, c, d, e, f, g, x] =>
    let t1 := x + (e.rotateRight 14 ^^^ e.rotateRight 18 ^^^ e.rotateRight 41) + ((e &&& f) ^^^ (~~~e &&& g)) + k + w
    let t2 := (a.rotateRight 28 ^^^ a.rotateRight 34 ^^^ a.rotateRight 39) + ((a &&& b) ^^^ (a &&& c) ^^^ (b &&& c))
    [t1 + t2, a, b, c, d + t1, e, f, g]
  | _ => h

/-- One block. -/
def shaBlock (h : List W64) (block : List Byte) : List W64 :=
  let w := (List.range 16).map fun i => BitVec.ofNat 64 (beNat ((block.drop (8 * i)).take 8))
  let r := (shaK.zip (shaSchedule 64 w w)).foldl (fun h x => shaRound h x.1 x.2) h
  (h.zip r).map fun x => x.1 + x.2

/-- SHA-512. -/
def sha512 (m : List Byte) : List Byte :=
  let p := shaPad m
  ((((List.range (p.length / 128)).foldl (fun h i => shaBlock h ((p.drop (128 * i)).take 128)) shaInit)).map
    fun x => beBytes 8 x.toNat).flatten

/-! ### Ed25519 -/

/-- The field's prime. -/
def edP : Nat := 2 ^ 255 - 19
/-- The order of the base point. -/
def edL : Nat := 2 ^ 252 + 27742317777372353535851937790883648493

/-- `b` to the power of the low bits of `e`, modulo the prime; the fuel counts bits. -/
def edPow (b e : Nat) : Nat → Nat
  | 0 => 1
  | n + 1 =>
    let h := edPow (b * b % edP) (e / 2) n
    if e % 2 = 1 then b * h % edP else h

def edInv (a : Nat) : Nat := edPow a (edP - 2) 255
/-- The curve's constant. -/
def edD : Nat := (edP - 121665) * edInv 121666 % edP

/-- Adds two points of the curve. -/
def edAdd (a b : Nat × Nat) : Nat × Nat :=
  let m := edD * (a.1 * b.1 % edP * (a.2 * b.2 % edP) % edP) % edP
  ((a.1 * b.2 + b.1 * a.2) % edP * edInv ((1 + m) % edP) % edP,
   (a.2 * b.2 + a.1 * b.1) % edP * edInv ((1 + edP - m) % edP) % edP)

/-- A multiple of a point; the fuel counts bits. -/
def edMul (a : Nat × Nat) (k : Nat) : Nat → Nat × Nat
  | 0 => (0, 1)
  | n + 1 =>
    let h := edMul (edAdd a a) (k / 2) n
    if k % 2 = 1 then edAdd a h else h

/-- The point that 32 bytes encode; none when they encode none. -/
def edDecode (bs : List Byte) : Option (Nat × Nat) :=
  let n := leNat bs
  let y := n % 2 ^ 255
  let sign := n / 2 ^ 255
  let u := (y * y + edP - 1) % edP
  let v := (edD * (y * y % edP) + 1) % edP
  let x2 := u * edInv v % edP
  let x := edPow x2 ((edP + 3) / 8) 255
  let x := if x * x % edP = x2 then x else x * edPow 2 ((edP - 1) / 4) 255 % edP
  if edP ≤ y || x * x % edP != x2 || (x == 0 && sign == 1) then none
  else some (if x % 2 = sign then x else (edP - x) % edP, y)

def edEncode (a : Nat × Nat) : List Byte := leBytes 32 (a.2 + a.1 % 2 * 2 ^ 255)

/-- The base point. -/
def edBase : Nat × Nat := (edDecode (leBytes 32 (4 * edInv 5 % edP))).getD (0, 1)

/-- Verifies a signature over a message. -/
def edVerify (pub msg sig : List Byte) : Bool :=
  match edDecode pub, edDecode (sig.take 32) with
  | some a, some r =>
    let s := leNat (sig.drop 32)
    let k := leNat (sha512 (sig.take 32 ++ pub ++ msg)) % edL
    decide (s < edL) && edMul edBase s 256 == edAdd r (edMul a k 256)
  | _, _ => false

/-- The secret scalar and the second half of a seed's hash. -/
def edExpand (seed : List Byte) : Nat × List Byte :=
  let h := sha512 seed
  (leNat (h.take 32) % 2 ^ 254 / 8 * 8 + 2 ^ 254, h.drop 32)

/-- The public key of a seed. -/
def edPublic (seed : List Byte) : List Byte := edEncode (edMul edBase (edExpand seed).1 256)

/-- Signs a message with a seed. -/
def edSign (seed msg : List Byte) : List Byte :=
  let x := edExpand seed
  let r := leNat (sha512 (x.2 ++ msg)) % edL
  let rb := edEncode (edMul edBase r 256)
  let k := leNat (sha512 (rb ++ edPublic seed ++ msg)) % edL
  rb ++ leBytes 32 ((r + k * x.1) % edL)

end Sys2Proof.Machine
end

