-- ==== Sys2Proof/Machine/Loader.lean ====
section
/-! DEFINITION. The measurement log (R350), and the loader: reading and checking a Lineus object (R128 to R135),
mapping it (R136, R354), unloading and freeing it (R137). -/

namespace Sys2Proof.Machine

/-! ### Measurement (R350) -/

/-- An event record: its kind, the ASID and a digest. -/
def measureEvent (kind asid : Nat) (digest : List Byte) : List Byte :=
  leBytes 8 kind ++ leBytes 8 asid ++ (digest ++ List.replicate (64 - digest.length) 0)

/-- Extends the measurement log by an event. -/
def State.measure (s : State) (kind asid : Nat) (digest : List Byte) : State :=
  let e := measureEvent kind asid digest
  { s with dev := { s.dev with measure := sha512 (s.dev.measure ++ sha512 e), events := s.dev.events ++ [e] } }

/-! ### Reading the file -/

/-- A check that fails stops with a STATUS; what the pager did before stays. -/
abbrev LoadM := ExceptT Nat (StateM State)

/-- A load's context and its copied registers (R135). -/
structure LoadCtx where
  c   : Nat
  cmd : LoadCmd

/-- Stops with a STATUS unless a condition holds. -/
def demand (ok : Bool) (status : Nat) : LoadM Unit := if ok then pure () else throw status

/-- The STATUS of a file image that cannot be read: 0x39, or 0 while the pager has still to make room and the load waits
(R135). -/
def unread (e : Nat × Nat) : Nat := if e.1 = 0 then 0 else 0x39

/-- Reads `n` bytes of the file image at an offset (R135). -/
def readFile (l : LoadCtx) (off n : Nat) : LoadM (List Byte) := do
  let s ← get
  match s.devRead l.c (l.cmd.addr.toNat % 2 ^ 56 + off) n with
  | .ok (bs, s) => set s; pure bs
  | .error e => throw (unread e)

/-- Tests pages of the file image, from a page address on: each is mapped and readable, made present if it is managed, and
holds no uncorrectable data (R135). -/
def testPages (l : LoadCtx) (va : Nat) : Nat → LoadM Unit
  | 0 => pure ()
  | n + 1 => do
    let s ← get
    match s.keysVa l.c 0 .read s.freeHive 2 va 65536 with
    | .ok (_, s) => set s; testPages l (va + 65536) n
    | .error e => throw (unread e)

/-- The little-endian number of `n` bytes at an offset of a block. -/
def fieldAt (bs : List Byte) (off n : Nat) : Nat := leNat ((bs.drop off).take n)

/-- A section-table entry (R129). -/
structure Sect where
  type  : Nat
  flags : Nat
  foff  : Nat
  fsize : Nat
  voff  : Nat
  vsize : Nat
  align : Nat
  resv  : Bool
deriving DecidableEq, Repr, Inhabited

/-- A symbol (R130). -/
structure Sym where
  kind  : Nat
  sect  : Nat
  value : Nat
deriving DecidableEq, Repr, Inhabited

/-- A relocation (R132). -/
structure Reloc where
  sect : Nat
  type : Nat
  sym  : Nat
  off  : Nat
deriving DecidableEq, Repr, Inhabited

/-- A parsed object. -/
structure Obj where
  head   : List Byte := []
  sects  : List Sect := []
  syms   : List Sym := []
  relocs : List Reloc := []
  /-- the descriptors of its kernel symbols -/
  descs  : List (List Byte) := []
deriving DecidableEq, Repr, Inhabited

def Sect.parse (b : List Byte) : Sect :=
  { type := fieldAt b 4 1, flags := fieldAt b 5 1, foff := fieldAt b 8 8, fsize := fieldAt b 0x10 8, voff := fieldAt b 0x18 8,
    vsize := fieldAt b 0x20 8, align := fieldAt b 0x28 1, resv := fieldAt b 6 2 == 0 && fieldAt b 0x29 7 == 0 }

def Sym.parse (b : List Byte) : Sym := { kind := fieldAt b 4 1, sect := fieldAt b 6 2, value := fieldAt b 8 8 }

def Reloc.parse (b : List Byte) : Reloc :=
  { sect := fieldAt b 0 2, type := fieldAt b 2 2, sym := fieldAt b 4 4, off := fieldAt b 8 8 }

/-- Entries of a table. -/
def entries (bs : List Byte) (size n : Nat) : List (List Byte) := (List.range n).map fun i => (bs.drop (size * i)).take size

/-- Header fields (R128). -/
def Obj.signed (o : Obj) : Bool := fieldAt o.head 8 4 % 2 == 1
def Obj.imgSize (o : Obj) : Nat := fieldAt o.head 0x40 8
def Obj.hash (o : Obj) : List Byte := (o.head.drop 0x50).take 64
def Obj.sig (o : Obj) : List Byte := (o.head.drop 0x90).take 64
def Obj.pubkey (o : Obj) : List Byte := (o.head.drop 0xD0).take 32

/-! ### Checks (R135) -/

/-- Check 1 (R128): the header's and the tables' form (DEDUCED, log 57). It is the first check that reads, so the pages of
the whole range are tested here (R135). -/
def check1 (l : LoadCtx) : LoadM Obj := do
  let n := l.cmd.len.toNat
  let a := l.cmd.addr.toNat % 2 ^ 56
  demand (a + n ≤ 2 ^ 56) 0x39
  testPages l (a / 65536 * 65536) (if n = 0 then 0 else (a + n - 1) / 65536 + 1 - a / 65536)
  demand (256 ≤ n) 0x30
  let h ← readFile l 0 256
  let table := fun (at_ size cnt : Nat) => fieldAt h at_ 8 % 8 == 0 && decide (fieldAt h at_ 8 + size * cnt ≤ n)
  demand (fieldAt h 0 4 == 0x464F4E4C && fieldAt h 4 2 == 1 && fieldAt h 8 4 ≤ 1 && fieldAt h 0x48 8 == 0 && fieldAt h 0xF0 16 == 0
    && (fieldAt h 8 4 == 1 || fieldAt h 0x90 96 == 0) && table 0x10 48 (fieldAt h 0xC 4) && table 0x20 24 (fieldAt h 0x18 4)
    && table 0x28 16 (fieldAt h 0x1C 4) && table 0x30 1 (fieldAt h 0x38 8)) 0x30
  let ss ← readFile l (fieldAt h 0x10 8) (48 * fieldAt h 0xC 4)
  let ys ← readFile l (fieldAt h 0x20 8) (24 * fieldAt h 0x18 4)
  let rs ← readFile l (fieldAt h 0x28 8) (16 * fieldAt h 0x1C 4)
  let o : Obj := { head := h, sects := (entries ss 48 (fieldAt h 0xC 4)).map Sect.parse
                   syms := (entries ys 24 (fieldAt h 0x18 4)).map Sym.parse
                   relocs := (entries rs 16 (fieldAt h 0x1C 4)).map Reloc.parse }
  demand (o.sects.all fun x => x.resv && x.flags ≤ 1 && decide (x.foff + x.fsize ≤ n)) 0x30
  pure o

/-- A kernel symbol names a descriptor record of a type-5 section (R129). -/
def symOk (o : Obj) (y : Sym) : Bool :=
  match o.sects[y.sect]? with
  | some x => x.type == 5 && y.value % 128 == 0 && decide (y.value + 128 ≤ x.vsize)
  | none => false

/-- Reads the descriptors of kernel symbols. -/
def readDescs (l : LoadCtx) (o : Obj) : List Sym → LoadM (List (List Byte))
  | [] => pure []
  | y :: ys => do
    let d ← readFile l ((getAt o.sects y.sect).foff + y.value) 128
    let ds ← readDescs l o ys
    pure (d :: ds)

/-- Whether a kernel symbol's descriptor lies in what the file holds of its section: one that does not is no part of the range
that a load reads, and check 3 refuses its section. -/
def inFile (o : Obj) (y : Sym) : Bool := decide (y.value + 128 ≤ (getAt o.sects y.sect).fsize)

/-- Check 2: GEN in the header and in every descriptor. -/
def check2 (l : LoadCtx) (o : Obj) : LoadM Obj := do
  demand (fieldAt o.head 6 2 == 3) 0x31
  let ds ← readDescs l o (o.syms.filter fun y => y.kind == 2 && symOk o y && inFile o y)
  demand (ds.all fun d => fieldAt d 8 8 / 2 ^ 44 % 16 == 3) 0x31
  pure { o with descs := ds }

/-- 64 KiB pages of the image that a section covers. -/
def Sect.pages (x : Sect) : List Nat :=
  if x.vsize = 0 then [] else (List.range ((x.voff + x.vsize - 1) / 65536 + 1 - x.voff / 65536)).map fun i => x.voff / 65536 + i

/-- A section's own layout (R129). A SCALED section starts on a line, as its scaled stores need (DESIGN CHOICE, log 115). -/
def Sect.ok (x : Sect) (img : Nat) : Bool :=
  if x.type == 6 then x.voff == 0 && x.vsize == 0 && x.flags == 0
  else
    1 ≤ x.type && x.type ≤ 5 && (x.flags == 0 || x.type == 2 || x.type == 3) && x.voff % 2 ^ x.align == 0
      && decide (x.voff + x.vsize ≤ img) && (x.type != 1 || (x.voff % 64 == 0 && x.vsize % 64 == 0))
      && (2 < x.type || x.voff % 65536 == 0)
      && (if x.type == 4 then x.fsize == 0
        else if x.flags == 1 then x.vsize % 128 == 0 && x.voff % 128 == 0 && x.fsize == x.vsize / 128 * 160
        else x.fsize == x.vsize)

/-- No two sections overlap in the image. -/
def disjointSects : List Sect → Bool
  | [] => true
  | x :: xs => (xs.all fun y => !meets x.voff x.vsize y.voff y.vsize) && disjointSects xs

/-- A descriptor's fields within the ranges of R18: SHADOW and SCR4K; REGSM has no value out of range. -/
def descOk (d : List Byte) : Bool :=
  let w := fieldAt d 8 8
  w / 2 ^ 38 % 32 ≤ 16 && w / 2 ^ 28 % 1024 ≤ 192

/-- Check 3. -/
def check3 (l : LoadCtx) (o : Obj) : LoadM Unit :=
  let ld := o.sects.filter fun x => x.type != 6
  let pg := fun (p : Nat → Bool) => ((ld.filter fun x => p x.type).map Sect.pages).flatten
  let ro := pg fun t => t ≤ 2
  demand (o.imgSize % 65536 == 0 && decide (l.cmd.base.toNat % 2 ^ 56 / 65536 * 65536 + o.imgSize ≤ 2 ^ 56)
    && (o.sects.filter fun x => x.type == 1).length == 1 && (o.sects.all fun x => x.ok o.imgSize) && disjointSects ld
    && (pg fun t => 2 < t).all (fun p => !ro.contains p)
    && (o.syms.all fun y => y.kind != 2 || symOk o y) && o.descs.all descOk) 0x36

/-- Reads the contents of sections. -/
def readSects (l : LoadCtx) : List Sect → LoadM (List (List Byte))
  | [] => pure []
  | x :: xs => do
    let d ← readFile l x.foff x.fsize
    let ds ← readSects l xs
    pure (d :: ds)

/-- A relocation stands in a type-3 or type-5 section with a defined TYPE and symbol (R132). One whose place is not 8-aligned
or passes its section fails here too (DESIGN CHOICE, log 116). -/
def relocOk (o : Obj) (r : Reloc) : Bool :=
  match o.sects[r.sect]?, o.syms[r.sym]? with
  | some x, some y => (x.type == 3 || x.type == 5) && r.type == 1 && decide (y.sect < o.sects.length) && r.off % 8 == 0
      && decide (r.off + 8 ≤ x.vsize)
  | _, _ => false

/-- Checks 4 to 7. -/
def check47 (l : LoadCtx) (o : Obj) : LoadM Unit := do
  let hashed ← readSects l (o.sects.filter fun x => x.type == 1 || x.type == 2 || x.type == 5)
  demand (o.hash == sha512 hashed.flatten) 0x32
  demand (!l.cmd.sigreq || (o.signed && o.pubkey == (l.cmd.polkey.map fun w => leBytes 8 w.toNat).flatten)) 0x33
  demand (!o.signed || edVerify o.pubkey o.hash o.sig) 0x34
  demand (o.relocs.all fun r => relocOk o r) 0x35

/-! ### Mapping (R136, R354) -/

namespace State

/-- A free tower page wherever one is, from a free choice of tower on (R354, log 14). -/
def takeAny (s : State) : Option (Nat × State) :=
  let t := Config.freePick s.clk.free % 8
  ((List.range 8).filterMap fun i => s.spend.takePage ((t + i) % 8)).head?

/-- Maps one page in a context's table tree, allocating the tables that the walk needs (R354). -/
def mapPage (s : State) (c va : Nat) (leaf : W64) (t : Nat) : List (Nat × Nat) → Option State
  | [] => none
  | (sh, w) :: ls =>
    let at_ := t + 8 * (va / 2 ^ sh % 2 ^ w)
    let e := s.wordAt (kTower at_)
    if sh == 16 then some (s.performAt (kTower at_) (leBytes 8 leaf.toNat))
    else if isPointer e then s.mapPage c va leaf ((e.extractLsb' 8 31).toNat * 256) ls
    else
      match s.takeAny with
      | none => none
      | some (p, s) =>
        let s := (s.zeroPages p 1).performAt (kTower at_) (leBytes 8 (p * 65536 + 1))
        (s.modCtx c fun x => { x with tabs := (at_, p) :: x.tabs }).mapPage c va leaf (p * 65536) ls

/-- The root table of a context (DESIGN CHOICE, log 55) (DEDUCED, log 56). -/
def rootOf (s : State) (c : Nat) : Nat := (s.ctx c).ptroot.toNat % 2 ^ 39 / 4096 * 4096

/-- Maps pages: virtual page, tower page, permission bits. -/
def mapAll (s : State) (c : Nat) : List (Nat × Nat × Nat) → Option State
  | [] => some s
  | (vp, p, perm) :: r =>
    match s.mapPage c (vp * 65536) (BitVec.ofNat 64 (p * 65536 + perm * 8 + 7)) (s.rootOf c) levels with
    | none => none
    | some s => (s.forgetPage (s.asid c) vp).mapAll c r

/-- Takes `n` tower pages and zero-fills them. -/
def takeMany (s : State) : Nat → Option (List Nat × State)
  | 0 => some ([], s)
  | n + 1 =>
    match s.takeAny with
    | none => none
    | some (p, s) => match (s.zeroPages p 1).takeMany n with
      | none => none
      | some (l, s) => some (p :: l, s)

/-- Whether a page of the range holds a valid leaf. -/
def anyLeaf (s : State) (c vp : Nat) : Nat → Bool
  | 0 => false
  | n + 1 => (match s.walkCtx c (vp * 65536) with | .leaf _ _ _ => true | .fault _ => false) || s.anyLeaf c (vp + 1) n

/-- A code object already resident with the same HASH and sizes (R136); of several type-2 sections every VSIZE counts, in the
order of the section table (DESIGN CHOICE, log 126). -/
def resident (s : State) (hash : List Byte) (v1 : Nat) (v2 : List Nat) : Option CodeObj :=
  ((s.ctxs.map fun x => x.objs).flatten).find? fun o => o.hash == hash && o.vsize1 == v1 && o.vsize2 == v2

end State

/-- RP, W and X as bits 0 to 2, by section type (R354) (DEDUCED, log 54). -/
def sectPerm (t : Nat) : Nat := if t = 1 then 5 else if t = 2 || t = 5 then 1 else 3

/-- Where a page of the image lies, given the tower pages of the image's pages. -/
def imgKey (pages : List (Nat × Nat)) (off : Nat) : Nat :=
  ((pages.find? fun p => p.1 == off / 65536).map fun p => p.2).getD 0 * 65536 + off % 65536

/-- The bytes of a loaded section with their keys: a SCALED one line by line with its sidecars (R129). -/
def sectCells (pages : List (Nat × Nat)) (x : Sect) (d : List Byte) : List (Nat × Byte) :=
  if x.flags == 1 then
    ((List.range (x.vsize / 128)).map fun i =>
      let k := kTower (imgKey pages (x.voff + 128 * i))
      cellsFrom k ((d.drop (160 * i)).take 128) ++ cellsFrom (sideKey k 0) ((d.drop (160 * i + 128)).take 32)).flatten
  else ((List.range d.length).zip d).map fun b => (kTower (imgKey pages (x.voff + b.1)), b.2)

/-- Applies one relocation (R132). -/
def applyReloc (o : Obj) (base : Nat) (pages : List (Nat × Nat)) (s : State) (r : Reloc) : State :=
  match o.sects[r.sect]?, o.syms[r.sym]? with
  | some x, some y =>
    let ks := (List.range 8).map fun i => kTower (imgKey pages (x.voff + r.off + i))
    let old := leNat (ks.map s.byteAt)
    s.perform (ks.zip (leBytes 8 ((base + (getAt o.sects y.sect).voff + y.value + old) % 2 ^ 64)))
  | _, _ => s

/-- Check 8 and the mapping: the new STATUS and the state; none when memory or a free range is wanting. -/
def mapObject (s : State) (l : LoadCtx) (o : Obj) (data : List (List Byte)) : Option (Nat × State) :=
  let base := l.cmd.base.toNat % 2 ^ 56 / 65536 * 65536
  let ld := o.sects.filter fun x => x.type != 6
  let code := (ld.filter fun x => x.type == 1) ++ ld.filter fun x => x.type == 2
  let text := (ld.find? fun x => x.type == 1).getD default
  let v2 := (code.filter fun x => x.type == 2).map fun x => x.vsize
  let codePages := (code.map Sect.pages).flatten
  let privPages := ((ld.filter fun x => 2 < x.type).map Sect.pages).flatten.eraseDups
  let perm := fun (p : Nat) => (ld.filter fun x => x.pages.contains p).foldl (fun a x => a ||| sectPerm x.type) 0
  let old : Option CodeObj := s.resident o.hash text.vsize v2
  if s.anyLeaf l.c (base / 65536) (o.imgSize / 65536) then none
  else
    match s.takeMany privPages.length with
    | none => none
    | some (pp, s) =>
      let got : Option (List Nat × State) := match old with
        | some x => some (x.shared.map fun y => y.2, s)
        | none => s.takeMany codePages.length
      match got with
      | none => none
      | some (cp, s) =>
        let priv := privPages.zip pp
        let shared := codePages.zip cp
        match s.mapAll l.c ((priv ++ shared).map fun x => (base / 65536 + x.1, x.2, perm x.1)) with
        | none => none
        | some s =>
          let fresh := (ld.zip data).filter fun x => x.1.type != 4 && (2 < x.1.type || old.isNone)
          let s := s.perform ((fresh.map fun x => sectCells (priv ++ shared) x.1 x.2).flatten)
          let s := o.relocs.foldl (applyReloc o base priv) s
          let n := s.clk.serial
          let x := s.ctx l.c
          let obj : CodeObj :=
            { handle := x.nextHandle, obj := (old.map fun y => y.obj).getD n, imgBase := base, codeVa := base + text.voff
              codeLen := text.vsize, hash := o.hash, vsize1 := text.vsize, vsize2 := v2
              kernels := (o.syms.filter fun y => y.kind == 2).map fun y => base + (getAt o.sects y.sect).voff + y.value
              shared := shared.map fun y => (base / 65536 + y.1, y.2), priv := priv.map fun y => (base / 65536 + y.1, y.2) }
          let s := s.bump.modCtx l.c fun x => { x with objs := x.objs ++ [obj], nextHandle := x.nextHandle + 1, handle := obj.handle }
          some (if old.isSome then 3 else 2, s.measure 3 (s.asid l.c) o.hash)

/-- The whole load (R135) (DEDUCED, log 68). -/
def runLoad (l : LoadCtx) : LoadM Nat := do
  let o ← check1 l
  let o ← check2 l o
  check3 l o
  check47 l o
  let data ← readSects l (o.sects.filter fun x => x.type != 6)
  let s ← get
  match mapObject s l o data with
  | none => throw 0x37
  | some (st, s) => set s; pure st

/-! ### Freeing (R137, R354) -/

namespace State

/-- Whether a launch of a context still refers to a code object: launches hold it until they are complete, and with it
every return address of their groups. -/
def objUsed (s : State) (c obj : Nat) : Bool := s.launches.any fun l => l.ctx == c && l.obj == obj

/-- Clears a page's leaf while it still names the tower page, and invalidates it. -/
def unmapPage (s : State) (c : Nat) (x : Nat × Nat) : State :=
  let s : State := match s.walkCtx c (x.1 * 65536) with
    | .leaf e _ at_ => if leafAddr e == x.2 * 65536 then s.performAt (kTower at_) (leBytes 8 0) else s
    | .fault _ => s
  let s := s.forgetPage (s.asid c) x.1
  { s with coh := { s.coh with il := s.coh.il.filter fun i => !(i.asid == s.asid c && i.line / 256 == x.1) } }

/-- Frees the loader's tables of a context that no page uses any more; the fuel counts levels. -/
def freeTabs (s : State) (c : Nat) : Nat → State
  | 0 => s
  | n + 1 =>
    let used := fun (p : Nat) => s.mem.cells.any fun x => kTower (p * 65536) ≤ x.1 && x.1 < kTower (p * 65536) + 65536
    let dead := (s.ctx c).tabs.filter fun t => !used t.2
    if dead.isEmpty then s
    else
      let s := dead.foldl (fun s t => s.performAt (kTower t.1) (leBytes 8 0)) s
      ((s.freePagesOf (dead.map fun t => t.2)).modCtx c fun x => { x with tabs := x.tabs.filter fun t => !dead.contains t }).freeTabs c n

/-- Frees one unloaded object of a context: its mappings, its private pages, and with the last reference the shared ones. -/
def freeObj (s : State) (c : Nat) (o : CodeObj) : State :=
  let s := (o.priv ++ o.shared).foldl (fun s x => s.unmapPage c x) s
  let s := s.freePagesOf (o.priv.map fun x => x.2)
  let s := s.modCtx c fun x => { x with objs := x.objs.filter fun y => y.handle != o.handle }
  let s := s.freeTabs c 6
  if s.ctxs.any fun x => x.objs.any fun y => y.obj == o.obj then s else s.freePagesOf (o.shared.map fun x => x.2)

/-- CODE_OBJECT_FREE (R137): frees the unloaded objects of a context that nothing refers to. -/
def sweepObjs (s : State) (c : Nat) : State :=
  ((s.ctx c).objs.filter fun o => o.unloaded && !s.objUsed c o.obj).foldl (fun s o => s.freeObj c o) s

end State

/-- LOADER_LOAD (R135): OP 1 copies the loader registers and starts a load. -/
def execLoaderLoad (c : Nat) (v : W64) (s : State) : Out State :=
  .next (s.pageWrite c fun s =>
    let x := s.ctx c
    if v.toNat % 4 != 1 || x.lstatus == 1 then s
    else
      let cmd : LoadCmd := { addr := x.objaddr, len := x.objlen, base := x.imgbase, sigreq := x.sigreq, polkey := x.polkey }
      s.modCtx c fun x => { x with lstatus := 1, loading := some cmd })

/-- LOAD_FINISH (R135): the checks, the mapping and the STATUS. It waits while the pager has to make room, and while a former
life of the context is not freed (R324). -/
def execLoadFinish (c : Nat) (s : State) : Out State :=
  match (s.ctx c).loading with
  | none => .next s
  | some cmd =>
    let done := fun (st : Nat) (s : State) => s.modCtx c fun x => { x with lstatus := BitVec.ofNat 8 st, loading := none }
    if !(s.ctx c).en then .next (done 0x39 s)
    else if (s.ctx c).reviving then .next s
    else match runLoad { c := c, cmd := cmd } s with
    | (.ok st, s) => .next (done st s)
    | (.error 0, s) => .next s
    | (.error st, s) => .next (done st s)

/-- LOADER_UNLOAD (R137): OP 2 unloads the handle in bits [63:32]. -/
def execLoaderUnload (c : Nat) (v : W64) (s : State) : Out State :=
  .next (s.pageWrite c fun s =>
    let x := s.ctx c
    let h : W32 := v.extractLsb' 32 32
    if v.toNat % 4 != 2 || x.lstatus == 1 then s
    else if x.objs.any fun o => o.handle == h && !o.unloaded then
      let gone := fun (o : CodeObj) => { o with unloaded := o.unloaded || o.handle == h }
      (s.modCtx c fun x => { x with lstatus := 4, objs := x.objs.map gone }).sweepObjs c
    else s.modCtx c fun x => { x with lstatus := 0x38 })

end Sys2Proof.Machine
end

