-- ==== Sys2Proof/Machine/Launch.lean ====
section
/-! DEFINITION. Launches: the launch queue and validation (R26 to R32), gates (R33), the ends of launches (R31, R167),
and comb start, dispatch and stealing (R18 to R20, R34 to R40). -/

namespace Sys2Proof.Machine

/-! ### Records (R29, R131) -/

/-- Bits [hi:lo] of a number. -/
def bitsOf (n hi lo : Nat) : Nat := n / 2 ^ lo % 2 ^ (hi + 1 - lo)

/-- The dwords of a block. -/
def dwordsOf (bs : List Byte) (n : Nat) : List Nat := (List.range n).map fun i => fieldAt bs (8 * i) 8

/-- One axis of a rectangle (R16). -/
def axisOk (o n : Nat) : Bool :=
  [1, 2, 4, 8, 12, 16].contains n && o + n ≤ 16 && (if n ≤ 2 then o % n == 0 else o % 4 == 0)

/-- Check 1 of R30. -/
def recordOk (d : List Nat) : Bool :=
  let w := fun (i : Nat) => getAt d i
  w 0 < 2 ^ 56 && w 1 < 2 ^ 57 && w 2 < 2 ^ 46 && w 3 < 2 ^ 56 && ([4, 5, 6, 7].all fun i => bitsOf (w i) 15 12 == 0)
    && w 8 < 2 ^ 13 && w 9 < 2 ^ 8 && ([10, 11, 12, 13, 14, 15].all fun i => w i == 0) && bitsOf (w 2) 45 43 ≤ 4

/-- A copy of a descriptor (R131). Nonzero reserved fields are ignored (DESIGN CHOICE, log 125). -/
def descOf (k : List Nat) : Desc :=
  let w := fun (i : Nat) => getAt k i
  { entry := w 0 % 2 ^ 56, gen := bitsOf (w 1) 47 44, forken := bitsOf (w 1) 43 43 == 1, shadow := bitsOf (w 1) 42 38,
    scr4k := bitsOf (w 1) 37 28, regs := 16 * (bitsOf (w 1) 27 24 + 1), g := bitsOf (w 1) 23 20 + 1,
    prio := BitVec.ofNat 4 (bitsOf (w 1) 19 16), gangw := bitsOf (w 1) 15 13, keymask := bitsOf (w 2) 58 56,
    tbase := w 2 % 2 ^ 56, stx := BitVec.ofNat 64 (w 3), sty := BitVec.ofNat 64 (w 4), stz := BitVec.ofNat 64 (w 5),
    codebase := w 6 % 2 ^ 56, codelen := w 7, nbind := w 8 % 32, bindtab := w 9 % 2 ^ 56 }

/-- A binding record: its entry and what it binds (R131); the reserved KIND 3 too (DESIGN CHOICE, log 125). -/
def bindOf (b : List Byte) : Nat × Binding :=
  let w := fun (i : Nat) => fieldAt b (8 * i) 8
  (bitsOf (w 1) 63 60, { kind := bitsOf (w 1) 59 58, obj := BitVec.ofNat 64 (w 0 % 2 ^ 56), base := BitVec.ofNat 64 (w 1 % 2 ^ 56),
                         extent := BitVec.ofNat 64 (w 2) })

/-- The launch that a record and a descriptor ask for. -/
def launchOf (c : Nat) (ra lid : W64) (dev : Bool) (d : List Nat) (k : Desc) (bs : List (Nat × Binding)) (obj : Nat) : Launch :=
  let w := fun (i : Nat) => getAt d i
  let ovr := bitsOf (w 2) 19 19 == 1
  { num := 0, ctx := c, recAddr := ra, lid := lid, device := dev, gx := bitsOf (w 1) 15 0 + 1, gy := bitsOf (w 1) 31 16 + 1
    gz := bitsOf (w 1) 47 32 + 1, lanes := bitsOf (w 1) 56 48 + 1, x0 := bitsOf (w 2) 3 0, y0 := bitsOf (w 2) 7 4
    w := bitsOf (w 2) 11 8 + 1, h := bitsOf (w 2) 15 12 + 1, pclass := bitsOf (w 2) 18 16
    gates := (List.range (bitsOf (w 2) 45 43)).map fun i => (w (4 + i) % 4096, BitVec.ofNat 64 (w (4 + i) / 65536))
    gated := bitsOf (w 2) 45 43 != 0, doneEn := bitsOf (w 8) 12 12 == 1, didx := w 8 % 4096
    karg := BitVec.ofNat 64 (w 3 % 2 ^ 56), desc := k, obj := obj, binds := bs
    g := if ovr then bitsOf (w 2) 23 20 + 1 else k.g
    regs := if ovr then 16 * (bitsOf (w 2) 27 24 + 1) else k.regs
    scratch := 4096 * (if ovr then bitsOf (w 2) 37 28 else k.scr4k)
    shadow := if ovr then bitsOf (w 2) 42 38 else k.shadow }

/-- Checks 4 to 7 of R30: the STATUS of the first that fails. GANGW 1 and 7 pass (DESIGN CHOICE, log 125). -/
def launchCheck (l : Launch) : Option Nat :=
  if !axisOk l.x0 l.w || !axisOk l.y0 l.h then some 0x10
  else if 16 < l.shadow || 192 * 4096 < l.scratch || 64 < l.g + l.shadow || 4096 < l.g * l.regs then some 0x11
  else if 32 * l.g < l.lanes then some 0x14
  else if l.g < l.desc.gangw || (0 < l.shadow && !l.desc.forken) then some 0x15
  else none

namespace State

/-- Validates a record (R30): a STATUS, or the launch; none while the pager has still to bring a page that it reads. An NBIND
from 17 to 31 and a GEN other than 3 pass (DESIGN CHOICE, log 125). -/
def validate (s : State) (c : Nat) (ra lid : W64) (dev : Bool) (d : List Nat) : Option ((Nat ⊕ Launch) × State) :=
  if !recordOk d then some (.inl 0x13, s)
  else
    match (s.ctx c).objs.find? fun o => !o.unloaded && o.kernels.contains (getAt d 0) with
    | none => some (.inl 0x12, s)
    | some o =>
      match s.devRead c (getAt d 0) 128 with
      | .error e => if e.1 = 0 then none else some (.inl 0x18, s)
      | .ok (kb, s1) =>
        let k := descOf (dwordsOf kb 16)
        match (if k.nbind = 0 then .ok ([], s1) else s1.devRead c k.bindtab (32 * k.nbind)) with
        | .error e => if e.1 = 0 then none else some (.inl 0x18, s1)
        | .ok (bb, s2) =>
          let l := launchOf c ra lid dev d k ((entries bb 32 k.nbind).map bindOf) o.obj
          match launchCheck l with
          | some st => some (.inl st, s2)
          | none => some (.inr l, s2)

/-- Accepts a launch: it joins its class behind the launches accepted before it (R32). -/
def accept (s : State) (l : Launch) : State :=
  { s.bump with launches := s.launches ++ [{ l with num := s.clk.serial, began := s.clk.serial }] }

/-- A launch that stands for a record when its STATUS is written. -/
def recordStub (c : Nat) (ra lid : W64) : Launch := { num := 0, ctx := c, recAddr := ra, lid := lid }

/-- Validates and accepts a record of the launch queue, and writes its STATUS (R30, R31); none while it must wait. -/
def takeRecord (s : State) (c : Nat) (ra lid : W64) (d : List Nat) : Option State :=
  match s.validate c ra lid false d with
  | none => none
  | some (.inl st, s) => some (s.writeStatus (recordStub c ra lid) st)
  | some (.inr l, s) => some ((s.accept l).writeStatus l 1)

/-- A launch from a device program (R162): the STATUS that it returns, and the state (DESIGN CHOICE, log 13); none while it
must wait. -/
def deviceLaunch (s : State) (c : Nat) (ra : W64) (d : List Nat) : Option (Nat × State) :=
  let lid := BitVec.ofNat 64 (2 ^ 32 + (s.ctx c).devLaunches + 1)
  match s.validate c ra lid true d with
  | none => none
  | some (.inl st, s) => some (st, s.writeStatus (recordStub c ra lid) st)
  | some (.inr l, s) =>
    if 256 ≤ (s.launches.filter fun x => x.ctx == c && x.device).length then some (0x16, s.writeStatus l 0x16)
    else some (1, ((s.accept l).modCtx c fun x => { x with devLaunches := x.devLaunches + 1 }).writeStatus l 1)

/-! ### The launch queue (R26 to R28) -/

/-- LQLOG is in range (R27). -/
def lqlogOk (x : Ctx) : Bool := 4 ≤ x.lqlog.toNat && x.lqlog.toNat ≤ 16

/-- The producer is ahead by more than the ring holds (R28). -/
def lqOver (x : Ctx) : Bool := 2 ^ x.lqlog.toNat < (x.lqprod - x.lqcons).toNat

/-- Looks for an overflow, and for the end of one: LQPROD holds a consistent value and LQLOG has been written (R28)
(DEDUCED, log 62). -/
def lqTest (s : State) (c : Nat) : State :=
  let x := s.ctx c
  if !lqlogOk x then s
  else match x.lqstop with
    | .overflow p l => if p && l && !lqOver x then s.modCtx c fun x => { x with lqstop := .run } else s
    | _ =>
      if lqOver x then (s.modCtx c fun x => { x with lqstop := .overflow false false }).hostRecord c { code := 0x20 } else s

/-- A write of LQPROD (R27, R28). -/
def writeLqprod (s : State) (c : Nat) (v : W64) : State :=
  let stop := match (s.ctx c).lqstop with
    | .overflow _ l => .overflow true l
    | _ => .run
  (s.modCtx c fun x => { x with lqprod := v.setWidth 32, lqstop := stop }).lqTest c

/-- A write of LQLOG (R27, R28). -/
def writeLqlog (s : State) (c : Nat) (v : W64) : State :=
  let stop := match (s.ctx c).lqstop with
    | .overflow p _ => .overflow p true
    | r => r
  (s.modCtx c fun x => { x with lqlog := v.setWidth 5, lqstop := stop }).lqTest c

/-- A context whose save, saved state or restore keeps its distributors and its queue still (R172). -/
def frozen (s : State) (c : Nat) : Bool := (s.ctx c).pstate != 0

/-- LAUNCH_RECORD_READ (R28). -/
def readRecord (s : State) (c : Nat) : State :=
  let s := s.lqTest c
  let x := s.ctx c
  if !x.en || x.reviving || s.frozen c || !lqlogOk x || x.lqstop != .run || x.lqprod == x.lqcons then s
  else
    let va := x.lqbase.toNat % 2 ^ 56 / 128 * 128 + 128 * (x.lqcons.toNat % 2 ^ x.lqlog.toNat)
    match s.devRead c va 128 with
    | .error e =>
      if e.1 = 0 then s
      else (s.modCtx c fun x => { x with lqstop := .unreadable }).hostRecord c
        { code := 0x23, info := BitVec.ofNat 64 va, launch := x.lqcons.setWidth 64 }
    | .ok (bs, t) =>
      ((t.modCtx c fun x => { x with lqcons := x.lqcons + 1 }).takeRecord c (BitVec.ofNat 64 va) (x.lqcons.setWidth 64)
        (dwordsOf bs 16)).getD s

/-! ### Gates (R33) -/

/-- The address of a completion counter (R27). -/
def counterVa (s : State) (c i : Nat) : Nat := (s.ctx c).ccbase.toNat % 2 ^ 56 / 2 ^ 15 * 2 ^ 15 + 8 * i

/-- Reads a launch's gates in order: whether all are met, or the failure of a read. A gate whose page the pager has still to
bring is not met yet. -/
def gatesMet (s : State) (c : Nat) : List (Nat × W64) → Option (Bool × State)
  | [] => some (true, s)
  | (i, v) :: r =>
    match s.devRead c (s.counterVa c i) 8 with
    | .error e => if e.1 = 0 then (s.gatesMet c r).map fun x => (false, x.2) else none
    | .ok (bs, s) =>
      match s.gatesMet c r with
      | none => none
      | some (ok, s) => some (ok && decide (v.toNat ≤ leNat bs), s)

/-- The acquire of counters by met gates: every copy of their lines is dropped (R33, R295). -/
def dropCounters (s : State) (l : Launch) : State :=
  let ks := l.gates.filterMap fun g => match s.xlate l.ctx 0 (BitVec.ofNat 64 (s.counterVa l.ctx g.1)) .read with
    | .ok _ k => some (lineKey k)
    | _ => none
  ((s.coh.lines.filter fun c => ks.contains c.line).map fun c => (c.cache, c.line)).foldl (fun s x => s.dropCopy x.1 x.2) s

/-- GATE_EVALUATION (R33). A launch whose gates are met ends A1 and A2 (R347) (DEDUCED, log 107). -/
def evalGates (s : State) (n : Nat) : State :=
  match s.launch? n with
  | none => s
  | some l =>
    if !l.gated || l.aborted then s
    else
      let s := s.modLaunch n fun l => { l with looked := s.clk.cycle }
      match s.gatesMet l.ctx l.gates with
      | none => (({ s.awake with launches := s.launches.filter fun x => x.num != n }).writeStatus l 0x19).sweepObjs l.ctx
      | some (false, s) => s
      | some (true, s) => (s.awake.dropCounters l).modLaunch n fun l => { l with gated := false, began := s.clk.serial }

/-! ### Disabling a context (R324) -/

/-- Frees a disabled context's pages and code-object references once its last launch has ended (R324, R137, R326); of a
context that was enabled again meanwhile, those of its former life (DEDUCED, log 67). -/
def freeCtx (s : State) (c : Nat) : State :=
  if (s.launches.any fun l => l.ctx == c) || ((s.ctx c).en && !(s.ctx c).reviving) then s
  else
    let x := s.ctx c
    let s := x.objs.foldl (fun s o => s.freeObj c o) s
    let s := s.freePagesOf ((x.held.map fun h => (List.range (pageCount h.big)).map fun i => h.tower + i).flatten
      ++ x.tabs.map fun t => t.2)
    let s : State := { s with devq := s.devq.filter fun w => w.ctx != c }
    (s.forgetAll x.asid.toNat).modCtx c fun x =>
      { x with reviving := false, poolused := 0, held := [], swapped := [], homes := [], tabs := [], saved := [], pstate := 0, inval := none
               podViews := [] }

/-! ### Ends of launches (R31, R167) -/

/-- Combs of a launch's grid. -/
def total (l : Launch) : Nat := l.gx * l.gy * l.gz

/-- LAUNCH_COMPLETE (R31) (DEDUCED, log 64). -/
def completeLaunch (s : State) (n : Nat) : State :=
  match s.launch? n with
  | none => s
  | some l =>
    if l.aborted || l.started.length < total l || l.ended < total l || (s.jobs.any fun j => j.launch == n)
        || (s.coh.sb.any fun e => e.launch == n) || (s.coh.bank.any fun b => b.launch == n)
        || [0, 1, 2, 3].any fun h => s.stuck h fun _ => true then s
    else
      let s := [0, 1, 2, 3].foldl (fun s h => s.writeBackAll h fun _ => true) s
      let s : State := { s with launches := s.launches.filter fun x => x.num != n }
      let s := s.writeStatus l 2
      let s : State := if l.doneEn then s.bumpCounter l l.didx else s
      s.sweepObjs l.ctx

/-- ABORT_COMPLETE (R167): the launch's combs are gone with it (DEDUCED, log 65). -/
def completeAbort (s : State) (n : Nat) : State :=
  match s.launch? n with
  | none => s
  | some l =>
    let cs := s.combs.filter fun c => c.launch == n
    if !l.aborted || (s.flights.any fun f => cs.any fun c => c.id == f.comb) || (s.jobs.any fun j => j.launch == n)
        || s.coh.sb.any fun e => e.launch == n && isGo e then s
    else
      let s := cs.foldl (fun s c => s.endComb c) s
      let held := ((s.ctx l.ctx).saved.filter fun v => v.comb.launch == n && !v.back).map fun v => v.comb
      let s := held.foldl (fun s c => s.freeCombPages c) s
      let s := s.modCtx l.ctx fun x => { x with saved := x.saved.map fun v => if v.comb.launch == n then { v with back := true } else v }
      let s : State := { s with launches := s.launches.filter fun x => x.num != n }
      ((s.writeStatus l 3).sweepObjs l.ctx).freeCtx l.ctx

/-! ### Fitting and starting a comb (R18 to R20) -/

/-- Group slots in use on a core. -/
def slotsOn (s : State) (core : Nat) : List Nat := ((s.combs.filter fun c => c.core == core).map fun c => c.slots).flatten

/-- Free group slots of a core in ascending order. -/
def freeSlots (s : State) (core : Nat) : List Nat := (List.range 64).filter fun i => !(s.slotsOn core).contains i

/-- Free registers of a core's vector register file. -/
def freeRegs (s : State) (core : Nat) : Nat :=
  4096 - ((s.combs.filter fun c => c.core == core).map fun c => c.g * c.regs).sum

/-- Whether `n` bytes of a core's array from an offset on lie in no window. -/
def runFree (s : State) (core off n : Nat) : Bool :=
  off + n ≤ 768 * 1024 && !s.combs.any fun c => c.core == core && meets off n c.spOff c.scratch

/-- A free run of scratchpad of `n` bytes at a 4 KiB boundary, the first from a free choice on (R209, log 14). -/
def scratchRun (s : State) (core n : Nat) : Option Nat :=
  let k := Config.freePick s.clk.free % 192
  ((List.range 192).map fun i => (k + i) % 192 * 4096).find? fun off => s.runFree core off n

/-- A comb of a launch fits a core (R19): its scratchpad is one run (R209). -/
def fits (s : State) (g shadow regs scratch core : Nat) : Bool :=
  g + shadow ≤ (s.freeSlots core).length && g * regs ≤ s.freeRegs core && (s.scratchRun core scratch).isSome

def fitsLaunch (s : State) (l : Launch) (core : Nat) : Bool := s.fits l.g l.shadow l.regs l.scratch core

/-- The launched lanes of group `j` (R15). -/
def launchedLanes (lanes j : Nat) : Lanes := BitVec.ofNat 32 (2 ^ min 32 (lanes - 32 * j) - 1)

/-- A group at its start: one main path at the kernel's first bundle (R13, R15, R25, R102, R159, R353)
(DESIGN CHOICE, log 4). -/
def newGroup (x : Ctx) (l : Launch) (num j slot cycle : Nat) : Group :=
  let m := launchedLanes l.lanes j
  { gidx := j, gslot := slot, s := List.replicate 64 0, x := List.replicate 4 0, q := List.replicate 8 0
    v := (List.range l.regs).map fun n => vreg fun i => Config.freeLane num n i
    prio := l.desc.prio, trapvec := x.ctxtv &&& trapvecMask, stkap := x.stkap.toNat * 2 ^ 30, launched := m
    paths := [{ pl := m, exm := m, pc := l.desc.entry, sid := num, born := cycle }] }

/-- COMB_START (R19, R20): the resources are taken in one step, the window's full/empty bits are emptied, and the initial
bindings and barriers are set (R131, R235) (DEDUCED, log 61). A device with a resident comb is in A0 (R347). Of two binding records that name one ENTRY the later one
stands (DESIGN CHOICE, log 117). -/
def startComb (s : State) (l : Launch) (lin core : Nat) (off : Bool) : State :=
  let x := s.ctx l.ctx
  let n := s.clk.serial
  let free := s.freeSlots core
  let sp := (s.scratchRun core l.scratch).getD 0
  let base := x.spap.toNat * 2 ^ 28
  let gs := ((List.range l.g).filter fun j => 32 * j < l.lanes).map fun j => newGroup x l (n + 1 + j) j (getAt free j) s.clk.cycle
  let c : Comb :=
    { id := n, launch := l.num, cx := lin % l.gx, cy := lin / l.gx % l.gy, cz := lin / (l.gx * l.gy), core := core, offh := off
      spOff := sp, spBase := BitVec.ofNat 64 (base + core * 2 ^ 20 + sp), scratch := l.scratch, spap := base, salt := n
      g := l.g, regs := l.regs, lanes := l.lanes, shadow := (free.drop l.g).take l.shadow, slots := free.take (l.g + l.shadow)
      binds := l.binds.foldl (fun b r => setAt b r.1 r.2) (List.replicate 16 {})
      bars := List.replicate 16 { expect := BitVec.ofNat 32 l.lanes }, eprog := List.replicate 64 0, groups := gs }
  let s : State := { s.awake with
    clk := { s.clk with serial := n + 1 + l.g, free := s.clk.free + 1 }
    combs := s.combs ++ [c]
    mem := (s.mem.clear (kScratch core sp) l.scratch).clear (sideKey (kScratch core sp) 0) (l.scratch / 4)
    full := s.full.filter fun w => !(core * 2 ^ 18 + sp / 4 ≤ w && w < core * 2 ^ 18 + (sp + l.scratch) / 4) }
  if l.started.contains lin then s else s.modLaunch l.num fun l => { l with started := l.started ++ [lin] }

/-! ### Placement (R35 to R38) -/

/-- The first line of a comb's tile (R35). -/
def tileLine (l : Launch) (lin : Nat) : Nat :=
  let d := l.desc
  let k := fun (i n : Nat) => if d.keymask.testBit i then BitVec.ofNat 64 n else 0
  let a := BitVec.ofNat 64 d.tbase + k 0 (lin % l.gx) * d.stx + k 1 (lin / l.gx % l.gy) * d.sty + k 2 (lin / (l.gx * l.gy)) * d.stz
  a.toNat % 2 ^ 56 / 128 * 128

/-- The tower page that stands at an address of a stack aperture, if the group's stack page is allocated (R353). -/
def stackPageAt (s : State) (ctx core slot base : Nat) : Option Nat :=
  ((s.combs.filter fun c => c.core == core && s.ctxOf c == ctx).map fun c => c.groups.filter fun g => g.gslot == slot && g.stkap == base).flatten.head?.bind
    fun g => g.stack

/-- The home hive of a line for a launch (R36) (DEDUCED, log 60): the host's tables have no effect inside the apertures
(R208, R353). -/
def homeOf (s : State) (l : Launch) (va : Nat) : Nat :=
  let origin := hiveXY l.x0 l.y0
  if (s.inAperture l.ctx va).isSome then origin
  else match s.inStack l.ctx va with
  | some (core, slot, _, base) => ((s.stackPageAt l.ctx core slot base).map fun p => homeHive (kTower (p * 65536))).getD origin
  | none => match s.walkCtx l.ctx va with
    | .fault _ => origin
    | .leaf e big _ =>
      if leafTT e != 0 then origin
      else if leafPresent e then homeHive (kTower (leafAddr e + va % (if big then 2 ^ 21 else 65536)))
      else if e.getLsbD 9 then (e.extractLsb' 7 2).toNat else origin

/-- The slice of a line within its hive (R36). -/
def sliceOf (va : Nat) : Nat := (va / 2 ^ 7 % 16) ^^^ (va / 2 ^ 11 % 16) ^^^ (va / 2 ^ 15 % 16) ^^^ (va / 2 ^ 19 % 16)

/-- The four cores beside slice (h, s) (R37), as coordinates. -/
def beside (h sl : Nat) : List (Nat × Nat) :=
  [(0, 0), (1, 0), (0, 1), (1, 1)].map fun d => (8 * (h % 2) + 2 * (sl % 4) + d.1, 8 * (h / 2) + 2 * (sl / 4) + d.2)

/-- The cores of a launch's rectangle, by lower x and then lower y. -/
def rectCores (l : Launch) : List Nat :=
  ((List.range l.w).map fun i => (List.range l.h).map fun j => coreAt (l.x0 + i) (l.y0 + j)).flatten

/-- The element of a list with the least measure; the first of equals. -/
def argmin (f : Nat → Nat) (l : List Nat) : Option Nat :=
  l.foldl (fun b x => match b with | none => some x | some y => if f x < f y then some x else some y) none

/-- |a − b|. -/
def absDiff (a b : Nat) : Nat := max a b - min a b

/-- The home hive of a comb and its candidate cores, by lower x and then lower y (R37, R38). -/
def candidates (s : State) (l : Launch) (lin : Nat) : Nat × List Nat :=
  if l.desc.keymask == 0 then
    let count := fun (h : Nat) => ((rectCores l).filter fun c => hiveOf c == h).length
    ((argmin (fun h => 256 - count h) [0, 1, 2, 3]).getD 0, rectCores l)
  else
    let line := tileLine l lin
    let four := beside (s.homeOf l line) (sliceOf line)
    let cs := (rectCores l).filter fun c => four.contains (coreX c, coreY c)
    let far := fun (c : Nat) => (four.map fun p => absDiff (coreX c) p.1 + absDiff (coreY c) p.2).foldl min 64
    let cs := if cs.isEmpty then (argmin far (rectCores l)).toList else cs
    (hiveOf (cs.headD 0), cs)

/-- Of cores that a comb fits, the one with the fewest group slots in use (R38, R40). -/
def bestCore (s : State) (l : Launch) (cs : List Nat) : Option Nat :=
  argmin (fun c => (s.slotsOn c).length) (cs.filter fun c => s.fitsLaunch l c)

/-! ### Dispatch (R34) -/

/-- Launches whose combs are dispatchable, oldest first. -/
def dispatchable (s : State) : List Launch := s.launches.filter fun l => !l.gated && !l.aborted && !s.frozen l.ctx

/-- The first comb from `i` on that waits at distributor `h`; the fuel counts combs. A waiting comb's home slice and home
distributor are worked out anew at every look, so that it changes queues when its tile's page is allocated (R36 fixes no
moment; DESIGN CHOICE, log 118). -/
def nextAt (s : State) (l : Launch) (h i : Nat) : Nat → Option Nat
  | 0 => none
  | n + 1 => if !l.started.contains i && (s.candidates l i).1 == h then some i else s.nextAt l h (i + 1) n

/-- The comb of a launch that distributor `h` would take next. -/
def headOf (s : State) (h : Nat) (l : Launch) : Option (Launch × Nat) := (s.nextAt l h 0 (total l)).map fun i => (l, i)

/-- The first comb of each launch at a distributor, oldest launch first. -/
def headsAt (s : State) (h : Nat) : List (Launch × Nat) := s.dispatchable.filterMap fun l => s.headOf h l

/-- The highest priority class among some combs. -/
def topClass (hs : List (Launch × Nat)) : Nat := hs.foldl (fun a x => max a x.1.pclass) 0

/-- DISTRIBUTOR_DISPATCH (R34, R38). -/
def dispatch (s : State) (h : Nat) : State :=
  let hs := s.headsAt h
  let top := hs.filter fun x => x.1.pclass == topClass hs
  match top.findSome? fun x => (s.bestCore x.1 (s.candidates x.1 x.2).2).map fun k => (x, k) with
  | none => s
  | some (x, k) => s.startComb x.1 x.2 k false

/-! ### Stealing (R39, R40) -/

/-- Dispatchable combs queued at a distributor. -/
def queuedAt (s : State) (h : Nat) : Nat :=
  (s.dispatchable.map fun l => ((List.range (total l)).filter fun i =>
    !l.started.contains i && (s.candidates l i).1 == h).length).sum

/-- Cores of a hive. -/
def hiveCores (h : Nat) : List Nat := (List.range 256).filter fun c => hiveOf c == h

/-- STEAL_REQUEST (R39): a dry distributor asks the one with the most queued combs. -/
def stealRequest (s : State) (h : Nat) : State :=
  let d := s.dist h
  let others := [0, 1, 2, 3].filter fun v => v != h
  if 4 ≤ h || d.victim.isSome || d.silent.isSome || !(s.headsAt h).isEmpty || !((hiveCores h).any fun c => !(s.freeSlots c).isEmpty) then s
  else
    let most := (others.map fun v => s.queuedAt v).foldl max 0
    if most = 0 then s
    else match others.find? fun v => s.queuedAt v == most with
      | none => s
      | some v => s.modDist h fun d => { d with victim := some v }

/-- STEAL_ANSWER (R39, R40): the comb leaves the victim's queue at once. -/
def stealAnswer (s : State) (h : Nat) : State :=
  match (s.dist h).victim, (s.dist h).answer with
  | some v, none =>
    let hs := (s.headsAt v).filter fun x => (rectCores x.1).any fun c => hiveOf c == h && s.fitsLaunch x.1 c
    match hs.find? fun x => x.1.pclass == topClass hs with
    | none => s.modDist h fun d => { d with victim := none, silent := some (s.clk.cycle + 512) }
    | some (l, i) =>
      (s.modLaunch l.num fun l => { l with started := l.started ++ [i] }).modDist h fun d => { d with answer := some (some (l.num, i)) }
  | _, _ => s

/-- STOLEN_COMB_PLACE (R40): off-home, on the thief's least-loaded fitting core. -/
def placeStolen (s : State) (h : Nat) : State :=
  match (s.dist h).answer with
  | some (some (n, i)) =>
    match s.launch? n with
    | none => s.modDist h fun _ => {}
    | some l =>
      if l.aborted then s.modDist h fun _ => {}
      else if s.frozen l.ctx then s
      else match s.bestCore l ((rectCores l).filter fun c => hiveOf c == h) with
        | none => s
        | some k =>
          let s := (s.startComb l i k true).modDist h fun _ => {}
          { s with dev := { s.dev with offhome := setAt s.dev.offhome h (getAt s.dev.offhome h + 1) } }
  | _ => s

/-- STEAL_SILENCE_EXPIRY (R39). -/
def silenceEnds (s : State) (h : Nat) : State :=
  match (s.dist h).silent with
  | some t => if t ≤ s.clk.cycle then s.modDist h fun d => { d with silent := none } else s
  | none => s

end State

/-- LQPROD_WRITE (R28). -/
def execLqprodWrite (c : Nat) (v : W64) (s : State) : Out State := .next (s.pageWrite c fun s => s.writeLqprod c v)

/-- LAUNCH_RECORD_READ (R28). -/
def execLaunchRecordRead (c : Nat) (s : State) : Out State := .next (s.readRecord c)

/-- GATE_EVALUATION (R33). -/
def execGateEvaluation (n : Nat) (s : State) : Out State := .next (s.evalGates n)

/-- LAUNCH_COMPLETE (R31). -/
def execLaunchComplete (n : Nat) (s : State) : Out State := .next (s.completeLaunch n)

/-- ABORT_COMPLETE (R167). -/
def execAbortComplete (n : Nat) (s : State) : Out State := .next (s.completeAbort n)

/-- DISTRIBUTOR_DISPATCH (R34). -/
def execDistributorDispatch (h : Nat) (s : State) : Out State := .next (s.dispatch h)

/-- STEAL_REQUEST (R39). -/
def execStealRequest (h : Nat) (s : State) : Out State := .next (s.stealRequest h)

/-- STEAL_ANSWER (R40). -/
def execStealAnswer (h : Nat) (s : State) : Out State := .next (s.stealAnswer h)

/-- STOLEN_COMB_PLACE (R40). -/
def execStolenCombPlace (h : Nat) (s : State) : Out State := .next (s.placeStolen h)

/-- STEAL_SILENCE_EXPIRY (R39). -/
def execStealSilenceExpiry (h : Nat) (s : State) : Out State := .next (s.silenceEnds h)

end Sys2Proof.Machine
end

