-- ==== Sys2Proof/Machine/Release.lean ====
section
/-! DEFINITION. Release moves (R294): the synchronising step of an issued instruction is performed once what must come
before it has been, with the acquire that directly follows it (R295). -/

namespace Sys2Proof.Machine

namespace State

/-- What a step does: the state, and the register writes and latch of its result. -/
structure StepRes where
  s      : State
  writes : List RegWrite := []
  latch  : Option Latch := none
  accs   : Option (List Acc) := none

/-- A step with a scalar result for the instruction's destination. -/
def withScalar (s : State) (f : Flight) (v : W64) : StepRes :=
  let r := (default : Env).outS f.form f.lanes v
  { s := s, writes := r.1, latch := r.2 }

/-- Whether a release of a region at a scope waits because a dirty line of it cannot be written back yet (R294). -/
def homeHeld (s : State) (c : Comb) (scope : Nat) (r : List (Nat × Nat)) : Bool :=
  4 ≤ scope && s.stuck (hiveOf c.core) fun k => s.lineIn (s.ctxOf c) c.core k r

/-- Writes back a hive's dirty lines of a region before a release at POD or SYSTEM (R294). -/
def releaseTo (s : State) (c : Comb) (scope : Nat) (r : List (Nat × Nat)) : State :=
  if 4 ≤ scope then s.writeBackAll (hiveOf c.core) fun k => s.lineIn (s.ctxOf c) c.core k r else s

/-- The step of a bar.post (R236): it returns the phase that the arrival joined (DEDUCED, log 72). -/
def postStep (s : State) (c : Comb) (f : Flight) (b : Nat) (count : W32) (bytes : W64) : Option StepRes :=
  let r := boundRegion f.binds 0 (BitVec.ofNat 64 b)
  if !s.mayRelease f.comb f.group f.fid f.ord false r then none
  else match s.barRef c b with
    | none => some (s.withScalar f 0)
    | some x =>
      let phase := (s.barGet c x).phase
      if s.homeHeld c (barScope x) r then none else some (((s.releaseTo c (barScope x) r).arrive c x count bytes).withScalar f (phase.setWidth 64))

/-- The step of a bar.set (R236). -/
def setStep (s : State) (c : Comb) (f : Flight) (b : Nat) (expect : W32) : Option StepRes :=
  if s.syncAhead f then none
  else match s.barRef c b with
    | none => some { s := s }
    | some x =>
      some { s := s.barChange c x (fun y => { y with expect := expect, broken := false })
                    { asid := 0, n := 0, dev := 0, count := expect.toNat, kind := .init } }

/-- The acquire of a wait that is over (R236, R295). -/
def holdStep (s : State) (c : Comb) (f : Flight) (b : Nat) : Option StepRes :=
  if s.syncAhead f then none
  else
    let scope := match s.barRef c b with | some x => barScope x | none => 0
    some { s := s.acquireFor c f scope (boundRegion f.binds 0 (BitVec.ofNat 64 b)) }

/-- The step of a ldfe or stfe in all its lanes at once (R233). -/
def feStep (s : State) (c : Comb) (f : Flight) (take set : Bool) (ws : List Nat) (scope : Nat) : Option StepRes :=
  let words := f.accs.map (fun a => (a.va.toNat / 128, a.va.toNat / 128 + 1)) ++ f.stores.map fun x => (x.va.toNat / 128, x.va.toNat / 128 + 1)
  let r := feRegion f
  if !s.mayRelease f.comb f.group f.fid f.ord false (r ++ words) || s.homeHeld c scope r then none
  else
    let accs := f.accs.map fun a => { a with val := some (s.natAt a.key a.size) }
    let s := s.releaseTo c scope r
    let s := s.perform ((f.stores.map fun x => x.data).flatten)
    let empty := s.full.filter fun w => !ws.contains w
    let s : State := { s with full := if set then ws ++ empty else if take then empty else s.full }
    some { s := s.acquireFor c f scope r, accs := some accs }

/-- The step of fence.all (R243, R297): every earlier access has been performed, then everything is acquired. -/
def fenceStep (s : State) (c : Comb) (f : Flight) (scope : Nat) : Option StepRes :=
  if !s.mayRelease f.comb f.group f.fid f.ord true [] || (s.olderFlights f.comb f.group f.ord).any (fun x => !x.rcn.isEmpty || x.fin == .engine)
      || (4 ≤ scope && s.stuck (hiveOf c.core) fun _ => true) then none
  else
    let s : State := if 4 ≤ scope then s.writeBackAll (hiveOf c.core) fun _ => true else s
    some { s := s.acquireAllFor c f scope }

/-- Whether a bank command that the path issued before a fence.bank has not been performed (R244, R261). -/
def fenceWaits (s : State) (f : Flight) : Bool :=
  (s.coh.bank.any fun b => f.cmds.contains b.num || (b.comb == f.comb && b.group == f.group && b.ord.before f.ord))
    || ((s.olderEntries f.comb f.group f.ord).any fun e => e.tt == 6 || isGo e)
    || ((s.olderFlights f.comb f.group f.ord).any fun x => x.op == .mmv || x.stores.any fun y => y.tt == 6 || y.tt == 5)
    || s.jobs.any fun j => j.comb == f.comb && j.group == f.group && j.ord.before f.ord && (getAt j.card 0).toNat / 2 ^ 60 == 3

/-- The step of fence.bank (R244). -/
def fenceBankStep (s : State) (c : Comb) (f : Flight) (base extent : W64) : Option StepRes :=
  if s.fenceWaits f then none
  else some { s := s.acquireFor c f 3 (linesOf base extent).toList }

/-- The step of launch (R162): the release, the acquire of the record's line and its read; it waits while a page that the
device reads cannot be made present yet (R326) (DEDUCED, log 63), or while the line's dirty bytes cannot reach its home. -/
def launchStep (s : State) (c : Comb) (f : Flight) (a : W64) : Option StepRes :=
  let x := s.ctxOf c
  let r := (linesOf a 128).toList
  if !s.mayRelease f.comb f.group f.fid f.ord true [] || s.stuck (hiveOf c.core) (fun k => s.lineIn x c.core k r) then none
  else
    let s := s.acquireFor c f 3 r
    match s.devRead x a.toNat 128 with
    | .error (0, _) => none
    | .error _ => some (s.withScalar f 0x18)
    | .ok (bs, s) => (s.deviceLaunch x a (dwordsOf bs 16)).map fun r => r.2.withScalar f (BitVec.ofNat 64 r.1)

/-- Whether a GO that the group issued before a bclose has not been accepted or rejected (R276). -/
def goAhead (s : State) (f : Flight) : Bool :=
  (s.coh.sb.any fun e => e.comb == f.comb && e.group == f.group && e.fid < f.fid && isGo e)
    || s.flights.any fun x => x.comb == f.comb && x.group == f.group && x.fid < f.fid && x.stores.any fun y =>
      y.tt == 5 && y.data.any fun d => d.1 == key 9 0x20

/-- The step of bclose (R276): the open jobs become batch CLOSED + 1, and its record is written. -/
def bcloseStep (s : State) (c : Comb) (f : Flight) (a : W64) : Option StepRes :=
  if s.goAhead f then none
  else match s.group? f.comb f.group with
    | none => some { s := s }
    | some g =>
      let n := g.closed + 1
      let b : Batch := { num := n, record := a, jobs := g.openJobs }
      let g1 := { g with closed := n, openJobs := [], batches := g.batches ++ [b] }
      let s := s.modGroup f.comb f.group fun _ => raiseDone g1 g1.batches.length
      let x := s.ctxOf c
      let lid := ((s.launch? c.launch).map fun l => l.lid).getD 0
      let head := batchHead b (if batchDone b then failedIn b else 0)
      let items := (b.jobs.map fun (j : BatchJob) => leBytes 8 ((j.status.map fun w => w.toNat).getD 0)).flatten
      let s : State := if a == 0 then s else s.devWriteOr22 x a.toNat (head ++ items) lid
      some (s.withScalar f (n.setWidth 64))

/-- Failed and cancelled jobs of the batches after `p` and up to `n` (R277). -/
def failedBetween (g : Group) (p n : W32) : Nat :=
  ((g.batches.filter fun b => 1 ≤ (b.num - p).toNat && (b.num - p).toNat ≤ (n - p).toNat).map failedIn).sum

/-- The step of bwait (R277): the acquire of the batches' destinations and records, and the count of failures. -/
def bwaitStep (s : State) (c : Comb) (f : Flight) (n : W32) : Option StepRes :=
  if s.syncAhead f then none
  else match s.group? f.comb f.group with
    | none => some { s := s }
    | some g =>
      let ahead := (n - g.prevWait).toNat < 2 ^ 31
      let k := if ahead then failedBetween g g.prevWait n else 0
      let s := s.acquireFor c f 3 (s.batchRegion f.comb f.group n ++ s.recordRegion f.comb f.group n)
      let s := s.modGroup f.comb f.group fun g => { g with prevWait := if ahead then n else g.prevWait }
      some (s.withScalar f (BitVec.ofNat 64 k))

/-- The step of a flight when it may be performed. -/
def syncStep (s : State) (c : Comb) (f : Flight) : Option StepRes :=
  match f.sync with
  | none => none
  | some (.post b count bytes _) => s.postStep c f b count bytes
  | some (.set b e) => s.setStep c f b e
  | some (.hold b) => s.holdStep c f b
  | some (.acq e scope) => if s.syncAhead f then none else some { s := s.acquireFor c f scope (entryRegion f e) }
  | some (.rel e scope) =>
    if s.mayRelease f.comb f.group f.fid f.ord false (entryRegion f e) && !s.homeHeld c scope (entryRegion f e) then some { s := s.releaseTo c scope (entryRegion f e) } else none
  | some (.fence scope) => s.fenceStep c f scope
  | some (.fenceBank b e) => s.fenceBankStep c f b e
  | some (.fe take set ws scope) => s.feStep c f take set ws scope
  | some (.atomRel _) => some { s := s }
  | some (.launchRec a _) => s.launchStep c f a
  | some (.bwait n) => s.bwaitStep c f n
  | some (.bclose a _) => s.bcloseStep c f a

/-- RELEASE (R294). -/
def releaseMove (s : State) (fid : Nat) : State :=
  match s.flight? fid with
  | none => s
  | some f =>
    match s.comb? f.comb with
    | none => s
    | some c =>
      match s.syncStep c f with
      | none => s
      | some r => r.s.modFlight fid fun f =>
          { (r.s.later f) with sync := none, stores := [], writes := f.writes ++ r.writes
                               latch := (match r.latch with | some x => some x | none => f.latch), accs := r.accs.getD f.accs }

end State

/-- RELEASE (R294). -/
def execRelease (fid : Nat) (s : State) : Out State := .next (s.releaseMove fid)

end Sys2Proof.Machine
end

