-- ==== Sys2Proof/Machine/Special.lean ====
section
/-! DEFINITION. mfs, mts, setseed and setseed.grp (R158 to R160). -/

namespace Sys2Proof.Machine

/-- Notes the value of BATCH that a continuation reads: it commits only if BATCH still has it then (R316) (DEDUCED, log
44). -/
def noteBatch (e : Env) (f : Form) : State :=
  match e.fork with
  | some k =>
    if f.s0 == .spec .batch && e.active f.pred != 0 then
      e.s.modGroup e.ref.comb e.ref.group fun g => g.modFork k.num fun k => { k with batches := (batchOf g :: k.batches).eraseDups }
    else e.s
  | none => e.s

/-- mfs (R158): the register's value when the instruction issues. -/
def execMfs (f : Form) (s : State) : Out State :=
  runIsa .mfs f s fun e => { e with s := noteBatch e f }.regPlan .mfs f [] {} (e.after 2) fun _ =>
    let act := e.active f.pred
    match f.s0 with
    | .spec r =>
      if act == 0 then ([], none, {})
      else
        let w := e.outS f act (readSpecial e.s e.c e.g e.p r)
        (w.1, w.2, {})
    | _ => ([], none, {})

/-- mts (R158): the write is made when the instruction completes. -/
def execMts (f : Form) (s : State) : Out State :=
  runIsa .mts f s fun e => e.regPlan .mts f [(f.s0, uniNeed)] {} (e.after 2) fun _ =>
    match f.dst with
    | .spec r => (if e.active f.pred == 0 then [] else [.sreg r (e.uni f f.s0)], none, {})
    | _ => ([], none, {})

/-- Mix of R160: the six steps of SRBits on a value. -/
def mix (z : W64) : W64 :=
  let x := z ^^^ (z >>> 30)
  let x := x * 0xBF58476D1CE4E5B9#64
  let x := x ^^^ (x >>> 27)
  let x := x * 0x94D049BB133111EB#64
  x ^^^ (x >>> 31)

/-- setseed (R160). -/
def execSetseed (f : Form) (s : State) : Out State :=
  runIsa .setseed f s fun e => e.regPlan .setseed f [(f.s0, uniNeed)] {} (e.after 2) fun _ =>
    (if e.active f.pred == 0 then [] else [.sreg .seed (e.uni f f.s0)], none, {})

/-- setseed.grp (R160): mixed with the comb's linear index and the group's. -/
def execSetseedGrp (f : Form) (s : State) : Out State :=
  runIsa .setseedGrp f s fun e => e.regPlan .setseedGrp f [(f.s0, uniNeed)] {} (e.after 2) fun _ =>
    let c : W64 := BitVec.ofNat 64 (combIndex e.l e.c * 16 + e.g.gidx)
    (if e.active f.pred == 0 then [] else [.sreg .seed (mix (e.uni f f.s0 ^^^ (c * 0x9E3779B97F4A7C15#64)))], none, {})

end Sys2Proof.Machine
end

