-- ==== Sys2Proof/Machine/Try.lean ====
section
/-! DEFINITION. Whether a path would stall at its next instruction (R42, R215): the instruction is tried, and it stalls when
its path has neither issued it nor taken its trap. -/

namespace Sys2Proof.Machine

/-- An instruction of the path chosen to issue, by its name. -/
def isaRun (o : Op) (f : Form) (s : State) : Out State :=
  match o with
  | .nop => execNop f s
  | .br => execBr f s
  | .brx => execBrx f s
  | .brxTab => execBrxTab f s
  | .call => execCall f s
  | .fcall => execFcall f s
  | .ret => execRet f s
  | .retTr => execRetTr f s
  | .trap => execTrap f s
  | .ipf => execIpf f s
  | .mfs => execMfs f s
  | .mts => execMts f s
  | .setseed => execSetseed f s
  | .setseedGrp => execSetseedGrp f s
  | .sadd => execSadd f s
  | .ssub => execSsub f s
  | .smul => execSmul f s
  | .smad => execSmad f s
  | .slog => execSlog f s
  | .sshf => execSshf f s
  | .scmp => execScmp f s
  | .ssel => execSsel f s
  | .smov => execSmov f s
  | .sadr => execSadr f s
  | .sbit => execSbit f s
  | .smm => execSmm f s
  | .add => execAdd f s
  | .sub => execSub f s
  | .mul => execMul f s
  | .mad => execMad f s
  | .log => execLog f s
  | .shf => execShf f s
  | .cmp => execCmp f s
  | .sel => execSel f s
  | .mov => execMov f s
  | .mm => execMm f s
  | .bit => execBit f s
  | .dot4 => execDot4 f s
  | .movxLd => execMovxLd f s
  | .movxSt => execMovxSt f s
  | .fadd => execFadd f s
  | .fmul => execFmul f s
  | .fma => execFma f s
  | .fmm => execFmm f s
  | .fcmp => execFcmp f s
  | .fsf => execFsf f s
  | .fcls => execFcls f s
  | .fsgn => execFsgn f s
  | .cvt => execCvt f s
  | .bmax => execBmax f s
  | .bscl => execBscl f s
  | .qnt => execQnt f s
  | .dqnt => execDqnt f s
  | .rblk => execRblk f s
  | .pack => execPack f s
  | .shfl => execShfl f s
  | .permLane => execPermLane f s
  | .permByte => execPermByte f s
  | .vote => execVote f s
  | .ballot => execBallot f s
  | .ballotGrp => execBallotGrp f s
  | .red => execRed f s
  | .scan => execScan f s
  | .popc => execPopc f s
  | .ld => execLd f s
  | .ldZ => execLdZ f s
  | .st => execSt f s
  | .ldsc => execLdsc f s
  | .stsc => execStsc f s
  | .stmc => execStmc f s
  | .dpf => execDpf f s
  | .rcn => execRcn f s
  | .atom => execAtom f s
  | .cas => execCas f s
  | .ldfeTake => execLdfeTake f s
  | .ldfePeek => execLdfePeek f s
  | .stfe => execStfe f s
  | .stfeForce => execStfeForce f s
  | .barMeet => execBarMeet f s
  | .barPost => execBarPost f s
  | .barHold => execBarHold f s
  | .barSet => execBarSet f s
  | .bind => execBind f s
  | .acq => execAcq f s
  | .rel => execRel f s
  | .fenceAll => execFenceAll f s
  | .fenceBank => execFenceBank f s
  | .mma => execMma f s
  | .mmv => execMmv f s
  | .accZero => execAccZero f s
  | .accFree => execAccFree f s
  | .accCopy => execAccCopy f s
  | .accAdd => execAccAdd f s
  | .accRdr => execAccRdr f s
  | .accRdc => execAccRdc f s
  | .accWrr => execAccWrr f s
  | .drain => execDrain f s
  | .epld => execEpld f s
  | .bclose => execBclose f s
  | .bwait => execBwait f s
  | .launch => execLaunch f s

namespace State

/-- The state after a path has tried an instruction. -/
def tried (s : State) (r : PathRef) (o : Op) (f : Form) : State :=
  match isaRun o f { s with clk := { s.clk with cur := some r } } with
  | .next t => t
  | _ => s

/-- Whether a path that tried its next instruction has stalled there: it is as it was, and its launch has not aborted; or it
is a continuation that waits for commit (R309, R311, R312). -/
def stalled (t : State) (e : Env) : Bool :=
  match t.path? e.ref with
  | none => false
  | some p => p.wait == .deferred || (p == e.p && (match t.launch? e.c.launch with | some l => !l.aborted | none => false))

/-- Whether a path would stall at an instruction now. -/
def stallsAt (s : State) (e : Env) (o : Op) (f : Form) : Bool := (s.tried e.ref o f).stalled e

end State

end Sys2Proof.Machine
end

