-- ==== Sys2Proof/Machine/Paths.lean ====
section
/-! DEFINITION. The schedule of paths: arriving at bundles (R96, R98), merging (R152 to R154, R166), instruction-cache
fills (R169), bar.meet's arrival step (R215), and the choice of the paths that issue in a cycle (R42 to R44). -/

namespace Sys2Proof.Machine

/-! ### Merging -/

/-- The larger of two issue cycles. -/
def laterIssue (a b : Option Nat) : Option Nat :=
  match a, b with
  | some x, some y => some (max x y)
  | some x, none => some x
  | none, y => y

/-- Two parts as one path: `gone` joins `keep`, and the merged path is a stream of its own (R153, R289, R109). -/
def Path.join (keep gone : Path) (sid : Nat) : Path :=
  { keep.lose with
    pl := keep.pl ||| gone.pl, exm := keep.exm ||| gone.exm, pend := State.unionPend keep.pend gone.pend
    lastIssue := laterIssue keep.lastIssue gone.lastIssue, nextOk := max keep.nextOk gone.nextOk, wait := .run
    sid := sid, past := ((keep.sid, sid) :: (gone.sid, sid) :: keep.past ++ gone.past).eraseDups }

/-- What is left of a group when path `gone` has become part of path `keep`. -/
def Group.joinPaths (g : Group) (keep gone : Path) (sid : Nat) (f : Path → Path) : Group :=
  let rest := g.paths.filter fun x => x.pix != gone.pix
  { g with paths := rest.map fun x =>
      if x.pix == keep.pix then f (keep.join gone sid)
      else if x.origin == some gone.pix then { x with origin := some keep.pix } else x }

namespace State

/-- Merges path `gone` of a group into path `keep`; `f` says what else the merge does. In-flight instructions of
`gone` go on as instructions of the merged path, and fill no latch of it (R109). -/
def mergePaths (s : State) (comb group : Nat) (keep gone : Path) (f : Path → Path := id) : State :=
  let n := s.clk.serial
  let s := s.bump.modGroup comb group fun g => g.joinPaths keep gone n f
  { s with flights := s.flights.map fun x =>
      if x.comb == comb && x.group == group && x.path == gone.pix then { x with path := keep.pix, latch := none } else x }

end State

/-! ### Reconvergence stacks (R153) -/

/-- What R153 does to a path that stands at JOIN bundle `j`: none when the top entry does not match. -/
def Path.atJoin (p : Path) (j : Nat) : Option Path :=
  match p.cstack with
  | e :: rest =>
    if e.jid != j || e.depth != p.depth then none
    else if !e.held then some (State.swapTop p e rest none)
    else if e.pc == p.pc then some (State.mergeTop p e rest)
    else none
  | [] => none

/-! ### Arms (R154) -/

/-- The other arm of the dual path. -/
def Group.otherArm (g : Group) (p : Path) : Option Path := g.paths.find? fun q => q.kind == .arm && q.pix != p.pix

/-- Lets an arm that waits for the other one run on (R154). -/
def Group.freeArm (g : Group) (q : Path) : Group :=
  g.modPath q.pix fun x => if x.wait == .point then { x with wait := .run, freedArm := true } else x

/-- What happens when a path stands at a JOIN bundle as an arm (R154). -/
inductive ArmStep where
  /-- it passes -/
  | pass
  /-- it waits for the other arm -/
  | wait
  /-- the waiting other arm is released -/
  | free (q : Path)
  /-- it merges with the waiting other arm -/
  | merge (q : Path)
deriving DecidableEq, Repr, Inhabited

/-- R154 for path `p` at a bundle with JOIN = 1 and id `j` (DEDUCED, log 36). -/
def Group.armAt (g : Group) (p : Path) (j : Nat) : ArmStep :=
  match g.dual with
  | none => .pass
  | some (jd, d) =>
    if p.kind != .arm || j != jd then .pass
    else
      match g.otherArm p with
      | none => .pass
      | some q =>
        let waits := q.wait == .point && q.cstack.isEmpty && q.depth == d
        if p.depth != d then (if waits then .free q else .pass)
        else if !p.cstack.isEmpty then .pass
        else if waits && q.pc == p.pc then .merge q
        else if p.freedArm || (match q.wait with | .returned _ => true | _ => false) then .pass
        else if waits then .free q
        else .wait

/-! ### Side paths (R166) -/

/-- Whether a path has a live parked or side path of its own. -/
def Group.hasSide (g : Group) (p : Path) : Bool := g.paths.any fun x => x.kind == .side && x.origin == some p.pix

/-- Whether a side path stands where its origin waits: the same bundle and next slot, at the same depth; an origin that has
issued its last slot only waits for the side path to end
(DEDUCED, log 37) (DEDUCED, log 41). A side path that still holds parts of its own passes (DESIGN CHOICE, log 127). -/
def sideMeets (side origin : Path) : Bool :=
  side.wait == .run && side.pc == origin.pc && side.depth == origin.depth && side.rstack == origin.rstack
    && side.inHandler == origin.inHandler && side.cstack.isEmpty && !origin.endAfter
    && (if origin.wait == .point then !side.arrived else origin.wait == .run && side.arrived && origin.arrived)

/-- The origin of a side path. -/
def Group.originOf (g : Group) (p : Path) : Option Path :=
  if p.kind != .side then none else p.origin.bind fun o => g.path? o

/-! ### Arriving at a bundle (R98) -/

/-- Whether a bundle address lies in a launch's code object (R98). The device links no object to another: every path of the
launch fetches from this one, and its return addresses name it, so a call reaches only functions of its own object (R125). -/
def Launch.holdsCode (l : Launch) (pc : Nat) : Bool := l.desc.codebase ≤ pc && pc < l.desc.codebase + l.desc.codelen

namespace State

/-- Asks for an instruction line once (R169). -/
def askLine (s : State) (core asid line : Nat) : State :=
  if s.coh.ireq.contains (core, asid, line) then s
  else { s with coh := { s.coh with ireq := (core, asid, line) :: s.coh.ireq } }

/-- A path at a bundle whose line is absent (R98, R166, R169): the line is requested, or the whole path parks on the
fetch fault, as it does when a part of the line is uncorrectable (R329) (DEDUCED, log 136). A continuation stalls (R312). -/
def fetchLine (s : State) (r : PathRef) (c : Comb) (x : Nat) (p : Path) : State :=
  let park := fun (code : Option Nat) =>
    if p.kind == .cont then s.modPath r fun p => { p with wait := .deferred }
    else s.modPath r fun p => { p with wait := .parked ((lanesOf p.exm).map fun l =>
      { lane := l, va := BitVec.ofNat 64 p.pc, need := .exec, code := code }) true false }
  match s.xlate x c.core (BitVec.ofNat 64 p.pc) .exec with
  | .ok tt k =>
    if tt == 3 || tt == 5 || tt == 6 then park (some 0x11)
    else if s.lostIn (k / 256 * 256) 256 then park (some 0x12)
    else s.askLine c.core (s.asid x) (p.pc / 256)
  | .absent => park none
  | .fault code => park (some code)

/-- A trap on arriving at a bundle; a continuation stalls until commit (R312). -/
def arrivalTrap (s : State) (r : PathRef) (p : Path) (code : Nat) : State :=
  if p.kind == .cont then s.modPath r fun p => { p with wait := .deferred }
  else s.takeTrap r { code := code, lanes := p.exm, open_ := true, arrival := true }

/-- A path stands at a bundle whose JOIN and END have been looked at: it issues from it, or goes on when no slot is
valid (R95, R96, R311). -/
def enter (s : State) (r : PathRef) (p : Path) (b : Bundle) : State :=
  match b.nextValid 0 with
  | some k => s.modPath r fun p => { p with arrived := true, slot := k, freed := p.freed && b.fin, freedArm := false }
  | none =>
    if !b.clean then s.arrivalTrap r p 0x01
    else if !b.fin then s.modPath r fun p =>
      { p with pc := (p.pc + 64) % 2 ^ 64, slot := 0, freed := false, freedArm := false }
    else if p.kind == .cont then s.modPath r fun p => { p with wait := .deferred }
    else s.endPath r

/-- A path stands at a bundle (R94, R153, R154, R166); a JOIN bundle without a valid slot is a reconvergence point too
(DESIGN CHOICE, log 122). -/
def standAt (s : State) (r : PathRef) (g : Group) (p : Path) (b : Bundle) : State :=
  let wait := s.modPath r fun p => { p with wait := .point }
  let home := (g.originOf p).bind fun o => if o.wait == .point && sideMeets p o then some o else none
  match home with
  | some o => s.mergePaths r.comb r.group o p
  | none =>
    if (b.join || b.fin) && g.hasSide p && !p.freed then wait
    else
      match (if b.join then p.atJoin b.joinId else none) with
      | some q => s.modPath r fun _ => q
      | none =>
        match (if b.join then g.armAt p b.joinId else .pass) with
        | .pass => s.enter r p b
        | .wait => wait
        | .free q => s.modGroup r.comb r.group fun g => g.freeArm q
        | .merge q =>
          let keep := if q.pix < p.pix then q else p
          let gone := if q.pix < p.pix then p else q
          (s.mergePaths r.comb r.group keep gone fun x => { x with kind := .main }).modGroup r.comb r.group fun g =>
            { g with dual := Option.none }

/-- BUNDLE_ARRIVAL (R98, R125). A path already in its bundle asks for the bundle's line again when the cache has lost it; one that
is to go on after its slot does so once the line is there (R95, R97, R164, R166). The extent is that of the launch's kernel
descriptor (DESIGN CHOICE, log 124). A path goes on after a fetch-extent trap by meeting it again (DESIGN CHOICE, log 123). -/
def arrive1 (s : State) (r : PathRef) : State :=
  match s.comb? r.comb with
  | none => s
  | some c =>
    match s.launch? c.launch, c.group? r.group with
    | some l, some g =>
      match g.path? r.path with
      | none => s
      | some p =>
        if p.wait != .run || l.aborted || ((s.ctx l.ctx).pstate != 0 && !p.arrived && !p.goOn) then s
        else
          match s.bundleAt c.core (s.asid l.ctx) p.pc with
          | none =>
            if p.arrived then s.fetchLine r c l.ctx p
            else if !l.holdsCode p.pc then s.arrivalTrap r p 0x04
            else s.fetchLine r c l.ctx p
          | some b =>
            if p.arrived then s
            else if !l.holdsCode p.pc then s.arrivalTrap r p 0x04
            else if p.goOn then (s.modPath r fun p => { p with goOn := false, arrived := true }).goAfter r b p.slot
            else s.standAt r g p b
    | _, _ => s

/-! ### Filling an instruction line (R169) -/

/-- The context with an address-space ID. -/
def ctxOfAsid (s : State) (a : Nat) : Option Nat := (List.range 64).find? fun c => (s.ctx c).en && s.asid c == a

/-- Puts a line into a core's instruction cache: 8 ways, the least recently used line of the set goes (R169); of several
last used in one cycle, the one filled last (DESIGN CHOICE, log 128). -/
def putLine (s : State) (l : ILine) : State :=
  let same := fun (x : ILine) => x.core == l.core && x.line % 64 == l.line % 64
  let ways := s.coh.il.filter same
  let old := ways.foldl (fun (b : Option ILine) x => match b with
    | none => some x
    | some y => if x.used < y.used then some x else some y) none
  let il := if ways.length < 8 then s.coh.il else s.coh.il.filter fun x => some x != old
  { s with coh := { s.coh with il := l :: il } }

/-- ICACHE_LINE_FILL (R169). A line with uncorrectable data is not filled (R329): its paths meet the fault. -/
def fillLine (s : State) (core asid line : Nat) : State :=
  if !s.coh.ireq.contains (core, asid, line) then s
  else
    let s : State := { s with coh := { s.coh with ireq := s.coh.ireq.filter fun x => x != (core, asid, line) } }
    if s.coh.il.any fun x => x.core == core && x.asid == asid && x.line == line then s
    else match s.ctxOfAsid asid with
      | none => s
      | some c =>
        match s.xlate c core (BitVec.ofNat 64 (line * 256)) .exec with
        | .ok _ k =>
          if s.lostIn k 256 then s
          else (s.note c (BitVec.ofNat 64 (line * 256))).putLine
            { core := core, asid := asid, line := line, data := s.bytesAt k 256, used := s.clk.cycle }
        | _ => s

end State

/-! ### Issue (R42 to R44) -/

/-- Whether an instruction is one of the waiting instructions before which a save stops a path (R172, R215). -/
def Op.waiting : Op → Bool
  | .ldfeTake | .ldfePeek | .stfe | .stfeForce | .barMeet | .barHold | .bwait => true
  | _ => false

/-- R42 but for the stall: the distance, the flags waited for, and the flag to be set. -/
def Env.timely (e : Env) : Bool :=
  let t := e.s.clk.cycle
  let c := e.b.ctl e.k
  (match e.p.lastIssue with
    | none => true
    | some t0 => t0 + c.dist ≤ t && t0 < t)
    && e.p.nextOk ≤ t
    && !(e.p.pend.any fun x => c.wait.getLsbD x.1)
    && !(c.setf ≤ 11 && e.p.pend.any fun x => x.1 == c.setf)

/-- The cycle to come. -/
def State.nextCycle (s : State) : State := { s with clk := { s.clk with cycle := s.clk.cycle + 1 } }

/-- The environment of a path that may run: its launch is not aborted, its context is not stopped, and it has arrived
at its bundle (R98, R167, R172). -/
def State.runnable (s : State) (r : PathRef) : Option Env :=
  match s.envOf r with
  | none => none
  | some e =>
    let ps := (s.ctx e.ctx).pstate
    let waits := match e.b.slotOp e.k with | some (o, _) => Op.waiting o | none => false
    if e.l.aborted || !e.p.arrived || e.p.wait != .run || 2 ≤ ps.toNat || (ps == 1 && waits) then none else some e

/-- Looks at a path in the cycle to issue in: the path when it is eligible (R42), and the state, in which a path that stalls
may be noted as one that waits (R312, R332). -/
def State.look (s : State) (r : PathRef) : State × Option Env :=
  match s.runnable r with
  | none => (s, none)
  | some e =>
    if !e.timely then (s, none)
    else match e.b.slotOp e.k with
      | none => (s, some e)
      | some (o, f) =>
        let t := s.tried r o f
        if t.stalled e then (t, none) else (s, some e)

/-- The paths of a core. -/
def State.pathsOn (s : State) (core : Nat) : List PathRef :=
  ((s.combs.filter fun c => c.core == core).map fun c =>
    (c.groups.map fun g => g.paths.map fun p => ({ comb := c.id, group := g.gidx, path := p.pix } : PathRef)).flatten).flatten

/-- The eligible paths of a core (R42). -/
def State.eligibleOn (s : State) (core : Nat) : List Env := (s.pathsOn core).filterMap fun r => (s.look r).2

/-- What the paths of a core that stall leave noted. -/
def State.noteStalls (s : State) (core : Nat) : State := (s.pathsOn core).foldl (fun s r => (s.look r).1) s

/-- A number for the issue cycle in which "never" is the least. -/
def Path.recency (p : Path) : Nat := match p.lastIssue with | none => 0 | some t => t + 1

/-- The PRIO that a choice uses: a write counts from the cycle after the one at which it completes (R25). -/
def Env.prioNow (e : Env) : BitVec 4 := if e.s.clk.cycle ≤ e.g.prioAt then e.g.prioOld else e.g.prio

/-- The order of choice (R43, R44): boosted first, then PRIO, least recent issue, lower group slot, older path; of two paths
that arose in the same cycle, the one with the lower stream number, so the taken arm before the other (DESIGN CHOICE,
log 110). -/
def Env.rank (e : Env) : List Nat :=
  [if e.p.boosted then 0 else 1, if e.p.boosted then 0 else 15 - e.prioNow.toNat, e.p.recency, e.gslot, e.p.born, e.p.sid]

/-- Whether one rank comes before another. -/
def rankLt : List Nat → List Nat → Bool
  | [], _ => false
  | _, [] => false
  | a :: as, b :: bs => a < b || (a == b && rankLt as bs)

/-- The environment of least rank. -/
def bestOf : List Env → Option Env
  | [] => none
  | e :: es =>
    match bestOf es with
    | none => some e
    | some x => if rankLt x.rank e.rank then some x else some e

/-- A continuation that is not boosted gives way to an eligible path of its own group on the slot (R308). -/
def givesWay (es : List Env) (e : Env) : Bool :=
  e.isCont && !e.p.boosted && es.any fun x => !x.isCont && x.ref.comb == e.ref.comb && x.ref.group == e.ref.group

/-- The path that an issue slot of a core chooses among its eligible paths (R43, R308). -/
def chooseSlot (es : List Env) (k : Nat) : Option Env :=
  let on := es.filter fun e => e.gslot % 4 == k
  bestOf (on.filter fun e => !givesWay on e)

/-- The paths chosen on a core. -/
def chosenOn (es : List Env) : List Env := (List.range 4).filterMap fun k => chooseSlot es k

namespace State

/-- Counts the cycles that paths have been eligible and unchosen (R44). -/
def countUnchosen (s : State) (elig chosen : List PathRef) : State :=
  { s with combs := s.combs.map fun c => { c with groups := c.groups.map fun g => { g with paths := g.paths.map fun p =>
      let r : PathRef := { comb := c.id, group := g.gidx, path := p.pix }
      { p with unchosen := if elig.contains r && !chosen.contains r then p.unchosen + 1 else 0 } } } }

/-- Issuing from a line makes it the most recently used (R169). -/
def touchLines (s : State) (es : List Env) : State :=
  let hit := fun (x : ILine) => es.any fun e => e.core == x.core && s.asid e.ctx == x.asid && e.p.pc / 256 == x.line
  { s with coh := { s.coh with il := s.coh.il.map fun x => if hit x then { x with used := s.clk.cycle } else x } }

/-- Whether a path must be boosted before the next cycle (R44). -/
def owesBoost (s : State) : Bool :=
  s.combs.any fun c => c.groups.any fun g => g.paths.any fun p => 1024 ≤ p.unchosen && !p.boosted

/-- Gates and rendezvous whose time has come: a launch with unmet gates looked at 3,000 cycles ago, which is 2 µs (R4, R33),
and an incomplete gang latch of 65,536 cycles (R250). -/
def overdue (s : State) : List Instr :=
  ((s.launches.filter fun l => l.gated && !l.aborted && l.looked + 3000 ≤ s.clk.cycle).map fun l => Instr.gateEvaluation l.num)
    ++ (s.combs.map fun c => (c.gangs.filter fun l => l.expired s.clk.cycle).map fun l => Instr.gangTimeout c.id l.gang).flatten

/-- ISSUE_CHOICE (R43): the next cycle begins, once all that completes before it has completed and what is overdue has been
done; each issue slot chooses a path, and the chosen ones issue in the steps that follow. -/
def choose (s : State) : State :=
  let ripe := s.flights.any fun f => s.ripe f
  if !s.clk.issuing.isEmpty || ripe || s.owesBoost then s
  else if !s.overdue.isEmpty then { s with clk := { s.clk with agenda := s.overdue ++ s.clk.agenda } }
  else
    let s := s.nextCycle
    let cores := (s.combs.map fun c => c.core).eraseDups
    let elig := (cores.map fun k => s.eligibleOn k)
    let all := elig.flatten
    let chosen := (elig.map fun es => chosenOn es).flatten
    let refs := chosen.map fun e => e.ref
    let s := cores.foldl noteStalls s
    let s := (s.countUnchosen (all.map fun e => e.ref) refs).touchLines chosen
    { s with clk := { s.clk with issuing := refs } }

/-- PATH_BOOST (R44). -/
def boost (s : State) (r : PathRef) : State :=
  s.modPath r fun p => if 1024 ≤ p.unchosen then { p with boosted := true } else p

/-- BAR_MEET_ARRIVAL (R215): the conditions of R42 other than the stall hold in the cycle to come. -/
def meetArrival (s : State) (r : PathRef) : State :=
  match s.nextCycle.runnable r, s.envOf r with
  | some e1, some e =>
    match e.b.slotOp e.k with
    | some (.barMeet, f) =>
      if e1.timely && (s.ctx e.ctx).pstate == 0 then barMeetStep e f else s
    | _ => s
  | _, _ => s

/-! ### Releases (R154, R166) -/

/-- Whether a path waits at a waiting instruction that satisfies `p`: it is its next instruction and would stall. -/
def waitsAt (s : State) (r : PathRef) (p : Op → Bool) : Bool :=
  match s.envOf r with
  | none => false
  | some e =>
    e.p.arrived && e.p.wait == .run && (match e.b.slotOp e.k with
      | none => false
      | some (o, f) => p o && s.stallsAt e o f && (o != .barMeet || e.p.joined.isSome || e.barHeld))

/-- The instructions of family bar. -/
def isBar : Op → Bool
  | .barMeet | .barPost | .barHold | .barSet => true
  | _ => false

/-- ARM_RELEASE (R154): a waiting arm runs on when the other arm starts to wait at a bar, ldfe, stfe or bwait, or for
its fork to resolve (R313, R316). The other two causes of R154 release it as they happen. -/
def armRelease (s : State) (r : PathRef) : State :=
  match s.group? r.comb r.group with
  | none => s
  | some g =>
    match g.path? r.path with
    | none => s
    | some p =>
      match g.otherArm p with
      | none => s
      | some q =>
        let back := match q.wait with | .returned _ => true | _ => false
        if p.kind == .arm && p.wait == .point && (back || s.waitsAt { r with path := q.pix } (fun o => isBar o || Op.waiting o)) then
          s.modGroup r.comb r.group fun g => g.freeArm p
        else s

/-- Whether the next instruction of a path is a bar. -/
def atBar (s : State) (r : PathRef) : Bool :=
  match s.envOf r with
  | none => false
  | some e => e.p.arrived && (match e.b.slotOp e.k with | some (o, _) => isBar o | none => false)

/-- SIDE_PATH_MERGE (R166): a side path merges into its waiting origin where it meets it, or releases it when it waits
at ldfe, stfe or bwait or has reached a bar at a different bundle. -/
def sideMerge (s : State) (r : PathRef) : State :=
  match s.group? r.comb r.group with
  | none => s
  | some g =>
    match g.path? r.path with
    | none => s
    | some p =>
      match g.originOf p with
      | none => s
      | some o =>
        let ro : PathRef := { r with path := o.pix }
        let held := o.wait == .point || (s.atBar ro && o.wait == .run && !o.freedBar)
        if !held then s
        else if sideMeets p o && (o.wait == .point || (s.envOf r).map (fun e => e.k) == (s.envOf ro).map fun e => e.k) then
          s.mergePaths r.comb r.group o p
        else if (match p.wait with | .returned _ => true | _ => false) || s.waitsAt r (fun o => Op.waiting o && !isBar o) || (s.atBar r && p.wait == .run && p.pc != o.pc) then
          s.modPath ro fun x => if x.wait == .point then { x with wait := .run, freed := true } else { x with freedBar := true }
        else s

end State

/-- ISSUE_CHOICE (R43). -/
def execIssueChoice (s : State) : Out State := .next s.choose

/-- PATH_BOOST (R44). -/
def execPathBoost (r : PathRef) (s : State) : Out State := .next (s.boost r)

/-- BUNDLE_ARRIVAL (R98). -/
def execBundleArrival (r : PathRef) (s : State) : Out State := .next (s.arrive1 r)

/-- ARM_RELEASE (R154). -/
def execArmRelease (r : PathRef) (s : State) : Out State := .next (s.armRelease r)

/-- SIDE_PATH_MERGE (R166). -/
def execSidePathMerge (r : PathRef) (s : State) : Out State := .next (s.sideMerge r)

/-- ICACHE_LINE_FILL (R169). -/
def execIcacheLineFill (core asid line : Nat) (s : State) : Out State := .next (s.fillLine core asid line)

/-- BAR_MEET_ARRIVAL (R215). -/
def execBarMeetArrival (r : PathRef) (s : State) : Out State := .next (s.meetArrival r)

end Sys2Proof.Machine
end

