-- ==== Sys2Proof/Machine/Fork.lean ====
section
/-! DEFINITION. Resolving forks (R313 to R317), discarding them (R318), and clearing a no-fork mark (R317). -/

namespace Sys2Proof.Machine

/-! ### Lane classes (R313) -/

/-- The lane classes of a fork at its resolution. -/
structure Classes where
  commit   : Lanes := 0
  mismatch : Lanes := 0
  discard  : Lanes := 0
deriving DecidableEq, Repr, Inhabited

/-- The callee's paths that stand at the return target (R313). -/
def Group.returnedPaths (g : Group) (k : Fork) : List Path := g.paths.filter fun p => p.wait == .returned k.num

/-- Whether the continuation read only predictions that came true in a lane (R313). -/
def Fork.predictedRight (k : Fork) (g : Group) (half l : Nat) : Bool :=
  (List.range 8).all fun r =>
    !lane (getAt k.reads r) l || (match getAt k.pred r with
      | some v => vlane v l == vlane (getAt g.v (half + r)) l
      | none => false)

/-- The classes of R313. -/
def classesOf (g : Group) (k : Fork) (half : Nat) : Classes :=
  let rets := g.returnedPaths k
  let pl := rets.foldl (fun m p => m ||| p.pl) 0
  let exm := rets.foldl (fun m p => m ||| p.exm) 0
  let back := k.lanes &&& pl
  let commit := maskOf fun l => lane back l && lane exm l && k.predictedRight g half l
  { commit := commit, mismatch := back &&& ~~~commit, discard := k.lanes &&& ~~~pl }

namespace State

/-- Whether the whole continuation is squashed (R314): `k.squash` holds items 1 to 3, which arose before. Discarded lanes are
lanes that the ordinary call would not run, and a wrong prediction that a cross-lane instruction read in a lane outside the
fork is one that no class shows: they too exclude cross-lane and scalar results (R316) (DEDUCED, log 45). BATCH must still
read as the continuation has read it (R316) (DEDUCED, log 44). -/
def squashed (g : Group) (k : Fork) (half : Nat) (c : Classes) : Bool :=
  let sides := (g.paths.filter fun p => p.kind == .side).length
  let wrong := allLanes.any fun l => !lane k.lanes l && !k.predictedRight g half l
  k.squash || wrong || k.batches.any (fun v => v != batchOf g) || ((c.mismatch ||| c.discard) != 0 && (k.crossL || k.scalarW)) || (c.mismatch != 0 && 4 ≤ sides)

/-! ### The predictor (R307) -/

/-- The predictor entry of a call site takes the values with which the lanes returned. A uniform value stands in every
lane (DEDUCED, log 46). -/
def learn (s : State) (core site : Nat) (g : Group) (half : Nat) (back : Lanes) : State :=
  if back == 0 then s
  else
    let i := site / 64 % 256
    let here := fun (x : PredEntry) => x.core == core && x.index == i
    let old : PredEntry := (s.cores.pred.find? here).getD { core := core, index := i }
    let regs := (List.range 8).map fun r =>
      let v := getAt g.v (half + r)
      let was : VReg := match old.regs[r]? with | some x => x.2.2 | none => []
      let vals := (lanesOf back).map fun l => vlane v l
      let first := vals.headD 0
      if vals.all (fun x => x == first) then (true, true, vreg fun _ => first)
      else (true, false, vreg fun l => if lane back l then vlane v l else vlane was l)
    let new : PredEntry := { core := core, index := i, regs := regs }
    { s with cores := { s.cores with pred := new :: s.cores.pred.filter fun x => !here x } }

/-! ### Call sites (R317) -/

/-- Counts a resolution at its call site: three in a row without a committing lane mark it. -/
def countResolution (s : State) (core site : Nat) (commits : Bool) : State :=
  let m := s.siteMark core site
  if m.noFork then s
  else if commits then s.setSite { m with rowN := 0, left := 0 }
  else
    let n := (if 3 ≤ m.rowN then 0 else m.rowN) + 1
    s.setSite { m with rowN := n, left := if n = 3 then 4096 else 0 }

/-! ### Acting on the classes (R315) -/

/-- Puts the writes of a continuation's committing lanes into the group's registers (R309). -/
def commitWrites (g : Group) (k : Fork) (m : Lanes) : Group :=
  k.wrote.foldl (fun g o =>
    match o.file with
    | 0 => if lane m o.lane then { g with v := setAt g.v o.num (vreg fun i =>
        if i = o.lane then o.val.setWidth 32 else vlane (getAt g.v o.num) i) } else g
    | 1 => { g with s := setAt g.s o.num o.val }
    | 2 => { g with x := setAt g.x o.num (o.val.setWidth 16) }
    | _ => if lane m o.lane then g.write (.q o.num (laneBit o.lane) (if o.val.getLsbD 0 then laneBit o.lane else 0)) else g) g

/-- The NF bits of a continuation's committing lanes (R72, R315). -/
def commitFlags (k : Fork) (m : Lanes) : BitVec 7 :=
  (lanesOf m).foldl (fun f l => f ||| getAt k.nfl l) k.nf

/-- The lowest path indexes from 0 to 5 that none of some paths holds. -/
def freeIndexes (ps : List Path) : List Nat := [0, 1, 2, 3, 4, 5].filter fun i => !ps.any fun p => p.pix == i

/-- The returned paths as one path. -/
def joinAll (sid : Nat) : List Path → Option Path
  | [] => none
  | p :: ps =>
    match joinAll sid ps with
    | none => some p
    | some q => some { p.join q sid with sid := p.sid, past := (p.past ++ [(q.sid, sid)] ++ q.past).eraseDups }

/-- A path's parts restricted to some lanes: parts without lanes are dropped, and the topmost part left runs (R315)
(DEDUCED, log 43). -/
def keepLanes (m : Lanes) (p : Path) : Path :=
  let cut := (p.cstack.map fun (e : RecEntry) => { e with pl := e.pl &&& m, exm := e.exm &&& m }).filter fun e => e.pl != 0
  if p.pl &&& m != 0 then { p with pl := p.pl &&& m, exm := p.exm &&& m, cstack := cut }
  else match cut with
    | [] => { p with pl := 0, exm := 0, cstack := [] }
    | e :: rest =>
      { p with pc := e.pc, slot := 0, arrived := false, pl := e.pl, exm := e.exm, pend := e.pend, rstack := e.rstack
               depth := e.depth, cstack := rest }

/-- A path of a resolved fork's callee that is not one of the returned ones, and no stray, goes on as a side path of `home`;
all of the callee's paths have their FDEPTH lowered (R306, R313). -/
def afterFork (k : Fork) (home : Option Nat) (gone : List Nat) (p : Path) : Path :=
  let p : Path := if p.follows k.calleeSid then { p with fdepth := p.fdepth - 1 } else p
  let p : Path := if p.kind == .arm || p.kind == .main then { p with kind := .side, origin := home } else p
  match p.origin with
  | some o => if gone.contains o then { p with origin := home } else p
  | none => p

/-- The parts of a path that the callee of a fork did not make: they stood in the caller's stack (R305). -/
def outerParts (n : Nat) (p : Path) : List RecEntry := p.cstack.filter fun e => e.outer.contains n

/-- Every lane of a path but those of the caller's older parts. -/
def calleeLanes (n : Nat) (p : Path) : Lanes :=
  p.cstack.foldl (fun m e => if e.outer.contains n then m else m ||| e.pl) p.pl

/-- Whether a path of the callee has only lanes that lie outside the fork: at the resolution they join the path that goes on
from it, with EXM clear (R305, R313) (DEDUCED, log 111). -/
def stray (k : Fork) (p : Path) : Bool :=
  p.kind != .cont && p.wait != .returned k.num && p.follows k.calleeSid && calleeLanes k.num p &&& ~~~k.outside == 0

/-- The caller's older parts, when the fork is resolved: one of each, from whichever path carries it. -/
def keptParts (k : Fork) (ps : List Path) : List RecEntry :=
  ((ps.map (outerParts k.num)).flatten.map fun e => { e with outer := e.outer.filter fun n => n != k.num }).eraseDups

/-- Inserts an entry before those that come after it in program order. -/
def putInOrder (e : SpecEntry) : List SpecEntry → List SpecEntry
  | [] => [e]
  | x :: xs => if e.ord.pos ≤ x.ord.pos then e :: x :: xs else x :: putInOrder e xs

/-- Speculative entries in program order. -/
def inOrder (es : List SpecEntry) : List SpecEntry := es.foldr putInOrder []

/-- The speculative stores of the committing lanes enter the store buffer in program order (R310, R315). They are stores of
the callee of an outer fork, whose continuation may have read other bytes there (R316) (DEDUCED, log 44). -/
def commitStores (s : State) (c : Comb) (g : Nat) (o : Order) (es : List SpecEntry) : State :=
  let x := s.ctxOf c
  ((inOrder es).foldl (fun (s : State) st =>
    { s.bump with coh := { s.coh with sb := s.coh.sb ++
        [{ eid := s.clk.serial, core := c.core, launch := c.launch, comb := c.id, group := g, ctx := x, asid := s.asid x
           ord := { o with pos := s.clk.serial }, va := st.va, tt := st.tt, data := st.data, side := st.side, reps := st.reps }] } })
    s).squashSeen c.core c.id g o (storesTo es)

/-- A fork without a committing lane: the continuation is gone, and the returned paths go on as the group's main path
(R314, R315), with the strays' lanes (R313). When every lane has exited, what is left of the callee goes on as it is. -/
def squashFork (g : Group) (k : Fork) (sid : Nat) : Group :=
  let rets := g.returnedPaths k
  let strays := g.paths.filter (stray k)
  let gone := (rets ++ strays).map fun p => p.pix
  let rest := g.paths.filter fun p => p.pix != k.pix && !gone.contains p.pix
  let lower := fun (p : Path) =>
    let p : Path := { p with cstack := p.cstack.map fun e => { e with outer := e.outer.filter fun n => n != k.num } }
    if p.follows k.calleeSid then { p with fdepth := p.fdepth - 1 } else p
  match joinAll sid rets with
  | none => { g with forks := g.forks.filter (fun f => f.num != k.num)
                     paths := (g.paths.filter fun p => p.pix != k.pix).map lower }
  | some q =>
    let main : Path := { q.lose with kind := .main, origin := none, wait := .run, fdepth := q.fdepth - 1
                                     pl := strays.foldl (fun (a : Lanes) p => a ||| calleeLanes k.num p) q.pl
                                     cstack := keptParts k (rets ++ strays)
                                     sid := sid, past := (q.sid, sid) :: q.past }
    { g with forks := g.forks.filter (fun f => f.num != k.num), dual := none
             paths := main :: rest.map (afterFork k (some main.pix) gone) }

/-- A fork with committing lanes `m`: the continuation becomes the main path, and the mismatched lanes a side path of it
(R315). -/
def commitFork (g : Group) (k : Fork) (cont : Path) (c : Classes) (sid : Nat) : Group :=
  let rets := g.returnedPaths k
  let strays := g.paths.filter (stray k)
  let gone := (rets ++ strays).map fun p => p.pix
  let rest := g.paths.filter fun p => p.pix != k.pix && !gone.contains p.pix
  let free := freeIndexes rest
  let i := free.headD 0
  let j := (free.drop 1).headD 5
  let outside := strays.foldl (fun (a : Lanes) p => a ||| calleeLanes k.num p) (rets.foldl (fun (a : Lanes) p => a ||| (p.pl &&& ~~~k.lanes)) 0)
  let past := ((cont.sid, sid) :: cont.past ++ (rets.map fun p => (p.sid, sid) :: p.past).flatten).eraseDups
  let kept := keepLanes c.commit cont
  let main : Path := { kept.lose with pix := i, kind := .main, origin := none, sid := sid, past := past
                                      pl := kept.pl ||| outside
                                      cstack := kept.cstack ++ keptParts k (rets ++ strays)
                                      wait := match kept.wait with | .deferred => .run | w => w }
  let side := match joinAll sid rets with
    | none => []
    | some q =>
      if c.mismatch == 0 then []
      else [{ q.lose with pix := j, kind := .side, origin := some i, wait := .run, fdepth := cont.fdepth, cstack := []
                          pl := c.mismatch, exm := q.exm &&& c.mismatch, sid := sid + 1
                          past := (q.sid, sid) :: q.past }]
  let g := commitWrites g k c.commit
  let outer := fun (f : Fork) => if f.num != k.num && cont.follows f.calleeSid && !k.wrote.isEmpty then { f with squash := true } else f
  { g with forks := (g.forks.filter fun f => f.num != k.num).map outer, dual := none
           nf := g.nf ||| commitFlags k c.commit
           paths := main :: side ++ rest.map (afterFork k (some i) gone) }

/-- Whether a fork is resolved: every lane has returned or exited, what the callee and the continuation issued has
completed, and no fork made inside it is unresolved (R313). -/
def resolvable (s : State) (comb : Nat) (g : Group) (k : Fork) : Bool :=
  let back := (g.returnedPaths k).foldl (fun m p => m ||| p.pl) 0
  (k.lanes &&& ~~~(back ||| g.exited)) == 0
    && !(s.flights.any fun f => f.comb == comb && f.group == g.gidx && (f.cont == some k.num || ofCallee k f.ord))
    && !g.forks.any fun f => f.num != k.num && (g.paths.any fun p => p.pix == f.pix && p.follows k.calleeSid)

/-- A continuation that has issued nothing of the bundle where it stands: committed, it arrives at the bundle as the committed
path, which a JOIN or an END there holds for its side paths (R166, R315, R316). -/
def comesAnew (s : State) (core asid : Nat) (p : Path) : Path :=
  if p.slot == 0 || (s.bundleAt core asid p.pc).any fun b => b.nextValid 0 == some p.slot then { p with arrived := false } else p

/-- FORK_RESOLUTION (R313 to R317). -/
def resolveFork (s : State) (comb group num : Nat) : State :=
  match s.comb? comb, s.group? comb group with
  | some cb, some g =>
    match g.fork? num with
    | none => s
    | some k =>
      match g.path? k.pix with
      | none => s
      | some cont =>
        let dead := match s.launch? cb.launch with | some l => l.aborted | none => true
        if dead || !s.resolvable comb g k then s
        else
          let half := cb.regs / 2
          let c0 := classesOf g k half
          let back := c0.commit ||| c0.mismatch
          let c : Classes := if squashed g k half c0 then { c0 with commit := 0, mismatch := back } else c0
          let commits := c.commit != 0
          let s := s.learn cb.core k.site g half back
          let s := s.countFstat cb.core (if !commits then 1 else if c.mismatch == 0 then 2 else 0)
          let s := s.countResolution cb.core k.site commits
          let n := s.clk.serial
          let s := s.bump.bump
          if commits then
            let at_ := s.comesAnew cb.core (s.asid (s.ctxOf cb)) cont
            let s := s.modGroup comb group fun _ => commitFork g k at_ c n
            let past := ((s.group? comb group).bind fun g => (g.paths.find? fun p => p.sid == n).map fun p => p.past).getD []
            s.commitStores cb group { sid := n, past := past } (k.specSB.filter fun e => lane c.commit e.lane)
          else (s.modGroup comb group fun _ => squashFork g k n).settle comb
  | _, _ => s

end State

/-- FORK_RESOLUTION (R313). -/
def execForkResolution (comb group fork : Nat) (s : State) : Out State := .next (s.resolveFork comb group fork)

/-- NOFORK_CLEAR (R317): after its 4,096 fcalls a site's mark is cleared, and the count restarts. -/
def execNoforkClear (core site : Nat) (s : State) : Out State :=
  let m := s.siteMark core site
  .next (if 3 ≤ m.rowN && m.left == 0 then s.setSite { m with rowN := 0 } else s)

end Sys2Proof.Machine
end

