-- ==== Sys2Proof/Machine/Pod.lean ====
section
/-! DEFINITION. What reaches the device from the pod and from the host's links: pod-barrier messages (R331, R332), remote
transactions (R302, R330, R344), host accesses to tower memory (R298, R321) and the links themselves (R321). -/

namespace Sys2Proof.Machine

namespace State

/-! ### Pod barriers (R331, R332) -/

/-- The enabled context with an address-space ID (R324). -/
def ctxWith (s : State) (asid : Nat) : Option Nat := (List.range 64).find? fun c => (s.ctx c).en && s.asid c == asid

/-- A pod message reaches this device, as a barrier's home (`home`) or as a member. With PODEN = 0 no pod traffic is carried
(R323). A member's message finds the barrier
of its number in the context with its address-space ID; while that context is disabled the member learns that the barrier is
gone (R332). The home's message concerns a context in which this device is a member of the home's barrier (R331); any other
is dropped. -/
def podMessage (s : State) (m : PodMsg) (home : Bool) (act : State → Nat → State) : State :=
  s.outside fun s =>
    if !s.dev.poden || 16 ≤ m.n then s
    else match s.ctxWith m.asid with
      | none => if home then s.podGone m.asid m.n m.dev else s
      | some x =>
        let p := getAt (s.ctx x).pods m.n
        if home || (p.pv && p.phome.toNat == m.dev) then act s x else s

/-- Notes that a device has arrived at or waited on a barrier (R332) (DEDUCED, log 70). -/
def noteUser (s : State) (x n d : Nat) (arrived : Bool) : State :=
  let add := fun (l : List Nat) => if l.contains d then l else d :: l
  s.modPodBar x n fun p => { p with users := add p.users, phased := if arrived then add p.phased else p.phased }

/-- A member asks for a barrier or waits at it: the home tells it of breaks from now on, and at once how the barrier stands, its
phase and a break (R332) (DESIGN CHOICE, log 70). -/
def podWaits (s : State) (m : PodMsg) (x : Nat) : State :=
  let s := s.noteUser x m.n m.dev false
  let say := fun (s : State) (k : PodKind) (phase : W32) =>
    s.podSend m.dev { asid := m.asid, n := m.n, dev := s.dev.devid.toNat, phase := phase, kind := k }
  match (s.ctx x).podBars.find? fun p => p.n == m.n with
  | none => s
  | some p =>
    let s := say s .completion p.bar.phase
    if p.bar.broken then say s .notice 0 else s

/-- The home tells a member of a barrier. -/
def tellView (s : State) (x n : Nat) (f : PodView → PodView) : State := s.modPodView x n fun v => { f v with told := true }

/-- A member's arrival is counted at the home (R331). -/
def podArrives (s : State) (m : PodMsg) (x : Nat) : State :=
  (s.noteUser x m.n m.dev true).podChange x m.n fun b =>
    { b with pending := b.pending + m.bytes, arrived := b.arrived + BitVec.ofNat 32 m.count }

/-- A member's bar.set is performed at the home (R331, R332) (DEDUCED, log 71). -/
def podInit (s : State) (m : PodMsg) (x : Nat) : State :=
  s.podChange x m.n fun b => { b with expect := BitVec.ofNat 32 m.count, broken := false }

/-- A member's break reaches the home (R332). -/
def podBroken (s : State) (m : PodMsg) (x : Nat) : State := (s.noteUser x m.n m.dev false).podBreakHome x m.n

/-! ### Remote transactions (R302, R330) -/

/-- What a remote transaction asks of its pages. -/
def remoteNeed : RemoteKind → Access
  | .load => .read
  | _ => .write

/-- Targets at which a transaction of another device is performed: tower memory, host memory and the chunk buffers. -/
def remoteTarget (k : Nat) : Bool := keyRegion k == 0 || keyRegion k == 4 || keyRegion k == 5

/-- A transaction as the station decodes it: the bytes of a coded write-back are those that its payload decodes to; none
when the coding is invalid (R342). -/
def remoteDecoded (t : RemoteTx) : Option RemoteTx :=
  if t.coded then
    (linkDecoded t.size t.bytes).map fun b => { t with
      bytes := b, coded := false, side := t.side.map fun d => (d.1, if d.1 < 128 then (b.drop d.1).headD d.2 else d.2) }
  else some t

/-- The bytes that a transaction writes, given the key of its address. -/
def remoteCells (s : State) (t : RemoteTx) (k : Nat) : List (Nat × Byte) :=
  let at_ := fun (i : Nat) => if i < 128 then k / 128 * 128 + i else sideKey k (i - 128)
  let old := s.natAt k t.size
  let w := 8 * t.size
  match t.kind with
  | .load => []
  | .store => cellsFrom k (t.bytes.take t.size) ++ t.side.map fun d => (at_ d.1, d.2)
  | .writeBack => t.side.map fun d => (at_ d.1, d.2)
  | .atomic op a =>
    if keyRegion k == 4 && op != 0 && op != 8 then [] else cellsFrom k (leBytes t.size (atomNew op w old (a.toNat % 2 ^ w)))
  | .cas c n => if old == c.toNat % 2 ^ w then cellsFrom k (leBytes t.size (n.toNat % 2 ^ w)) else []

/-- A UALink transaction is translated again and performed at its home device (R302, R325, R330). It stays within one line;
one that fails its decoding, its translation or its checks has no effect here (DESIGN CHOICE, log 53). -/
def remote (s : State) (t : RemoteTx) : State :=
  s.outside fun s =>
    if !s.dev.poden || t.size == 0 || t.va % 128 + t.size > 128 || 2 ^ 56 < t.va + t.size then s
    else match remoteDecoded t, s.ctxWith t.asid with
      | none, _ | _, none => s
      | some t, some x =>
        match s.keysVa x 0 (remoteNeed t.kind) s.freeHive 2 t.va t.size with
        | .ok ([(k, _)], s) =>
          if !remoteTarget k then s
          else
            let cells := s.remoteCells t k
            (cells.foldl (fun s d => s.copyEarly t.cuts d.1) s).performFor t.cuts cells
        | _ => s

/-! ### The host (R298, R321, R352) -/

/-- Whether a CXL.mem access reaches tower memory: a link is up (R321), the device exposes its memory once firmware runs
(R349), and an address beyond a tower's usable capacity names no memory (R10) (DEDUCED, log 92). -/
def exposes (s : State) (a : HostAccess) : Bool :=
  (s.dev.link0 || s.dev.link1) && s.dev.fwstat == 2 && a.addr + a.size ≤ 2 ^ 39 && a.addr % 2 ^ 36 + a.size ≤ 60 * 2 ^ 30

/-- The bytes that a CXL.mem read returns (R321): those of tower memory, which no context translates. -/
def hostReads (s : State) (a : HostAccess) : Option (List Byte) :=
  if s.exposes a && s.dev.astate.toNat < 3 then some (s.bytesAt (kTower a.addr) a.size) else none

/-- A CXL.mem access to tower memory by device physical address: it passes through no context's translation. A
read changes nothing here: what it returns is `hostReads`. -/
def hostAccess (s : State) (a : HostAccess) : State :=
  if !(s.dev.link0 || s.dev.link1) then s
  else s.outside fun s =>
    if s.exposes a && a.write then s.performAt (kTower a.addr) (a.bytes.take a.size) else s

/-- A link goes down or comes back (R321). -/
def setLink (s : State) (k : Nat) (up : Bool) : State :=
  match k with
  | 0 => { s with dev := { s.dev with link0 := up } }
  | 1 => { s with dev := { s.dev with link1 := up } }
  | _ => s

end State

/-- POD_ARRIVAL_MESSAGE (R331): a member has arrived, or waits (R332). -/
def execPodArrivalMessage (m : PodMsg) (s : State) : Out State :=
  .next (s.podMessage m true fun s x => if m.kind == .wait then s.podWaits m x else s.podArrives m x)

/-- POD_INIT_MESSAGE (R331, R332): at a member, the home tells that a bar.set has cleared a break, or that its context is
enabled again: the member then uses the barrier afresh. -/
def execPodInitMessage (m : PodMsg) (s : State) : Out State :=
  .next (if m.kind == .reset then s.podMessage m false fun s x => s.tellView x m.n fun v => { n := m.n, phase := m.phase, waited := v.waited }
    else s.podMessage m true fun s x => s.podInit m x)

/-- POD_PENDING_MESSAGE (R331). -/
def execPodPendingMessage (m : PodMsg) (s : State) : Out State :=
  .next (s.podMessage m true fun s x => s.podChange x m.n fun b => { b with pending := b.pending - m.bytes })

/-- POD_COMPLETION_MESSAGE (R331): the waiters at the barrier then find the phase past and acquire. -/
def execPodCompletionMessage (m : PodMsg) (s : State) : Out State :=
  .next (s.podMessage m false fun s x => s.tellView x m.n fun v => { v with phase := m.phase })

/-- POD_BREAK_MESSAGE (R332). -/
def execPodBreakMessage (m : PodMsg) (s : State) : Out State :=
  .next (s.podMessage m true fun s x => s.podBroken m x)

/-- POD_BREAK_NOTICE (R332): paths that wait at the barrier then find it broken and take trap 0x13; of a barrier that is
gone, every use takes fault 0x11. -/
def execPodBreakNotice (m : PodMsg) (s : State) : Out State :=
  .next (s.podMessage m false fun s x => s.tellView x m.n fun v => if m.kind == .gone then { v with gone := true } else { v with broken := true })

/-- REMOTE_TRANSACTION (R330). -/
def execRemoteTransaction (t : RemoteTx) (s : State) : Out State := .next (s.remote t)

/-- HOST_MEM_ACCESS (R321) (DESIGN CHOICE, log 10). -/
def execHostMemAccess (a : HostAccess) (s : State) : Out State := .next (s.hostAccess a)

/-- LINK_DOWN (R321): the other link takes over the traffic. -/
def execLinkDown (k : Nat) (s : State) : Out State := .next (s.setLink k false)

/-- LINK_UP (R321). -/
def execLinkUp (k : Nat) (s : State) : Out State := .next (s.setLink k true)

end Sys2Proof.Machine
end

