-- ==== Sys2Proof/Machine/Host.lean ====
section
/-! DEFINITION. The host's register writes that have no family of their own: the device page (R323, R349, R351), the
context pages (R27, R134, R168, R171, R208, R324, R331, R353), contexts coming and going (R324, R332), and POLKEY (R350). -/

namespace Sys2Proof

/-- Where in BAR0 a byte lies (R322): the device page (no context) at 0x00000, the register page of context c at
0x10000 + 0x1000·c, and the offset within that page; none elsewhere. -/
def bar0 (a : Nat) : Option (Option Nat × Nat) :=
  if a < 0x1000 then some (none, a)
  else if 0x10000 ≤ a && a < 0x50000 then some (some ((a - 0x10000) / 0x1000), a % 0x1000)
  else none

/-- Whether a register access is an aligned 8-byte access (R322). -/
def RegSpan.ok (a : RegSpan) : Bool := a.size == 8 && a.off % 8 == 0

/-- The page and the offset that an aligned 8-byte access of BAR0 names (R322). -/
def RegSpan.page (a : RegSpan) : Option (Option Nat × Nat) := if a.ok then bar0 a.off else none

end Sys2Proof

namespace Sys2Proof.Machine

/-- The event that a write of BAR0 is: the registers with a behaviour of their own have events of their own (R28, R134, R135,
R137, R171, R172, R322 to R324, R349 to R351). -/
def regEvent (a : RegSpan) (v : W64) : Instr :=
  match a.page with
  | some (none, 0x008) => .devidWrite v
  | some (none, 0x038) => .rwsplitWrite v
  | some (none, 0x110) => .firmwareVerifyRun v
  | some (none, 0x148) => .writeReport v
  | some (some c, 0x000) => if v.getLsbD 63 then .contextEnable c v else .contextDisable c v
  | some (some c, 0x028) => if v.getLsbD 0 then .invalidateAll c else .invalidatePage c v
  | some (some c, 0x110) => .lqprodWrite c v
  | some (some c, 0x158) => if v.toNat % 4 = 1 then .loaderLoad c v else if v.toNat % 4 = 2 then .loaderUnload c v else .registerWrite a.off a.size v
  | some (some c, 0x1F0) => if v.toNat % 4 = 1 then .preemptSave c else if v.toNat % 4 = 2 then .preemptRestore c else .registerWrite a.off a.size v
  | some (some c, off) => if 0x170 ≤ off ∧ off < 0x190 then .polkeyWrite c ((off - 0x170) / 8) v else .registerWrite a.off a.size v
  | _ => .registerWrite a.off a.size v

/-- Bits [hi:lo] of a written value, kept in place: the reserved bits around a field read as zero (R6). -/
def keepBits (v : W64) (hi lo : Nat) : W64 := BitVec.ofNat 64 (v.toNat / 2 ^ lo % 2 ^ (hi + 1 - lo) * 2 ^ lo)

/-- A write to the device page (R323, R349, R351); read-only offsets and offsets without a register ignore it (R6). -/
def Dev.write (d : Dev) (off : Nat) (v : W64) : Dev :=
  match off with
  | 0x010 => { d with ltol := v.setWidth 32 }
  | 0x020 => { d with pwrlim := if 2900 < v.toNat % 65536 then 2900 else v.setWidth 16 }
  | 0x028 => { d with tmodef := if v.toNat % 2 ^ 32 = 0 then 1 else v.setWidth 32 }
  | 0x030 => { d with lcthr := if 64 < v.toNat % 128 then 64 else v.setWidth 7 }
  | 0x100 => { d with fwaddr := v }
  | 0x108 => { d with fwlen := v.setWidth 32 }
  | 0x120 => { d with anonce := setAt d.anonce 0 v }
  | 0x128 => { d with anonce := setAt d.anonce 1 v }
  | 0x130 => { d with anonce := setAt d.anonce 2 v }
  | 0x138 => { d with anonce := setAt d.anonce 3 v }
  | 0x140 => { d with arpt := v }
  | _ => d

/-- A pod-barrier entry as written (R331). -/
def podReg (v : W64) : PodReg := { pexp := v.extractLsb' 32 32, pv := v.getLsbD 31, phome := v.setWidth 10 }

/-- A write of a pod-barrier entry (R331): what was known of the barrier at another home is so no longer. -/
def Ctx.writePod (x : Ctx) (n : Nat) (p : PodReg) : Ctx :=
  { x with pods := setAt x.pods n p
           podViews := if (getAt x.pods n).phome == p.phome then x.podViews else x.podViews.filter fun v => v.n != n }

/-- A write to a context's register page; `busy` while EN = 1: then PTROOT, POOLMAX, RESMAX, SWAPBASE and
SWAPLEN ignore it (R324). -/
def Ctx.write (x : Ctx) (busy : Bool) (off : Nat) (v : W64) : Ctx :=
  match off with
  | 0x008 => if busy then x else { x with ptroot := keepBits v 38 12 }
  | 0x010 => if busy then x else { x with poolmax := v.setWidth 32 }
  | 0x018 => if busy then x else { x with resmax := v.setWidth 32 }
  | 0x038 => if busy then x else { x with swapbase := keepBits v 55 16 }
  | 0x040 => if busy then x else { x with swaplen := v.setWidth 32 }
  | 0x100 => { x with lqbase := keepBits v 55 7 }
  | 0x120 => { x with ccbase := keepBits v 55 15 }
  | 0x140 => { x with objaddr := keepBits v 55 0 }
  | 0x148 => { x with objlen := v.setWidth 32 }
  | 0x150 => { x with imgbase := keepBits v 55 16 }
  | 0x168 => { x with sigreq := v.getLsbD 0 }
  | 0x1A0 => { x with ctxtv := v }
  | 0x1C0 => { x with frbase := keepBits v 55 6 }
  | 0x1C8 => { x with frlog := v.setWidth 5 }
  | 0x1D8 => { x with frcons := v.setWidth 32 }
  | 0x200 => { x with savebase := keepBits v 55 16 }
  | 0x220 => { x with spap := v.extractLsb' 28 28 }
  | 0x228 => { x with stkap := v.extractLsb' 30 26 }
  | _ => if 0x240 ≤ off && off < 0x2C0 && off % 8 == 0 then x.writePod ((off - 0x240) / 8) (podReg v) else x

/-- An event's digest and ASID where the spec states none: free values (log 26). -/
def State.freeDigest (s : State) : List Byte := ((List.range 8).map fun i => leBytes 8 (Config.freeWord (s.clk.free + i)).toNat).flatten

/-- Extends the measurement log by an event without a stated digest (R350). -/
def State.measureFree (s : State) (kind asid : Nat) : State :=
  { s with clk := { s.clk with free := s.clk.free + 8 } }.measure kind asid s.freeDigest

namespace State

/-- A write to a register that has no behaviour of its own; LQLOG has the behaviour of R28. A write that is no aligned
8-byte access is dropped (R322), and so is one where BAR0 has no register page (DEDUCED, log 90). -/
def writeReg (s : State) (a : RegSpan) (v : W64) : State :=
  match a.page with
  | some (none, off) => s.outside fun s => { s with dev := s.dev.write off v }
  | some (some c, off) => s.pageWrite c fun s => if off = 0x108 then s.writeLqlog c v else s.modCtx c fun x => x.write x.en off v
  | none => s.outside fun s => s

/-- A write to 0x008 (R323): what the stations held while PODEN was 0 is sent once it is 1. -/
def writeDevid (s : State) (v : W64) : State :=
  s.outside fun s =>
    let x := s.spire
    { s with
      dev := { s.dev with poden := v.getLsbD 16, devid := if s.dev.poden then s.dev.devid else v.setWidth 10 }
      spire := if v.getLsbD 16 then
          { x with podOut := x.podHeld.reverse ++ x.podOut, podHeld := [], sent := x.packHeld.reverse ++ x.sent, packHeld := []
                   verdicts := x.verdHeld.reverse ++ x.verdicts, verdHeld := [] } else x }

/-- Whether another enabled context has an address-space ID (R324). -/
def asidTaken (s : State) (c asid : Nat) : Bool :=
  (List.range 64).any fun k => k != c && (s.ctx k).en && s.asid k == asid

/-- The pod barriers that have their home here, as they stand when their context is created (R331, R332): one of each
number, for the members whose PHOME names this device. -/
def homeBars (s : State) (c : Nat) : List PodBar :=
  (List.range 16).map fun n => { n := n, bar := { expect := (getAt (s.ctx c).pods n).pexp } }

/-- Devices that were told that a barrier was gone learn that it is there again (R332) (DESIGN CHOICE, log 108). -/
def tellBack (s : State) (asid : Nat) : State :=
  let told := s.spire.podTold.filter fun x => x.1 == asid
  told.foldl (fun s x => s.podSend x.2.2 { asid := asid, n := x.2.1, dev := s.dev.devid.toNat, kind := .reset })
    { s with spire := { s.spire with podTold := s.spire.podTold.filter fun x => x.1 != asid } }

/-- The users of a context's pod barriers learn that they are gone (R332) (DESIGN CHOICE, log 108). -/
def tellGone (s : State) (c : Nat) : State :=
  ((s.ctx c).podBars.map fun p => (p.users.filter fun d => d != s.dev.devid.toNat).map fun d => (p.n, d)).flatten.foldl
    (fun s x => s.podGone (s.asid c) x.1 x.2) s

/-- EN := 1 (R324): the context is created, unless its ASID is taken (DEDUCED, log 67). -/
def enable (s : State) (c : Nat) (v : W64) : State :=
  if (s.ctx c).en then s
  else
    let old := s.launches.any fun l => l.ctx == c
    let s := (if old then s.forgetAll (s.asid c) else s).modCtx c fun x => { x with asid := v.setWidth 16 }
    if s.asidTaken c (v.toNat % 65536) then s
    else ((s.modCtx c fun x => { x with en := true, podBars := s.homeBars c, reviving := old }).measureFree 2
      (v.toNat % 65536)).tellBack (v.toNat % 65536)

/-- EN := 0 (R324, R332): every launch of the context aborts; its pod barriers are freed at once, its pages and code-object
references when the aborts are complete (DEDUCED, log 66). -/
def disable (s : State) (c : Nat) (v : W64) : State :=
  if !(s.ctx c).en then s.modCtx c fun x => { x with asid := v.setWidth 16 }
  else
    let s := (s.launches.filter fun l => l.ctx == c).foldl (fun s l => s.abort l.num none) s
    ((s.tellGone c).modCtx c fun x => { x with en := false, podBars := [] }).freeCtx c

end State

/-- REGISTER_WRITE (R6, R322). -/
def execRegisterWrite (x n : Nat) (v : W64) (s : State) : Out State := .next (s.writeReg ⟨x, n⟩ v)

/-- DEVID_WRITE (R323). -/
def execDevidWrite (v : W64) (s : State) : Out State := .next (s.writeDevid v)

/-- RWSPLIT_WRITE (R323): the split of the lanes changes no access and no order. -/
def execRwsplitWrite (v : W64) (s : State) : Out State :=
  .next (s.outside fun s => { s with dev := { s.dev with rwsplit := v.setWidth 16 } })

/-- CONTEXT_ENABLE (R324). -/
def execContextEnable (c : Nat) (v : W64) (s : State) : Out State :=
  .next (s.pageWrite c fun s => if v.getLsbD 63 then s.enable c v else s)

/-- CONTEXT_DISABLE (R324). -/
def execContextDisable (c : Nat) (v : W64) (s : State) : Out State :=
  .next (s.pageWrite c fun s => if v.getLsbD 63 then s else s.disable c v)

/-- POLKEY_WRITE (R134, R350). -/
def execPolkeyWrite (c k : Nat) (v : W64) (s : State) : Out State :=
  .next (s.pageWrite c fun s => if 4 ≤ k then s
    else (s.modCtx c fun x => { x with polkey := setAt x.polkey k v }).measureFree 4 (s.asid c))

end Sys2Proof.Machine
end

