-- ==== Sys2Proof/Machine/Pager.lean ====
section
/-! DEFINITION. The pager (R165, R166, R326) and invalidations (R324). -/

namespace Sys2Proof.Machine

namespace State

/-- The page that a gang waits for: every member has issued, and the rendezvous checks of the lowest member's operands met a
page that is not present (R249, R259). -/
def gangAbsent (s : State) (c : Comb) (l : GangLatch) : Option Nat :=
  if !l.complete then none
  else match l.inOrder.head?.bind fun m => s.flight? m.2 with
    | none => none
    | some f => match s.gangCheck c l.op l.form f.ops with
      | .absent va => some va
      | _ => none

/-- The gang latch that holds a path, if any. -/
def gangOf (s : State) (r : PathRef) : Option (Comb × GangLatch) :=
  match s.comb? r.comb with
  | none => none
  | some c => (c.gangs.find? fun l => l.members.any fun m => s.memberRef c.id m == r).map fun l => (c, l)

/-- Virtual addresses that the paths of a context wait for the pager to bring. -/
def wanted (s : State) (x : Nat) : List Nat :=
  ((s.combs.filter fun c => s.ctxOf c == x).map fun c =>
    (c.groups.map fun g => (g.paths.map fun p => match p.wait with
      | .parked fs _ _ => fs.filterMap fun f => if f.code.isNone then some f.va.toNat else none
      | _ => []).flatten).flatten ++ c.gangs.filterMap fun l => s.gangAbsent c l).flatten

/-- The hive that R36 gives a page without granule or hint: that of the rectangle's origin core of the launch whose path
waits for it. -/
def wantHive (s : State) (x va : Nat) : Nat :=
  match s.combs.find? fun c => s.ctxOf c == x && (c.groups.any fun g => g.paths.any fun p => match p.wait with
      | .parked fs _ _ => fs.any fun f => f.va.toNat / 65536 == va / 65536
      | _ => false) with
  | some c => s.originHive c.launch
  | none => match s.combs.find? fun c => s.ctxOf c == x && !c.gangs.isEmpty with
    | some c => s.originHive c.launch
    | none => 0

/-- MANAGED_PAGE_RESOLVE (R326): a page that some path waits for is made present, and the device's own writes that wait for
pages are tried again (R352). -/
def resolvePage (s : State) (x page : Nat) : State :=
  let s := if s.devWaits x then s.settleDev else s
  match (s.wanted x).find? fun va => va / 65536 == page || (match s.walkCtx x va with
      | .leaf _ big _ => big && va / 2 ^ 21 == page / 32
      | _ => false) with
  | none => s
  | some va => (s.makePresent x va (s.wantHive x va)).getD s

/-- Whether the pager can never make a managed page that a path waits for present (R326). -/
def hopeless (s : State) (x va : Nat) : Bool := s.hopelessAt x va (s.wantHive x va)

/-- The outcome of a lane's fault now: translated, still absent, or fatal with a code. -/
def faultNow (s : State) (x core : Nat) (f : LaneFault) : XRes :=
  match f.code with
  | some c => .fault c
  | none => match s.xlate x core f.va f.need with
    | .absent => if s.hopeless x f.va.toNat then .fault 0x10 else .absent
    | r => r

/-- PAGE_RESOLVED (R165, R166): every page that the path waits for is present, and it replays its instruction; a fetch is
tried again, and a gang's rendezvous is tried again. -/
def pageResolved (s : State) (r : PathRef) : State :=
  match s.comb? r.comb, s.path? r with
  | some c, some p =>
    match p.wait with
    | .parked fs fetch _ =>
      let x := s.ctxOf c
      if fs.all fun f => match s.faultNow x c.core f with | .ok _ _ => true | _ => false then
        s.modPath r fun p => { p.lose with wait := .run, arrived := p.arrived || !fetch }
      else s
    | .gang => match s.gangOf r with
      | some (c, l) => s.rendezvous c.id l
      | none => s
    | _ => s
  | _, _ => s

/-- The fatal faults of a parked path, each with its code. -/
def fatalOf (s : State) (x core : Nat) (fs : List LaneFault) : List (LaneFault × Nat) :=
  fs.filterMap fun f => match s.faultNow x core f with | .fault c => some (f, c) | _ => none

/-- PAGE_FAULT_FATAL (R165, R166): the host fault record is written, barriers break, and the path takes the trap in the
lanes that met the first fatal code; a fetch fault traps on arrival with code 0x03. -/
def pageFatal (s : State) (r : PathRef) : State :=
  match s.comb? r.comb, s.group? r.comb r.group, s.path? r with
  | some c, some g, some p =>
    let x := s.ctxOf c
    let dead := match s.launch? c.launch with | some l => l.aborted | none => true
    if dead then s
    else
      match p.wait with
      | .parked fs fetch _ =>
        match s.fatalOf x c.core fs with
        | [] => s
        | (f, code) :: rest =>
          let lanes := if fetch then p.exm else maskOf fun i => i == f.lane || rest.any fun y => y.1.lane == i && y.2 == code
          let t : Trap := { code := if fetch then 0x03 else code, lanes := lanes, info := f.va, arrival := fetch && !p.arrived, recorded := true }
          let s := s.hostRecord x (s.recOf c g t.code lanes p.pc p.slot f.va)
          let s := s.breakFor c
          (s.modPath r fun p => { p with wait := .run }).takeTrap r t
      | .gang =>
        match s.gangOf r with
        | none => s
        | some (c, l) =>
          match s.gangAbsent c l with
          | none => s
          | some va => if s.hopeless x va then s.failGang c.id l 0x10 (some (BitVec.ofNat 64 va)) else s
      | _ => s
  | _, _, _ => s

/-! ### Invalidations (R324) -/

/-- A write to 0x028 starts an invalidation; one that already runs widens to cover both. -/
def invalidate (s : State) (x : Nat) (what : Option Nat) : State :=
  s.modCtx x fun c => { c with inval := some (match c.inval with
    | none => what
    | some old => if old == what then what else none) }

/-- INVALIDATION_COMPLETE (R324): every cached translation that it covers is gone, and IBUSY returns to 0. -/
def invalDone (s : State) (x : Nat) : State :=
  match (s.ctx x).inval with
  | none => s
  | some none => (s.forgetAll (s.asid x)).modCtx x fun c => { c with inval := none }
  | some (some page) => (s.forgetPage (s.asid x) page).modCtx x fun c => { c with inval := none }

end State

/-- PAGE_RESOLVED (R165). -/
def execPageResolved (r : PathRef) (s : State) : Out State := .next (s.pageResolved r)

/-- PAGE_FAULT_FATAL (R165). -/
def execPageFaultFatal (r : PathRef) (s : State) : Out State := .next (s.pageFatal r)

/-- MANAGED_PAGE_RESOLVE (R326). -/
def execManagedPageResolve (c page : Nat) (s : State) : Out State := .next (s.resolvePage c page)

/-- INVALIDATE_PAGE (R324): IALL = 0, and IVA names the page. -/
def execInvalidatePage (c : Nat) (v : W64) (s : State) : Out State :=
  .next (s.pageWrite c fun s => if v.getLsbD 0 then s else s.invalidate c (some (v.extractLsb' 16 40).toNat))

/-- INVALIDATE_ALL (R324): IALL = 1. -/
def execInvalidateAll (c : Nat) (s : State) : Out State := .next (s.pageWrite c fun s => s.invalidate c none)

/-- INVALIDATION_COMPLETE (R324). -/
def execInvalidationComplete (c : Nat) (s : State) : Out State := .next (s.invalDone c)

end Sys2Proof.Machine
end

