-- ==== Sys2Proof/Machine/Power.lean ====
section
/-! DEFINITION. Channel retirement (R327 to R329), power (R347, R348), reset, boot (R349) and attestation (R350, R351). -/

namespace Sys2Proof.Machine

namespace State

/-! ### Retirement (R328, R329) -/

/-- REBUILD of each tower: its lines that are not rebuilt. -/
def countStale (stale : List (Nat × Nat)) : List W32 :=
  (List.range 8).map fun t => BitVec.ofNat 32 (stale.filter fun x => x.1 == t).length

/-- The context and the page of tower `t` that was touched least recently and is not in use. -/
def coldestIn (s : State) (t : Nat) : Option (Nat × Held) :=
  (((List.range 64).map fun c => (s.ctx c).held.map fun h => (c, h)).flatten.filter fun x =>
      x.2.tower / 2 ^ 20 == t && !s.pageBusy x.2).foldl
    (fun b x => match b with | none => some x | some y => if x.2.used < y.2.used then some x else b) none

/-- Makes room in a tower whose capacity fell (R328, R326); the fuel counts pages. -/
def shrink (s : State) (t : Nat) : Nat → State
  | 0 => s
  | fuel + 1 =>
    if s.heldIn t ≤ s.capacity t then s
    else match s.coldestIn t with
      | none => s
      | some (c, h) => match s.pageOut c h with
        | none => s
        | some s => s.shrink t fuel

/-- Parity groups of a tower that lose a second member when pseudo-channel `p` fails: those with a line still to be
rebuilt and a line on `p` (R329) (DESIGN CHOICE, log 16). -/
def lostGroups (s : State) (t p : Nat) : List (Nat × Nat) :=
  s.dev.stale.filterMap fun x =>
    let g := Config.parityGroup t x.2
    if x.1 == t && Config.groupOn t g p then some (t, g) else none

/-- CHANNEL_RETIRE (R328, R329): lines whose pseudo-channel changes are to be rebuilt, and parity groups that lost a second
member are uncorrectable (DEDUCED, log 89). -/
def retire (s : State) (t p : Nat) : State :=
  let old := getAt s.dev.retired t
  if 8 ≤ t || 64 ≤ p || old.getLsbD p then s
  else
    let new := old ||| BitVec.ofNat 64 (2 ^ p)
    let moved := (List.range (60 * 2 ^ 23)).filter fun l => channelOf old (128 * l) != channelOf new (128 * l)
    let stale := s.dev.stale.filter (fun x => x.1 != t || !moved.contains x.2) ++ moved.map fun l => (t, l)
    let s : State := { s with dev := { s.dev with
      retired := setAt s.dev.retired t new, stale := stale, rebuild := countStale stale
      lost := s.lostGroups t p ++ s.dev.lost } }
    ((List.range 64).filter fun c => (s.ctx c).en).foldl
      (fun s c => s.hostRecord c { code := 0x21, info := BitVec.ofNat 64 (64 * t + p) }) s

/-- LINE_REBUILD (R328, R329): room is made first in a tower that holds more pages than its capacity; then one line stands
at its new place, and its bytes are those that reconstruction gave. While there is no room the line waits. -/
def rebuilt (s : State) (t line : Nat) : State :=
  let s := if s.dev.stale.contains (t, line) then s.shrink t ((s.ctxs.map fun x => x.held.length).sum) else s
  if !s.dev.stale.contains (t, line) || s.capacity t < s.heldIn t then s
  else
    let stale := s.dev.stale.filter fun x => x != (t, line)
    { s with dev := { s.dev with stale := stale, rebuild := countStale stale } }

/-! ### Power (R347) -/

/-- Whether accesses of host memory are pending (R347): those of a verification, a report, a load, a save or a restore
that the host has ordered, and those of launch records that it has published (DEDUCED, log 107). The host's own accesses
are moves that end at once. -/
def hostPending (s : State) : Bool :=
  s.dev.fwstat == 1 || s.dev.astat == 1
    || s.ctxs.any fun x => x.loading.isSome || x.pstate == 1 || x.pstate == 3
      || (x.en && lqlogOk x && x.lqstop == .run && x.lqprod != x.lqcons)

/-- The device is idle (R347): no resident comb, no job without a status, no occupied slot, no drain in progress and no
host access pending. -/
def idle (s : State) : Bool :=
  s.combs.isEmpty && s.jobs.isEmpty && s.spire.slots.isEmpty && !(s.snaps.any fun n => n.cut) && !s.hostPending

/-- The deepest state whose wake time does not exceed LTOL, and whose condition holds: A1 2 µs, A2 80 µs, A3 6 ms with
PODEN = 0, and A4, whose wake time is not stated, with PODEN = 0 (DESIGN CHOICE, log 97). -/
def restState (d : Dev) : Nat :=
  if !d.poden && Config.offWake.any fun w => w ≤ d.ltol.toNat then 4
  else if 6000 ≤ d.ltol.toNat && !d.poden then 3 else if 80 ≤ d.ltol.toNat then 2 else if 2 ≤ d.ltol.toNat then 1 else 0

/-- What is left of memory when the device loses its state: host memory and other devices' memory are not its own; `towers`
when the towers keep their contents. -/
def keepMem (s : State) (towers : Bool) : Memory :=
  { cells := s.mem.cells.filter fun c =>
      let r := keyRegion c.1
      r == 4 || 7 ≤ r || (towers && (r == 0 || r == 1)) }

/-- The device as after reset; the model's own clock and the links go on (DEDUCED, log 96). -/
def restart (s : State) (towers : Bool) (astate : BitVec 3) : State :=
  { State.reset with
    clk := { s.clk with issuing := [], cur := none, agenda := [] }
    dev := { Dev.reset with astate := astate, link0 := s.dev.link0, link1 := s.dev.link1 }
    mem := s.keepMem towers }

/-- IDLE_ENTRY (R347): in A3 nothing but the towers' contents is kept, in A4 nothing (DEDUCED, log 95). -/
def rest (s : State) : State :=
  let a := restState s.dev
  if s.dev.astate != 0 || !s.idle || a = 0 then s
  else if 3 ≤ a then s.restart (a == 3) (BitVec.ofNat 3 a)
  else { s with dev := { s.dev with astate := BitVec.ofNat 3 a } }

/-- POWER_ON (R347): from A3 with the towers' contents, from A4 with nothing. -/
def powerOn (s : State) : State :=
  if s.dev.astate == 3 then { s with dev := { s.dev with astate := 0 } }
  else if s.dev.astate == 4 then s.restart false 0
  else s

/-! ### Boot (R349) -/

/-- A write to FWCMD (R349): 1 starts verification while the boot ROM waits (DEDUCED, log 91). -/
def writeFwcmd (s : State) (v : W64) : State :=
  s.outside fun s =>
    let s : State := { s with dev := { s.dev with fwcmd := v.setWidth 8 } }
    if v.toNat % 256 != 1 || s.dev.fwstat == 1 || s.dev.fwstat == 2 then s
    else { s with dev := { s.dev with fwstat := 1, fwRun := some (s.dev.fwaddr, s.dev.fwlen) } }

/-- The FWSTAT that an image earns: 2, or the first failure (R349) (DEDUCED, log 98). -/
def bootCheck (img : List Byte) : Nat :=
  let pub := (img.drop 32).take 32
  if img.length < 128 || img.take 4 != [0x46, 0x57, 0x4E, 0x33] then 0x40
  else if sha512 pub != (List.range 64).map Config.fwKeyDigest then 0x41
  else if edVerify pub (sha512 (img.drop 128)) ((img.drop 64).take 64) then 2
  else 0x42

/-- FIRMWARE_VERIFY_DONE (R349, R350). -/
def verified (s : State) : State :=
  match s.dev.fwRun with
  | none => s
  | some (a, n) =>
    let img := s.bytesAt (kHost a.toNat) n.toNat
    let st := bootCheck img
    let s : State := { s with dev := { s.dev with fwstat := BitVec.ofNat 8 st, fwRun := none } }
    if st = 2 then s.spend.measure 1 (s.freeW.toNat) (sha512 (img.drop 128)) else s

/-! ### Attestation (R351) -/

/-- The seed of the fused identity key (DESIGN CHOICE, log 7). -/
def idSeed : List Byte := (List.range 32).map Config.idSeed

/-- IDKEY, the identity public key (R351). -/
def idKey : List Byte := edPublic idSeed

/-- The report (R351). -/
def report (d : Dev) : List Byte :=
  let body := leBytes 8 1 ++ leBytes 8 d.devid.toNat ++ (List.range 16).map Config.serial ++ d.measure
    ++ leBytes 8 d.events.length ++ (d.anonce.map fun w => leBytes 8 w.toNat).flatten
  body ++ edSign idSeed (sha512 body) ++ d.events.flatten

/-- A write to ACMD (R351) (DEDUCED, log 93) (DEDUCED, log 94). -/
def writeAcmd (s : State) (v : W64) : State :=
  s.outside fun s =>
    let s : State := { s with dev := { s.dev with acmd := v.setWidth 8 } }
    if v.toNat % 256 == 1 then { s with dev := { s.dev with astat := 1 } } else s

/-- REPORT_WRITTEN (R351): the report's address is 64-byte aligned. -/
def reported (s : State) : State :=
  if s.dev.astat != 1 then s
  else
    let s := s.performAt (kHost (s.dev.arpt.toNat / 64 * 64)) (report s.dev)
    { s with dev := { s.dev with astat := 2 } }

/-! ### Register reads (R6, R322) -/

/-- A field of a register: its value at bit `lo`; reserved bits read as zero. -/
def field (v lo : Nat) : W64 := BitVec.ofNat 64 (v * 2 ^ lo)

/-- What a read of the device page gives (R323, R349, R351); an offset that the maps leave out is reserved. -/
def readDev (d : Dev) (off : Nat) : W64 :=
  match off with
  | 0x000 => 3
  | 0x008 => field (if d.poden then 1 else 0) 16 ||| field d.devid.toNat 0
  | 0x010 => field d.ltol.toNat 0
  | 0x018 => field d.astate.toNat 0
  | 0x020 => field d.pwrlim.toNat 0
  | 0x028 => field d.tmodef.toNat 0
  | 0x030 => field d.lcthr.toNat 0
  | 0x038 => field d.rwsplit.toNat 0
  | 0x060 => d.latecnt
  | 0x100 => d.fwaddr
  | 0x108 => field d.fwlen.toNat 0
  | 0x110 => field d.fwcmd.toNat 0
  | 0x118 => field d.fwstat.toNat 0
  | 0x140 => d.arpt
  | 0x148 => field d.acmd.toNat 0
  | 0x150 => field d.astat.toNat 0
  | _ =>
    let i := off / 8 % 8
    if off % 8 != 0 then 0
    else if 0x040 ≤ off && off < 0x060 then getAt d.offhome (i % 4)
    else if 0x080 ≤ off && off < 0x0C0 then getAt d.retired i
    else if 0x0C0 ≤ off && off < 0x100 then field (getAt d.rebuild i).toNat 0
    else if 0x120 ≤ off && off < 0x140 then getAt d.anonce (i % 4)
    else if 0x160 ≤ off && off < 0x180 then dwordAt idKey (i % 4)
    else 0

/-- What a read of a context's register page gives (R27, R134, R168, R171, R208, R324, R331, R353): write-only fields read as
zero. -/
def readCtx (x : Ctx) (off : Nat) : W64 :=
  match off with
  | 0x000 => field (if x.en then 1 else 0) 63 ||| field x.asid.toNat 0
  | 0x008 => x.ptroot
  | 0x010 => field x.poolmax.toNat 0
  | 0x018 => field x.resmax.toNat 0
  | 0x020 => field x.poolused.toNat 0
  | 0x030 => if x.inval.isSome then 1 else 0
  | 0x038 => x.swapbase
  | 0x040 => field x.swaplen.toNat 0
  | 0x100 => x.lqbase
  | 0x108 => field x.lqlog.toNat 0
  | 0x110 => field x.lqprod.toNat 0
  | 0x118 => field x.lqcons.toNat 0
  | 0x120 => x.ccbase
  | 0x140 => x.objaddr
  | 0x148 => field x.objlen.toNat 0
  | 0x150 => x.imgbase
  | 0x160 => field x.handle.toNat 32 ||| field x.lstatus.toNat 0
  | 0x168 => if x.sigreq then 1 else 0
  | 0x1A0 => x.ctxtv
  | 0x1C0 => x.frbase
  | 0x1C8 => field x.frlog.toNat 0
  | 0x1D0 => field x.frprod.toNat 0
  | 0x1D8 => field x.frcons.toNat 0
  | 0x1E0 => field x.frdrop.toNat 0
  | 0x1F8 => field x.pstate.toNat 0
  | 0x200 => x.savebase
  | 0x208 => x.savelen
  | 0x220 => field x.spap.toNat 28
  | 0x228 => field x.stkap.toNat 30
  | _ =>
    if off % 8 != 0 then 0
    else if 0x170 ≤ off && off < 0x190 then getAt x.polkey ((off - 0x170) / 8)
    else if 0x240 ≤ off && off < 0x2C0 then
      let p := getAt x.pods ((off - 0x240) / 8)
      field p.pexp.toNat 32 ||| field (if p.pv then 1 else 0) 31 ||| field p.phome.toNat 0
    else 0

/-- What a register read gives (R6, R322): all ones unless it is an aligned 8-byte access. While the dies are off nothing
answers, and before firmware runs the device exposes only the device page (R349): what a read of another page gives then is
open, and so is what one gives where BAR0 has no register page (DEDUCED, log 90). -/
def readReg (s : State) (a : RegSpan) : Option W64 :=
  if 3 ≤ s.dev.astate.toNat then none
  else if !a.ok then some (BitVec.allOnes 64)
  else match a.page with
    | some (none, off) => some (readDev s.dev off)
    | some (some c, off) => some (if s.dev.fwstat != 2 then s.freeW else readCtx (s.ctx c) off)
    | none => some s.freeW

end State

/-- CHANNEL_RETIRE (R328) (DESIGN CHOICE, log 16). -/
def execChannelRetire (t p : Nat) (s : State) : Out State := .next (s.retire t p)

/-- LINE_REBUILD (R329). -/
def execLineRebuild (t line : Nat) (s : State) : Out State := .next (s.rebuilt t line)

/-- IDLE_ENTRY (R347). -/
def execIdleEntry (s : State) : Out State := .next s.rest

/-- WAKE (R347): A1 and A2 end; A3 and A4 do not end so. -/
def execWake (s : State) : Out State := .next (s.outside fun s => s)

/-- POWER_ON (R347). -/
def execPowerOn (s : State) : Out State := .next s.powerOn

/-- DEVICE_RESET (R349). -/
def execDeviceReset (s : State) : Out State := .next (s.restart false 0)

/-- FIRMWARE_VERIFY_RUN (R349). -/
def execFirmwareVerifyRun (v : W64) (s : State) : Out State := .next (s.writeFwcmd v)

/-- FIRMWARE_VERIFY_DONE (R349). -/
def execFirmwareVerifyDone (s : State) : Out State := .next s.verified

/-- WRITE_REPORT (R351). -/
def execWriteReport (v : W64) (s : State) : Out State := .next (s.writeAcmd v)

/-- REPORT_WRITTEN (R351). -/
def execReportWritten (s : State) : Out State := .next s.reported

end Sys2Proof.Machine
end

