-- ==== Sys2Proof/Machine/Preempt.lean ====
section
/-! DEFINITION. Pre-emption (R171 to R173, R258, R303): starting a save, completing it, and restoring. -/

namespace Sys2Proof.Machine

/-! ### The save area (R173) -/

/-- A byte of the save area, and whether it is device-private (DESIGN CHOICE, log 17). -/
abbrev AreaByte := Byte × Bool

/-- Bytes that software may read and change. -/
def shown (bs : List Byte) : List AreaByte := bs.map fun b => (b, false)

/-- `n` device-private bytes from an offset of the area on: free values (log 17). -/
def hidden (salt off n : Nat) : List AreaByte := (List.range n).map fun i => (Config.freeByte salt (off + i), true)

/-- The kind of a path as its entry shows it. -/
def kindCode (p : Path) : Nat :=
  match p.wait with
  | .parked _ _ _ => 4
  | _ => match p.kind with | .main => 1 | .arm => 2 | .side => 3 | .cont => 0

/-- The pending flags of a path as bits. -/
def pendBits (p : Path) : Nat := ((List.range 12).filter fun i => p.pend.any fun x => x.1 == i).foldl (fun n i => n + 2 ^ i) 0

/-- A path entry of 128 bytes. -/
def pathArea (salt off : Nat) (g : Group) (p : Option Path) : List AreaByte :=
  (match p with
    | none => shown (List.replicate 32 0)
    | some p =>
      let j := if p.kind == .arm then (g.dual.map fun d => d.1).getD 0 else 0
      shown (leBytes 8 p.pc ++ leBytes 8 (kindCode p + if p.inHandler then 256 else 0)
        ++ leBytes 8 (p.pl.toNat + p.exm.toNat * 2 ^ 32) ++ leBytes 8 (pendBits p + p.depth % 4096 * 65536 + j * 2 ^ 32)))
    ++ hidden salt (off + 32) 96

/-- A group record. -/
def groupArea (salt off : Nat) (s : State) (c : Comb) (g : Group) : List AreaByte :=
  let p0 : Path := { }
  let special := ((List.range 17).filterMap fun i => SReg.ofCode (0x40 + i)).map fun r =>
    if r == .exm then 0 else (readSpecial s c g p0 r).toNat
  shown ((g.s.map fun w => leBytes 8 w.toNat).flatten ++ (g.x.map fun w => leBytes 8 w.toNat).flatten
      ++ (special.map fun w => leBytes 8 w).flatten)
    ++ hidden salt (off + 0x2A8) 88
    ++ ((List.range 6).map fun i => pathArea salt (off + 0x300 + 128 * i) g (g.path? i)).flatten
    ++ shown ((g.q.map fun m => leBytes 4 m.toNat).flatten)
    ++ hidden salt (off + 0x620) (0x2000 - 0x620)
    ++ shown (((List.range c.regs).map fun n => (allLanes.map fun i => leBytes 4 (vlane (getAt g.v n) i).toNat).flatten).flatten)

/-- The full/empty bits of a window: word w at byte w>>3, bit w and 7. -/
def fullArea (s : State) (c : Comb) : List Byte :=
  (List.range (c.scratch / 32)).map fun i =>
    BitVec.ofNat 8 (((List.range 8).filter fun j => s.full.contains (c.core * 2 ^ 18 + c.spOff / 4 + 8 * i + j)).foldl (fun n j => n + 2 ^ j) 0)

/-- A number rounded up to 4 KiB. -/
def up4k (n : Nat) : Nat := (n + 4095) / 4096 * 4096

/-- A comb record that starts at an offset of the area. -/
def combArea (salt off : Nat) (s : State) (c : Comb) : List AreaByte :=
  let l := (s.launch? c.launch).getD default
  let head := shown (leBytes 8 (combId c).toNat ++ leBytes 8 (coreReg c.core).toNat ++ leBytes 8 l.lid.toNat)
    ++ hidden salt (off + 24) 4072
  let gsize := 8192 + 128 * c.regs
  let gs := (List.range c.g).map fun i =>
    let empty : Group := { gidx := i, s := List.replicate 64 0, x := List.replicate 4 0, q := List.replicate 8 0 }
    groupArea salt (off + 4096 + gsize * i) s c ((c.group? i).getD empty)
  let body := head ++ gs.flatten ++ shown (s.bytesAt (kScratch c.core c.spOff) c.scratch) ++ shown (fullArea s c)
    ++ shown ((c.tiles.map fun t => ((List.range 4096).map fun i => leBytes 4 (getAt t.el i).toNat).flatten).flatten)
  body ++ hidden salt (off + body.length) (up4k body.length - body.length)

/-- The area's header for `n` comb records. -/
def headArea (salt n : Nat) : List AreaByte := shown (leBytes 8 0x31 ++ leBytes 8 n) ++ hidden salt 16 4080

/-- Whether the device-private bytes of a part of the area are as they were written. -/
def intact : List AreaByte → List Byte → Bool
  | [], _ => true
  | _ :: _, [] => false
  | (b, h) :: xs, y :: ys => (!h || b == y) && intact xs ys

namespace State

/-! ### Saving -/

/-- PREEMPT_SAVE (R172): the context's distributors and its queue stop, continuations are discarded, and for each running
job the device chooses whether it is cancelled. Collective and snapshot jobs go on (R286). -/
def startSave (s : State) (x : Nat) : State :=
  if (s.ctx x).pstate != 0 then s
  else
    let s := s.modCtx x fun c => { c with pstate := 1 }
    let ids := (s.combs.filter fun c => s.ctxOf c == x).map fun c => c.id
    let s : State := { s with
      combs := s.combs.map fun c => if ids.contains c.id then { c with groups := c.groups.map discardForks } else c
      flights := s.flights.filter fun f => !(f.cont.isSome && ids.contains f.comb) }
    let running := s.jobs.filter fun j => j.ctx == x && j.phase != .waiting && j.coll.isNone && jobEng j.card != 5
    running.foldl (fun s j => if s.freeW.getLsbD 0 then s.spend.giveStatus j.num 0x40 0 else s.spend) s

/-- Whether a path has stopped for a save (R172): at a bundle boundary, parked, before a waiting instruction, or in a
gang instruction whose rendezvous is incomplete. -/
def stopped (s : State) (r : PathRef) (p : Path) : Bool :=
  match p.wait with
  | .run =>
    (!p.arrived && !p.goOn) || (p.arrived && match s.envOf r with
      | none => false
      | some e => match e.b.slotOp e.k with
        | none => false
        | some (o, _) => Op.waiting o || (isBar o && e.barHeld))
  | .parked _ _ _ | .gang | .point => true
  | _ => false

/-- Whether everything that a save waits for has happened (R172, R303): paths have stopped, issued instructions have
completed but for incomplete gangs and queued mma, jobs have settled, and the store buffers have drained. -/
def saveReady (s : State) (x : Nat) : Bool :=
  let cs := s.combs.filter fun c => s.ctxOf c == x
  let mine := fun (id : Nat) => cs.any fun c => c.id == id
  let queued := (s.coh.mq.filter fun q => q.op == .mma).map (fun q => q.fids) |>.flatten
  let gangs := (cs.map fun c => c.gangs.map fun l => l.members.map fun m => m.2).flatten.flatten
  !(s.launches.any fun l => l.ctx == x && l.aborted)
    && (cs.all fun c => c.groups.all fun g => g.paths.all fun p =>
      s.stopped { comb := c.id, group := g.gidx, path := p.pix } p)
    && (s.flights.all fun f => !mine f.comb || queued.contains f.fid || gangs.contains f.fid)
    && !(s.coh.mq.any fun q => mine q.comb && q.op != .mma)
    && !(s.coh.sb.any fun e => e.ctx == x) && !(s.coh.bank.any fun b => mine b.comb)
    && !(s.jobs.any fun j => j.ctx == x && j.coll.isNone && jobEng j.card != 5 && j.phase != .waiting)

/-- An mma at the head of its core's queue stops after a k-step that the device chooses (R258). -/
def cutMma (s : State) (q : QEntry) : State :=
  let first := (s.coh.mq.find? fun y => y.core == q.core) == some q
  match s.comb? q.comb with
  | none => s
  | some c =>
    let steps := mmaK q.form / 32
    let n := q.kdone + Config.freePick s.clk.free % (steps - q.kdone)
    if !first || q.out.isSome || !(q.todo.isSome || s.engineReady c q) || n ≤ q.kdone then s
    else
      let r := s.spend.mmaRun c q n
      let s := q.fids.foldl (fun s fid => s.modFlight fid fun f => { f with nf := f.nf ||| r.fl.bits }) r.s
      { s with coh := { s.coh with mq := s.coh.mq.map fun y => if y == q then { q with kdone := n } else y } }

/-- The members of an incomplete gang are saved as not having issued (R172). -/
def withdrawForSave (s : State) (c : Comb) : State :=
  (s.withdrawGangs c).modComb c.id fun c => { c with groups := c.groups.map fun g => { g with paths := g.paths.map fun p =>
    if p.wait == .gang then { p with wait := .run, endAfter := false } else p } }

/-- Writes one part of the save area at its address; none while the pager has to make room for it (R326). What cannot be
written at all is lost, and the restore finds it changed. -/
def writeArea (s : State) (x va : Nat) (bs : List AreaByte) : Option State :=
  match s.devEdit x va bs.length (fun _ => bs.map fun b => b.1) with
  | .ok s => some s
  | .error (0, _) => none
  | .error _ => some s

/-- Saves combs one after another from an offset of the area on. -/
def saveCombs (s : State) (x salt : Nat) : List Comb → Nat → Option (State × Nat)
  | [], off => some (s, off)
  | c0 :: cs, off =>
    match s.comb? c0.id with
    | none => s.saveCombs x salt cs off
    | some c =>
      let area := combArea salt off s c
      match s.writeArea x ((s.ctx x).savebase.toNat + off) area with
      | none => none
      | some s =>
      let v : SavedComb := { comb := c, base := off, queue := s.coh.mq.filter (fun q => q.comb == c.id)
                             flights := s.flights.filter (fun f => f.comb == c.id)
                             side := s.bytesAt (sideKey (kScratch c.core c.spOff) 0) (c.scratch / 4) }
      let s : State := { s.liftComb c with flights := s.flights.filter fun f => f.comb != c.id }
      (s.modCtx x fun y => { y with saved := y.saved ++ [v] }).saveCombs x salt cs (off + area.length)

/-- SAVE_COMPLETE (R172, R173); it waits while a page of the save area cannot be made present yet. -/
def completeSave (s0 : State) (x : Nat) : State :=
  if (s0.ctx x).pstate != 1 || !s0.saveReady x then s0
  else
    let s := s0
    let cs := s.combs.filter fun c => s.ctxOf c == x
    let s := (s.coh.mq.filter fun q => cs.any fun c => c.id == q.comb).foldl (fun s q => s.cutMma q) s
    let s := cs.foldl (fun s c => s.withdrawForSave c) s
    let salt := s.clk.serial
    match (s.bump.writeArea x (s.ctx x).savebase.toNat (headArea salt cs.length)).bind fun s => s.saveCombs x salt cs 4096 with
    | none => s0
    | some r => r.1.modCtx x fun c => { c with pstate := 2, saveSalt := salt, savelen := BitVec.ofNat 64 r.2 }

/-! ### Restoring -/

/-- A restore ends when every saved comb is back. -/
def restoreDone (s : State) (x : Nat) : State :=
  if (s.ctx x).pstate == 3 && (s.ctx x).saved.all (fun v => v.back) then
    s.modCtx x fun c => { c with pstate := 0, saved := [] }
  else s

/-- The bytes of a part of the save area; empty when they cannot be read, none while the pager has to make room. -/
def readArea (s : State) (x va n : Nat) : Option (List Byte × State) :=
  match s.devRead x va n with
  | .ok r => some r
  | .error (0, _) => none
  | .error _ => some ([], s)

/-- Aborts the launches of saved combs whose device-private fields were changed (R173): the combs are gone, and their jobs
receive their statuses (R286). -/
def dropSaved (s : State) (x n : Nat) : State :=
  let held := ((s.ctx x).saved.filter fun v => v.comb.launch == n && !v.back).map fun v => v.comb
  let s := held.foldl (fun s c => (s.freeCombPages c).keepOrphans c) s
  (s.modCtx x fun y => { y with saved := y.saved.map fun v => if v.comb.launch == n then { v with back := true } else v }).abort n none

/-- PREEMPT_RESTORE (R171, R172): the saved combs may be placed. -/
def startRestore (s : State) (x : Nat) : State :=
  if (s.ctx x).pstate != 2 then s
  else
    (s.modCtx x fun c => { c with pstate := 3 }).restoreDone x

/-- A number in a record. -/
def areaNat (bs : List Byte) (off n : Nat) : Nat := leNat ((bs.drop off).take n)

/-- A path with the fields that its entry shows (R173). -/
def restorePath (bs : List Byte) (off : Nat) (p : Path) : Path :=
  let pc := areaNat bs off 8 % 2 ^ 64
  let k := areaNat bs (off + 8) 1
  let pl : Lanes := BitVec.ofNat 32 (areaNat bs (off + 16) 4)
  let exm : Lanes := BitVec.ofNat 32 (areaNat bs (off + 20) 4)
  let pend := areaNat bs (off + 24) 2 % 4096
  let kept := p.pend.filter fun x => pend.testBit x.1
  let more := ((List.range 12).filter fun i => pend.testBit i && !p.pend.any fun x => x.1 == i).map fun i => (i, 0)
  let p : Path := if pc == p.pc then p else { p with pc := pc, slot := 0, arrived := false, goOn := false, joined := none }
  { p.lose with
    kind := if k == kindCode p then p.kind else if k == 1 then .main else if k == 2 then .arm else .side
    wait := if k != 4 && kindCode p == 4 then .run else p.wait
    inHandler := (areaNat bs (off + 9) 1).testBit 0, pl := pl, exm := exm &&& pl, pend := kept ++ more
    depth := areaNat bs (off + 26) 2 % 4096 }

/-- A group with the fields that its record shows (R173). -/
def restoreGroup (bs : List Byte) (off gCount gangw regs cycle sid : Nat) (g : Group) : Group :=
  let entry := fun (i : Nat) => off + 0x300 + 128 * i
  let kind := fun (i : Nat) => areaNat bs (entry i + 8) 1
  let old := (g.paths.filter fun p => kind p.pix != 0).map fun p => restorePath bs (entry p.pix) p
  let made := ((List.range 6).filter fun i => kind i != 0 && !g.paths.any fun p => p.pix == i).map fun i =>
    restorePath bs (entry i) { pix := i, sid := sid + i, born := cycle }
  let gone := (g.paths.filter fun p => kind p.pix == 0).foldl (fun (m : Lanes) p => m ||| p.pl) 0
  let j := ((List.range 6).filter fun i => kind i == 2).head?.map fun i => areaNat bs (entry i + 28) 1
  let g : Group := { g with
    s := (List.range 64).map fun n => BitVec.ofNat 64 (areaNat bs (off + 8 * n) 8)
    x := (List.range 4).map fun n => BitVec.ofNat 16 (areaNat bs (off + 0x200 + 8 * n) 8)
    q := (List.range 8).map fun n => BitVec.ofNat 32 (areaNat bs (off + 0x600 + 4 * n) 4)
    v := (List.range regs).map fun n => vreg fun i => BitVec.ofNat 32 (areaNat bs (off + 0x2000 + 128 * n + 4 * i) 4)
    paths := old ++ made, exited := g.exited ||| gone
    dual := g.dual.map fun d => (j.getD d.1, d.2) }
  ([SReg.part, .prio, .gang, .seed, .nf, .fmode, .trapvec]).foldl (fun g r =>
    writeGroupReg g gCount gangw r (BitVec.ofNat 64 (areaNat bs (off + 0x220 + 8 * (r.code - 0x40)) 8))) g

/-- A comb with the fields that its record shows (R173). -/
def restoreComb (s : State) (bs : List Byte) (c : Comb) : Comb :=
  let gangw := ((s.launch? c.launch).map fun l => l.desc.gangw).getD 0
  let gsize := 8192 + 128 * c.regs
  let t0 := 4096 + gsize * c.g + c.scratch + c.scratch / 32
  { c with
    groups := c.groups.map fun g => restoreGroup bs (4096 + gsize * g.gidx) c.g gangw c.regs s.clk.cycle (s.clk.serial + 6 * g.gidx) g
    tiles := (List.range c.tiles.length).map fun i =>
      { getAt c.tiles i with el := (List.range 4096).map fun k => BitVec.ofNat 32 (areaNat bs (t0 + 16384 * i + 4 * k) 4) } }

/-- A core takes a saved comb back when its slots, registers and window are free there (R19, R172). -/
def fitsBack (s : State) (c : Comb) : Bool :=
  c.slots.all (fun i => (s.freeSlots c.core).contains i) && c.g * c.regs ≤ s.freeRegs c.core && s.runFree c.core c.spOff c.scratch

/-- Whether the device-private bytes of the area's header are as they were saved; none while they cannot be read yet. -/
def headIntact (s : State) (x : Nat) : Option (Bool × State) :=
  (s.readArea x (s.ctx x).savebase.toNat 4096).map fun r => (intact (headArea (s.ctx x).saveSalt (s.ctx x).saved.length) r.1, r.2)

/-- Drops every saved comb that is not back: the header was changed (R173). -/
def dropAllSaved (s : State) (x : Nat) : State :=
  ((((s.ctx x).saved.filter fun v => !v.back).map fun v => v.comb.launch).eraseDups).foldl (fun s n => s.dropSaved x n) s

/-- RESTORED_COMB_PLACE (R172, R173, R303): the comb comes back as its record shows it, with an acquire of every line at
DEVICE, once its core fits it and holds its tiles (R252); a changed device-private field aborts its launch. -/
def placeSaved (s : State) (x k : Nat) : State :=
  match (s.ctx x).saved[k]? with
  | none => s
  | some v =>
    let c := v.comb
    if (s.ctx x).pstate != 3 || v.back || !s.fitsBack c then s
    else
      let want := combArea (s.ctx x).saveSalt v.base
        { s with mem := {}, full := [] } c
      match s.headIntact x with
      | none => s
      | some (false, s) => (s.dropAllSaved x).restoreDone x
      | some (true, s1) =>
      match s1.readArea x ((s.ctx x).savebase.toNat + v.base) want.length with
      | none => s
      | some r =>
      if !intact want r.1 then (r.2.dropSaved x c.launch).restoreDone x
      else match r.2.roomForTiles c 17 with
      | none => s
      | some s =>
        let w0 := 4096 + (8192 + 128 * c.regs) * c.g
        let words := (List.range (c.scratch / 4)).filter fun w => (areaNat r.1 (w0 + c.scratch + w / 8) 1).testBit (w % 8)
        let c1 := s.restoreComb r.1 c
        let cells := cellsFrom (kScratch c.core c.spOff) ((r.1.drop w0).take c.scratch)
          ++ cellsFrom (sideKey (kScratch c.core c.spOff) 0) v.side
        let s : State := { s with
          clk := { s.clk with serial := s.clk.serial + 6 * c.g }
          combs := s.combs ++ [c1], mem := s.mem.setAll cells
          full := (words.map fun w => c.core * 2 ^ 18 + c.spOff / 4 + w) ++ s.full
          coh := { s.coh with mq := s.coh.mq ++ v.queue }, flights := s.flights ++ v.flights }
        let s := s.acquireAll c.core 3
        (s.modCtx x fun y => { y with saved := setAt y.saved k { v with back := true } }).restoreDone x

end State

/-- PREEMPT_SAVE (R172): a write of 1 to PREEMPT. -/
def execPreemptSave (c : Nat) (s : State) : Out State := .next (s.pageWrite c fun s => s.startSave c)

/-- SAVE_COMPLETE (R172). -/
def execSaveComplete (c : Nat) (s : State) : Out State := .next (s.completeSave c)

/-- PREEMPT_RESTORE (R172): a write of 2 to PREEMPT. -/
def execPreemptRestore (c : Nat) (s : State) : Out State := .next (s.pageWrite c fun s => s.startRestore c)

/-- RESTORED_COMB_PLACE (R172). -/
def execRestoredCombPlace (c k : Nat) (s : State) : Out State := .next (s.placeSaved c k)

end Sys2Proof.Machine
end

