-- ==== Sys2Proof/Machine/Dispatch.lean ====
section
/-! DEFINITION. The one dispatch: each row of the table to its meaning. -/

namespace Sys2Proof.Machine

def exec (i : Instr) (s : State) : Host.Outcome State Fault Refusal :=
  match i with
  | .lqprodWrite c v => Sys2Proof.Machine.execLqprodWrite c v s
  | .launchRecordRead c => Sys2Proof.Machine.execLaunchRecordRead c s
  | .gateEvaluation n => Sys2Proof.Machine.execGateEvaluation n s
  | .distributorDispatch h => Sys2Proof.Machine.execDistributorDispatch h s
  | .stealRequest h => Sys2Proof.Machine.execStealRequest h s
  | .stealAnswer h => Sys2Proof.Machine.execStealAnswer h s
  | .stolenCombPlace h => Sys2Proof.Machine.execStolenCombPlace h s
  | .stealSilenceExpiry h => Sys2Proof.Machine.execStealSilenceExpiry h s
  | .issueChoice => Sys2Proof.Machine.execIssueChoice s
  | .pathBoost r => Sys2Proof.Machine.execPathBoost r s
  | .bundleArrival r => Sys2Proof.Machine.execBundleArrival r s
  | .armRelease r => Sys2Proof.Machine.execArmRelease r s
  | .sidePathMerge r => Sys2Proof.Machine.execSidePathMerge r s
  | .icacheLineFill core asid line => Sys2Proof.Machine.execIcacheLineFill core asid line s
  | .instructionComplete fid => Sys2Proof.Machine.execInstructionComplete fid s
  | .launchComplete n => Sys2Proof.Machine.execLaunchComplete n s
  | .abortComplete n => Sys2Proof.Machine.execAbortComplete n s
  | .pageResolved r => Sys2Proof.Machine.execPageResolved r s
  | .pageFaultFatal r => Sys2Proof.Machine.execPageFaultFatal r s
  | .managedPageResolve c page => Sys2Proof.Machine.execManagedPageResolve c page s
  | .loaderLoad c v => Sys2Proof.Machine.execLoaderLoad c v s
  | .loadFinish c => Sys2Proof.Machine.execLoadFinish c s
  | .loaderUnload c v => Sys2Proof.Machine.execLoaderUnload c v s
  | .preemptSave c => Sys2Proof.Machine.execPreemptSave c s
  | .saveComplete c => Sys2Proof.Machine.execSaveComplete c s
  | .preemptRestore c => Sys2Proof.Machine.execPreemptRestore c s
  | .restoredCombPlace c k => Sys2Proof.Machine.execRestoredCombPlace c k s
  | .gangTimeout comb gang => Sys2Proof.Machine.execGangTimeout comb gang s
  | .matrixQueueAdvance core => Sys2Proof.Machine.execMatrixQueueAdvance core s
  | .jobAccept entry => Sys2Proof.Machine.execJobAccept entry s
  | .transformCopy job => Sys2Proof.Machine.execTransformCopy job s
  | .transformConv job => Sys2Proof.Machine.execTransformConv job s
  | .transformConvt job => Sys2Proof.Machine.execTransformConvt job s
  | .gather job => Sys2Proof.Machine.execGather job s
  | .scatter job => Sys2Proof.Machine.execScatter job s
  | .chain job => Sys2Proof.Machine.execChain job s
  | .bankMv job => Sys2Proof.Machine.execBankMv job s
  | .bankAccm job => Sys2Proof.Machine.execBankAccm job s
  | .bankAmax job => Sys2Proof.Machine.execBankAmax job s
  | .bankFill job => Sys2Proof.Machine.execBankFill job s
  | .bankCopy job => Sys2Proof.Machine.execBankCopy job s
  | .allReduce job => Sys2Proof.Machine.execAllReduce job s
  | .reduceScatter job => Sys2Proof.Machine.execReduceScatter job s
  | .allGather job => Sys2Proof.Machine.execAllGather job s
  | .broadcast job => Sys2Proof.Machine.execBroadcast job s
  | .inHopReduction job => Sys2Proof.Machine.execInHopReduction job s
  | .snapshotArm job => Sys2Proof.Machine.execSnapshotArm job s
  | .snapshotCancel job => Sys2Proof.Machine.execSnapshotCancel job s
  | .jobWriteLand job => Sys2Proof.Machine.execJobWriteLand job s
  | .jobStatus job verdicts => Sys2Proof.Machine.execJobStatus job verdicts s
  | .sbDrain entry replica => Sys2Proof.Machine.execSbDrain entry replica s
  | .cacheFill k line => Sys2Proof.Machine.execCacheFill k line s
  | .cacheDrop k line => Sys2Proof.Machine.execCacheDrop k line s
  | .rdcWriteBack hive line => Sys2Proof.Machine.execRdcWriteBack hive line s
  | .l1Invalidate core line => Sys2Proof.Machine.execL1Invalidate core line s
  | .loadRead fid lane => Sys2Proof.Machine.execLoadRead fid lane s
  | .atomicPerform fid lane => Sys2Proof.Machine.execAtomicPerform fid lane s
  | .release fid => Sys2Proof.Machine.execRelease fid s
  | .barMeetArrival r => Sys2Proof.Machine.execBarMeetArrival r s
  | .rcnLineCopy fid line replica => Sys2Proof.Machine.execRcnLineCopy fid line replica s
  | .bankForward cmd => Sys2Proof.Machine.execBankForward cmd s
  | .bankFadd2 cmd => Sys2Proof.Machine.execBankFadd2 cmd s
  | .bankIadd2 cmd => Sys2Proof.Machine.execBankIadd2 cmd s
  | .bankIadd64 cmd => Sys2Proof.Machine.execBankIadd64 cmd s
  | .bankFmax2 cmd => Sys2Proof.Machine.execBankFmax2 cmd s
  | .bankWrite cmd => Sys2Proof.Machine.execBankWrite cmd s
  | .forkResolution comb group fork => Sys2Proof.Machine.execForkResolution comb group fork s
  | .noforkClear core site => Sys2Proof.Machine.execNoforkClear core site s
  | .hopPass p => Sys2Proof.Machine.execHopPass p s
  | .hopReduce p => Sys2Proof.Machine.execHopReduce p s
  | .hopDeliver p => Sys2Proof.Machine.execHopDeliver p s
  | .hopCopy p => Sys2Proof.Machine.execHopCopy p s
  | .hopInvalid p => Sys2Proof.Machine.execHopInvalid p s
  | .slotExpiry slot => Sys2Proof.Machine.execSlotExpiry slot s
  | .snapshotPageDrain job => Sys2Proof.Machine.execSnapshotPageDrain job s
  | .podArrivalMessage m => Sys2Proof.Machine.execPodArrivalMessage m s
  | .podInitMessage m => Sys2Proof.Machine.execPodInitMessage m s
  | .podPendingMessage m => Sys2Proof.Machine.execPodPendingMessage m s
  | .podCompletionMessage m => Sys2Proof.Machine.execPodCompletionMessage m s
  | .podBreakMessage m => Sys2Proof.Machine.execPodBreakMessage m s
  | .podBreakNotice m => Sys2Proof.Machine.execPodBreakNotice m s
  | .remoteTransaction t => Sys2Proof.Machine.execRemoteTransaction t s
  | .hostMemAccess a => Sys2Proof.Machine.execHostMemAccess a s
  | .linkDown k => Sys2Proof.Machine.execLinkDown k s
  | .registerWrite x n v => Sys2Proof.Machine.execRegisterWrite x n v s
  | .devidWrite v => Sys2Proof.Machine.execDevidWrite v s
  | .rwsplitWrite v => Sys2Proof.Machine.execRwsplitWrite v s
  | .contextEnable c v => Sys2Proof.Machine.execContextEnable c v s
  | .contextDisable c v => Sys2Proof.Machine.execContextDisable c v s
  | .invalidatePage c v => Sys2Proof.Machine.execInvalidatePage c v s
  | .invalidateAll c => Sys2Proof.Machine.execInvalidateAll c s
  | .invalidationComplete c => Sys2Proof.Machine.execInvalidationComplete c s
  | .polkeyWrite c k v => Sys2Proof.Machine.execPolkeyWrite c k v s
  | .channelRetire t p => Sys2Proof.Machine.execChannelRetire t p s
  | .lineRebuild t line => Sys2Proof.Machine.execLineRebuild t line s
  | .idleEntry => Sys2Proof.Machine.execIdleEntry s
  | .wake => Sys2Proof.Machine.execWake s
  | .powerOn => Sys2Proof.Machine.execPowerOn s
  | .deviceReset => Sys2Proof.Machine.execDeviceReset s
  | .firmwareVerifyRun v => Sys2Proof.Machine.execFirmwareVerifyRun v s
  | .firmwareVerifyDone => Sys2Proof.Machine.execFirmwareVerifyDone s
  | .writeReport v => Sys2Proof.Machine.execWriteReport v s
  | .reportWritten => Sys2Proof.Machine.execReportWritten s
  | .linkUp k => Sys2Proof.Machine.execLinkUp k s
  | .nop f => Sys2Proof.Machine.execNop f s
  | .br f => Sys2Proof.Machine.execBr f s
  | .brx f => Sys2Proof.Machine.execBrx f s
  | .brxTab f => Sys2Proof.Machine.execBrxTab f s
  | .call f => Sys2Proof.Machine.execCall f s
  | .fcall f => Sys2Proof.Machine.execFcall f s
  | .ret f => Sys2Proof.Machine.execRet f s
  | .retTr f => Sys2Proof.Machine.execRetTr f s
  | .trap f => Sys2Proof.Machine.execTrap f s
  | .ipf f => Sys2Proof.Machine.execIpf f s
  | .mfs f => Sys2Proof.Machine.execMfs f s
  | .mts f => Sys2Proof.Machine.execMts f s
  | .setseed f => Sys2Proof.Machine.execSetseed f s
  | .setseedGrp f => Sys2Proof.Machine.execSetseedGrp f s
  | .sadd f => Sys2Proof.Machine.execSadd f s
  | .ssub f => Sys2Proof.Machine.execSsub f s
  | .smul f => Sys2Proof.Machine.execSmul f s
  | .smad f => Sys2Proof.Machine.execSmad f s
  | .slog f => Sys2Proof.Machine.execSlog f s
  | .sshf f => Sys2Proof.Machine.execSshf f s
  | .scmp f => Sys2Proof.Machine.execScmp f s
  | .ssel f => Sys2Proof.Machine.execSsel f s
  | .smov f => Sys2Proof.Machine.execSmov f s
  | .sadr f => Sys2Proof.Machine.execSadr f s
  | .sbit f => Sys2Proof.Machine.execSbit f s
  | .smm f => Sys2Proof.Machine.execSmm f s
  | .add f => Sys2Proof.Machine.execAdd f s
  | .sub f => Sys2Proof.Machine.execSub f s
  | .mul f => Sys2Proof.Machine.execMul f s
  | .mad f => Sys2Proof.Machine.execMad f s
  | .log f => Sys2Proof.Machine.execLog f s
  | .shf f => Sys2Proof.Machine.execShf f s
  | .cmp f => Sys2Proof.Machine.execCmp f s
  | .sel f => Sys2Proof.Machine.execSel f s
  | .mov f => Sys2Proof.Machine.execMov f s
  | .mm f => Sys2Proof.Machine.execMm f s
  | .bit f => Sys2Proof.Machine.execBit f s
  | .dot4 f => Sys2Proof.Machine.execDot4 f s
  | .movxLd f => Sys2Proof.Machine.execMovxLd f s
  | .movxSt f => Sys2Proof.Machine.execMovxSt f s
  | .fadd f => Sys2Proof.Machine.execFadd f s
  | .fmul f => Sys2Proof.Machine.execFmul f s
  | .fma f => Sys2Proof.Machine.execFma f s
  | .fmm f => Sys2Proof.Machine.execFmm f s
  | .fcmp f => Sys2Proof.Machine.execFcmp f s
  | .fsf f => Sys2Proof.Machine.execFsf f s
  | .fcls f => Sys2Proof.Machine.execFcls f s
  | .fsgn f => Sys2Proof.Machine.execFsgn f s
  | .cvt f => Sys2Proof.Machine.execCvt f s
  | .bmax f => Sys2Proof.Machine.execBmax f s
  | .bscl f => Sys2Proof.Machine.execBscl f s
  | .qnt f => Sys2Proof.Machine.execQnt f s
  | .dqnt f => Sys2Proof.Machine.execDqnt f s
  | .rblk f => Sys2Proof.Machine.execRblk f s
  | .pack f => Sys2Proof.Machine.execPack f s
  | .shfl f => Sys2Proof.Machine.execShfl f s
  | .permLane f => Sys2Proof.Machine.execPermLane f s
  | .permByte f => Sys2Proof.Machine.execPermByte f s
  | .vote f => Sys2Proof.Machine.execVote f s
  | .ballot f => Sys2Proof.Machine.execBallot f s
  | .ballotGrp f => Sys2Proof.Machine.execBallotGrp f s
  | .red f => Sys2Proof.Machine.execRed f s
  | .scan f => Sys2Proof.Machine.execScan f s
  | .popc f => Sys2Proof.Machine.execPopc f s
  | .ld f => Sys2Proof.Machine.execLd f s
  | .ldZ f => Sys2Proof.Machine.execLdZ f s
  | .st f => Sys2Proof.Machine.execSt f s
  | .ldsc f => Sys2Proof.Machine.execLdsc f s
  | .stsc f => Sys2Proof.Machine.execStsc f s
  | .stmc f => Sys2Proof.Machine.execStmc f s
  | .dpf f => Sys2Proof.Machine.execDpf f s
  | .rcn f => Sys2Proof.Machine.execRcn f s
  | .atom f => Sys2Proof.Machine.execAtom f s
  | .cas f => Sys2Proof.Machine.execCas f s
  | .ldfeTake f => Sys2Proof.Machine.execLdfeTake f s
  | .ldfePeek f => Sys2Proof.Machine.execLdfePeek f s
  | .stfe f => Sys2Proof.Machine.execStfe f s
  | .stfeForce f => Sys2Proof.Machine.execStfeForce f s
  | .barMeet f => Sys2Proof.Machine.execBarMeet f s
  | .barPost f => Sys2Proof.Machine.execBarPost f s
  | .barHold f => Sys2Proof.Machine.execBarHold f s
  | .barSet f => Sys2Proof.Machine.execBarSet f s
  | .bind f => Sys2Proof.Machine.execBind f s
  | .acq f => Sys2Proof.Machine.execAcq f s
  | .rel f => Sys2Proof.Machine.execRel f s
  | .fenceAll f => Sys2Proof.Machine.execFenceAll f s
  | .fenceBank f => Sys2Proof.Machine.execFenceBank f s
  | .mma f => Sys2Proof.Machine.execMma f s
  | .mmv f => Sys2Proof.Machine.execMmv f s
  | .accZero f => Sys2Proof.Machine.execAccZero f s
  | .accFree f => Sys2Proof.Machine.execAccFree f s
  | .accCopy f => Sys2Proof.Machine.execAccCopy f s
  | .accAdd f => Sys2Proof.Machine.execAccAdd f s
  | .accRdr f => Sys2Proof.Machine.execAccRdr f s
  | .accRdc f => Sys2Proof.Machine.execAccRdc f s
  | .accWrr f => Sys2Proof.Machine.execAccWrr f s
  | .drain f => Sys2Proof.Machine.execDrain f s
  | .epld f => Sys2Proof.Machine.execEpld f s
  | .bclose f => Sys2Proof.Machine.execBclose f s
  | .bwait f => Sys2Proof.Machine.execBwait f s
  | .launch f => Sys2Proof.Machine.execLaunch f s

end Sys2Proof.Machine
end

