-- ==== Sys2Proof/Machine/Fetch.lean ====
section
/-! DEFINITION. What the next step performs: the instruction of a path chosen to issue, read from its core's
instruction cache (R41, R43, R169); an event already decided; or the next free event, with every move that is pending in
its turn (R288, R293; log 1). -/

namespace Sys2Proof.Machine

/-- The instruction of a path chosen to issue: none when the path cannot issue any more, or when its slot holds no
instruction, in which case it takes the illegal-instruction trap (R96, R97, R116). -/
def State.fetched (s : State) (r : PathRef) : Option Instr × State :=
  let idle := fun (s : State) => { s with clk := { s.clk with cur := none } }
  match s.envOf r with
  | none => (none, idle s)
  | some e =>
    match e.b.slotOp e.k with
    | some (o, f) => (some (Op.mk o f), s)
    | none => (none, idle (e.raise { code := 0x01, lanes := e.p.exm, open_ := true }))

/-! ### The moves that are pending (R288, R293) -/

/-- The moves of a path. -/
def pathMoves (r : PathRef) : List Instr :=
  [.pathBoost r, .bundleArrival r, .armRelease r, .sidePathMerge r, .pageResolved r, .pageFaultFatal r, .barMeetArrival r]

/-- The moves of the device's parts that a job may be at. -/
def jobMoves (n : Nat) : List Instr :=
  [.transformCopy n, .transformConv n, .transformConvt n, .gather n, .scatter n, .chain n, .bankMv n, .bankAccm n, .bankAmax n,
    .bankFill n, .bankCopy n, .allReduce n, .reduceScatter n, .allGather n, .broadcast n, .inHopReduction n, .snapshotArm n,
    .snapshotCancel n, .jobWriteLand n, .jobStatus n []]

/-- The moves of a bank command. -/
def bankMoves (n : Nat) : List Instr := [.bankForward n, .bankFadd2 n, .bankIadd2 n, .bankIadd64 n, .bankFmax2 n, .bankWrite n]

/-- The moves of a packet at this device. -/
def packMoves (p : Packet) : List Instr := [.hopPass p, .hopReduce p, .hopDeliver p, .hopCopy p, .hopInvalid p]

namespace State

/-- The moves of an instruction that has issued: its lanes' reads and atomics with the fills that they need, its release
moves and line copies, and its completion. -/
def flightMoves (s : State) (f : Flight) : List Instr :=
  let hive := ((s.comb? f.comb).map fun c => hiveOf c.core).getD 0
  (f.accs.map fun a =>
      (if viaRdc hive (lineKey a.key) then [Instr.cacheFill (.rdc hive) (lineKey a.key)] else [])
        ++ [.loadRead f.fid a.lane, .atomicPerform f.fid a.lane]).flatten
    ++ (f.rcn.map fun x => Instr.rcnLineCopy f.fid x.1 x.2) ++ [.release f.fid, .instructionComplete f.fid]

/-- The moves of a context. -/
def ctxMoves (s : State) (c : Nat) : List Instr :=
  let x := s.ctx c
  [.launchRecordRead c, .loadFinish c, .saveComplete c, .invalidationComplete c]
    ++ ((List.range x.saved.length).map fun k => Instr.restoredCombPlace c k)
    ++ ((s.wanted c).map fun va => Instr.managedPageResolve c (va / 65536))
    ++ (if s.devWaits c then [.managedPageResolve c 0] else [])

/-- The moves of store buffers and caches. -/
def cohMoves (s : State) : List Instr :=
  (s.coh.sb.map fun e => e.reps.map fun r => Instr.sbDrain e.eid r).flatten
    ++ (s.coh.lines.map fun c => match c.cache with
      | .rdc h => if c.dirty.isEmpty then [] else [Instr.rdcWriteBack h c.line]
      | .l1 k => [.l1Invalidate k c.line]).flatten
    ++ (s.coh.bank.map fun b => bankMoves b.num).flatten
    ++ ((s.coh.mq.map fun e => e.core).eraseDups.map fun k => Instr.matrixQueueAdvance k)
    ++ s.coh.ireq.map fun x => Instr.icacheLineFill x.1 x.2.1 x.2.2

/-- Every move that is pending, and with each object the moves that it may be at: a move that is not enabled changes
nothing. -/
def pending (s : State) : List Instr :=
  ((List.range 64).map fun c => s.ctxMoves c).flatten
    ++ (s.launches.map fun l => [Instr.gateEvaluation l.num, .launchComplete l.num, .abortComplete l.num]).flatten
    ++ ((List.range 4).map fun h => [Instr.stealSilenceExpiry h, .distributorDispatch h, .stealRequest h, .stealAnswer h, .stolenCombPlace h]).flatten
    ++ (s.flights.map fun f => s.flightMoves f).flatten ++ s.cohMoves
    ++ (s.combs.map fun c =>
        (c.groups.map fun g => (g.paths.map fun p => pathMoves { comb := c.id, group := g.gidx, path := p.pix }).flatten
          ++ g.forks.map fun f => Instr.forkResolution c.id g.gidx f.num).flatten
          ++ c.gangs.map fun l => Instr.gangTimeout c.id l.gang).flatten
    ++ (s.cores.sites.map fun m => Instr.noforkClear m.core m.site)
    ++ (s.coh.sb.map fun e => Instr.jobAccept e.eid) ++ (s.jobs.map fun j => jobMoves j.num).flatten
    ++ ((s.spire.loc ++ s.spire.waiting).map packMoves).flatten ++ (s.spire.slots.map fun x => Instr.slotExpiry x.num)
    ++ (s.snaps.map fun n => Instr.snapshotPageDrain n.job) ++ (s.dev.stale.map fun x => Instr.lineRebuild x.1 x.2)
    ++ [.firmwareVerifyDone, .reportWritten, .idleEntry, .issueChoice]

end State

/-! ### The next move -/

/-- Moves of the device's own parts, which stand still in A1 and A2 (R347); the others come from the host, from the pod or
from the board. -/
def inside (i : Instr) : Bool :=
  match i with
  | .lqprodWrite .. | .loaderLoad .. | .loaderUnload .. | .preemptSave .. | .preemptRestore .. | .hopPass .. | .hopReduce ..
  | .hopDeliver .. | .hopCopy .. | .hopInvalid .. | .podArrivalMessage .. | .podInitMessage .. | .podPendingMessage ..
  | .podCompletionMessage .. | .podBreakMessage .. | .podBreakNotice .. | .remoteTransaction .. | .hostMemAccess .. | .linkDown ..
  | .linkUp .. | .registerWrite .. | .devidWrite .. | .rwsplitWrite .. | .contextEnable .. | .contextDisable .. | .invalidatePage ..
  | .invalidateAll .. | .polkeyWrite .. | .wake | .powerOn | .deviceReset | .firmwareVerifyRun .. | .writeReport .. => false
  | _ => true

/-- A move that comes next. In A1 and A2 the device's own parts stand still, but for the gates that launches wait for; a
launch that is past its gates, or ends, wakes them (R347) (DEDUCED, log 107). -/
def State.moves (s : State) (i : Instr) : Option Instr × State :=
  if s.dev.astate == 0 || !inside i then (some i, s)
  else if s.launches.any fun l => !l.gated || l.aborted then (some i, s.awake)
  else match i with
    | .gateEvaluation _ => (some i, s)
    | _ => (none, s)

/-- What the next step performs, and the state in which it performs it (DEDUCED, log 49). After some free events every move
that is pending has its turn (log 1). -/
def State.nextInstr (s : State) : Option Instr × State :=
  match s.clk.issuing with
  | r :: rest => State.fetched { s with clk := { s.clk with issuing := rest, cur := some r } } r
  | [] =>
    match s.clk.agenda with
    | i :: is => State.moves { s with clk := { s.clk with agenda := is, cur := none } } i
    | [] =>
      let t := s.clk.tick
      if s.clk.calm = 0 then
        (none, { s with clk := { s.clk with agenda := s.pending, calm := Config.patience t + 1, tick := t + 1, cur := none } })
      else State.moves { s with clk := { s.clk with tick := t + 1, calm := s.clk.calm - 1, cur := none } } (Config.freeEvent t)

end Sys2Proof.Machine
end

