-- ==== Sys2Proof/Machine/Step.lean ====
section
/-! DEFINITION. One step of the machine, and the state in which a given instruction word comes next. -/

namespace Sys2Proof.Machine

/-- One step: the instruction or event that comes next (DESIGN CHOICE, log 1). -/
def step (s : State) : Host.Outcome State Fault Refusal :=
  match s.nextInstr with
  | (some i, s) => exec i s
  | (none, s) => .next s

/-- A group of a context, of one main path with all 32 lanes at bundle address 0. -/
def State.probeGroup (x : Ctx) : Group :=
  { stkap := x.stkap.toNat * 2 ^ 30
    s := List.replicate 64 0, x := List.replicate 4 0, q := List.replicate 8 0,
    v := List.replicate 256 (List.replicate 32 0), launched := 0xFFFFFFFF,
    paths := [{ pl := 0xFFFFFFFF, exm := 0xFFFFFFFF, arrived := true }] }

/-- `s` with a comb on core 0 whose one path is chosen to issue, and the word as the only valid slot of its bundle, in
the core's instruction cache (log 6). -/
def State.withFetchWord (s : State) (nbits w : Nat) : State :=
  let n := s.clk.serial
  { s with
    clk := { s.clk with serial := n + 2, issuing := [{ comb := n, group := 0, path := 0 }] }
    coh := { s.coh with il :=
      { core := 0, asid := s.asid 0, line := 0
        data := oneWordBundle 0x800078 (BitVec.ofNat 96 (w % 2 ^ nbits)) ++ List.replicate 192 0 } :: s.coh.il }
    launches := { num := n + 1, ctx := 0, regs := 256 } :: s.launches
    combs := { id := n, launch := n + 1, regs := 256, spap := (s.ctx 0).spap.toNat * 2 ^ 28,
               spBase := BitVec.ofNat 64 ((s.ctx 0).spap.toNat * 2 ^ 28),
               bars := List.replicate 16 {}, binds := List.replicate 16 {}, eprog := List.replicate 64 0, slots := [0],
               groups := [State.probeGroup (s.ctx 0)] } :: s.combs }

end Sys2Proof.Machine
end

