-- ==== Sys2Proof/Safety.lean ====
section
/-! DEFINITION. What counts as a safe state and a safe run, and the terms in which the claims speak of an instruction
that issues and of what an operation leaves unchanged. -/

namespace Sys2Proof.Machine

/-- A step completes: it answers a next state. -/
def Completes (o : Out State) : Prop := ∃ t, o = .next t

/-- The memory of a state has its canonical form. -/
def State.MemOk (s : State) : Prop := s.mem.wf = true

/-- A place is no byte of a trap record, of which a program can write RESUME only (R6, R164). -/
abbrev State.Plain (s : State) (k : Nat) : Prop := keyRegion k = 0 → keyAddr k % 65536 < 384 → keyAddr k / 65536 ∉ s.stackPages

/-- A run of `n` steps completes. -/
def State.Runs (s : State) : Nat → Prop
  | 0 => True
  | n + 1 => ∃ t, step s = .next t ∧ t.Runs n

/-- A state with no path chosen for the step that follows. -/
def State.rested (s : State) : State := { s with clk := { s.clk with cur := none } }

/-- The state once something from outside has ended A1 or A2 (R347). -/
def State.roused (s : State) : State := { s with dev := { s.dev with astate := 0 } }

/-- The dies are on and firmware runs, so that a write to the page of context `c` is taken (R347, R349). -/
def State.Exposes (s : State) (c : Nat) : Prop := c < 64 ∧ s.dev.fwstat = 2 ∧ s.dev.astate.toNat < 3

/-- The chosen path stands at this instruction and may issue it: its encoding is an instruction, a control transfer is
in the last valid slot (R97), and R311 does not hold a continuation at it. -/
structure Ready (s : State) (e : Env) (o : Op) (f : Form) : Prop where
  env   : s.env? = some e
  legal : o.legal f = true
  last  : o.transfers = true → e.b.lastValid e.k = true
  goes  : e.contHolds o f = false

/-- What every in-flight record of an instruction says of the instruction (R93, R107). -/
structure RecordOf (e : Env) (o : Op) (f : Form) (fl : Flight) : Prop where
  fid    : fl.fid = e.s.clk.serial
  row    : fl.op = o ∧ fl.form = f
  path   : fl.comb = e.ref.comb ∧ fl.group = e.ref.group ∧ fl.path = e.ref.path
  place  : fl.bundle = e.p.pc ∧ fl.slot = e.k
  setf   : fl.setf = e.setf
  lanes  : fl.lanes = e.active f.pred
  order  : fl.ord = { sid := e.p.sid, pos := e.s.clk.serial, past := e.p.past }
  modes  : fl.frm = e.g.frm ∧ fl.satf = e.g.satf
  cont   : fl.cont = e.fork.map fun k => k.num

/-- A record of an instruction that only writes registers. -/
structure Computes (e : Env) (o : Op) (f : Form) (fl : Flight) : Prop extends RecordOf e o f fl where
  noAccs   : fl.accs = []
  noStores : fl.stores = []
  noSync   : fl.sync = none
  fin      : fl.fin = .regs

/-- The state after the instruction has issued with record `fl`, its path gone on after its slot (R41), and with what a
continuation marks (R307, R309, R313): `more` is what it read in other lanes than its active ones. -/
def Env.issuedWith (e : Env) (f : Form) (srcs : List (Src × Env.Need)) (cross : Bool) (fl : Flight)
    (more : List (List (Src × Env.Need) × Lanes) := []) : State :=
  (e.contMarks srcs fl.writes (e.active f.pred) cross (e.issue fl) more).rested

/-- A row that only computes register results completes its issue: on every state whose chosen path is ready at it, with
operands that R106, R108 and R110 accept, `exec` answers the state in which it has issued with the record of the
writes `ws`, the latch value `la` and the flags `nf`, due after `lo` to `hi` cycles. `e'` is the environment with the
free values that the row takes already taken. -/
def RegRow (s : State) (e e' : Env) (o : Op) (f : Form) (srcs : List (Src × Env.Need)) (dn : Env.Need) (lo hi : Nat)
    (cross : Bool) (ws : List RegWrite) (la : Option Latch) (nf : Fl) (more : List (List (Src × Env.Need) × Lanes) := []) : Prop :=
  Ready s e o f → e.check srcs f.dst dn = none → e.contStalls srcs ws = false →
    ∃ fl, exec (Op.mk o f) s = .next (e'.issuedWith f srcs cross fl more) ∧ Computes e' o f fl ∧ fl.writes = ws ∧ fl.latch = la
      ∧ fl.nf = nf.bits ∧ s.clk.cycle + lo ≤ fl.due ∧ fl.due ≤ s.clk.cycle + hi

/-- The writes of a uniform result `v` (R141): a scalar register, an index register, or the active lanes of a predicate;
none with no active lane (R104), to the register with NWB (R111), or to q7 (R99). -/
def Env.scalarWrites (e : Env) (f : Form) (v : W64) : List RegWrite :=
  if e.active f.pred = 0 then []
  else match f.dst with
    | .scal n => if f.nwb then [] else [.s n.toNat v]
    | .idx k => [.x k.toNat (v.setWidth 16)]
    | .pred n => if n = 7 then [] else [.q n.toNat (e.active f.pred) (if v.getLsbD 0 then e.active f.pred else 0)]
    | _ => []

/-- The latch value of a uniform result (R108). -/
def Env.scalarLatch (e : Env) (f : Form) (v : W64) : Option Latch :=
  if e.active f.pred = 0 then none else match f.dst with | .scal _ => some (.scal v) | _ => none

/-- A uniform row (R141): result `v`, with SA when `sa`. -/
def ScalarRow (s : State) (e : Env) (o : Op) (f : Form) (srcs : List Src) (lat : Nat) (v : W64) (sa : Bool) : Prop :=
  RegRow s e e o f (srcs.map fun x => (x, { uniform := true })) {} lat lat false (e.scalarWrites f v) (e.scalarLatch f v)
    (if e.active f.pred = 0 then {} else { sa := sa })

/-- A uniform operation at the width that TY gives (R141): on 32 bits for i32 and n32, extended by TY's signedness. -/
def atWidth (t : Ty) (op32 : BitVec 32 → BitVec 32 → BitVec 32) (op64 : W64 → W64 → W64) (a b : W64) : W64 :=
  match t with
  | .i32 => (op32 (a.setWidth 32) (b.setWidth 32)).signExtend 64
  | .n32 => (op32 (a.setWidth 32) (b.setWidth 32)).setWidth 64
  | _ => op64 a b

/-- Shift or rotate of a word by an amount below its width (R142). -/
def shiftBy {w : Nat} (sub : Nat) (x : BitVec w) (n : Nat) : BitVec w :=
  match sub with
  | 0 => x <<< n
  | 1 => x >>> n
  | 2 => x.sshiftRight n
  | 3 => x.rotateLeft n
  | _ => x.rotateRight n

/-- A row of the lane families: with an active lane, the writes and the latch `out` and the flags `nf`; with none
nothing (R176). -/
def LaneRow (s : State) (e e' : Env) (o : Op) (f : Form) (srcs : List (Src × Env.Need)) (dn : Env.Need) (lo hi : Nat)
    (cross : Bool) (out : List RegWrite × Option Latch) (nf : Fl) (more : List (List (Src × Env.Need) × Lanes) := []) : Prop :=
  RegRow s e e' o f srcs dn lo hi cross (if e.active f.pred = 0 then [] else out.1)
    (if e.active f.pred = 0 then none else out.2) (if e.active f.pred = 0 then {} else nf) more

/-- Element codes `r` by lane and element, `w` bits each, put in the destination: a pair for 64-bit elements (R174). -/
def Env.elemOut (e : Env) (f : Form) (w : Nat) (r : Nat → Nat → Nat) : List RegWrite × Option Latch :=
  if w = 64 then e.out64 f (e.active f.pred) fun l => packLane w (r l)
  else e.out32 f (e.active f.pred) fun l => (packLane w (r l)).setWidth 32

/-- The flags of every element of every active lane. -/
def Env.elemFlags (e : Env) (f : Form) (k : Nat) (r : Nat → Nat → Fl) : Fl :=
  Fl.all ((lanesOf (e.active f.pred)).map fun l => Fl.all ((List.range k).map (r l)))

/-- An element-wise integer row (R180) with `n` operands: code and SA of each element from the operands' codes. -/
def ElemRow (s : State) (e : Env) (o : Op) (f : Form) (n w lat : Nat) (op : Nat → Nat → Nat → Nat) (sa : Nat → Nat → Nat → Bool) : Prop :=
  let x := fun (src : Src) (l i : Nat) => e.elem f src w l i
  LaneRow s e e o f (([f.s0, f.s1, f.s2].take n).map fun y => (y, { span := Ty.span f.ty, mult := Ty.span f.ty }))
    { span := Ty.span f.ty, mult := Ty.span f.ty } lat lat false
    (e.elemOut f w fun l i => op (x f.s0 l i) (if 2 ≤ n then x f.s1 l i else 0) (if 3 ≤ n then x f.s2 l i else 0))
    (e.elemFlags f (laneCount w) fun l i =>
      { sa := sa (x f.s0 l i) (if 2 ≤ n then x f.s1 l i else 0) (if 3 ≤ n then x f.s2 l i else 0) })

/-- The state after an instruction whose whole path goes to bundle `target` with return stack `rs` and call depth `d`
(R144, R140). -/
def Env.hopped (e : Env) (fl : Flight) (target : Nat) (rs : List RetAddr) (d : Nat) : State :=
  e.issueWith fl fun s => s.modPath e.ref fun p =>
    { p with pc := target, slot := 0, arrived := false, rstack := rs, depth := d, nextOk := e.s.clk.cycle + 2 }

/-- A control transfer whose operands may be read and whose target, return stack and call depth are `target`, `rs` and
`d` (R144, R152): the three cases of R144, and in a bundle with END that it only issues (log 25, DEDUCED). `e'` is `e` with
what the row reads at issue noted. -/
def TransferRow (s : State) (e e' : Env) (o : Op) (f : Form) (srcs : List (Src × Env.Need)) (target : Nat) (rs : List RetAddr) (d : Nat) : Prop :=
  let taken := e.active f.pred
  let stay := e.p.exm &&& ~~~taken
  let next := (e.p.pc + 64) % 2 ^ 64
  let j := match f.dst with | .none j => j.toNat | _ => 0
  Ready s e o f → e'.check srcs f.dst {} = none → e'.contStalls srcs [] = false → taken ≠ 0 →
    (e.b.fin = true → ∃ fl, Computes e' o f fl ∧ fl.writes = []
      ∧ exec (Op.mk o f) s = .next (e'.contMarks srcs [] taken false (e'.issue fl)).rested)
    ∧ (e.b.fin = false → stay = 0 → ∃ fl, Computes e' o f fl ∧ fl.writes = []
      ∧ exec (Op.mk o f) s = .next (e'.contMarks srcs [] taken false (e'.hopped fl target rs d)).rested)
    ∧ (e.b.fin = false → stay ≠ 0 → ∀ pix, e.p.kind = .main → Env.freeIndex e.g = some pix →
        ∃ t g arm st, exec (Op.mk o f) s = .next t ∧ t.group? e.ref.comb e.ref.group = some g ∧ g.dual = some (j, e.p.depth)
          ∧ arm ∈ g.paths ∧ arm.pix = e.ref.path ∧ arm.kind = .arm ∧ arm.pc = target ∧ arm.pl = taken ∧ arm.exm = taken ∧ arm.rstack = rs
          ∧ arm.depth = d ∧ arm.cstack = e.p.cstack
          ∧ st ∈ g.paths ∧ st.pix = pix ∧ st.kind = .arm ∧ st.pc = next ∧ st.pl = e.p.pl &&& ~~~taken ∧ st.exm = stay
          ∧ st.rstack = e.p.rstack ∧ st.depth = e.p.depth ∧ st.cstack = [])
    ∧ (e.b.fin = false → stay ≠ 0 → (e.p.kind ≠ .main ∨ Env.freeIndex e.g = none) → e.p.cstack.length < 16 →
        ∃ t q, exec (Op.mk o f) s = .next t ∧ t.path? e.ref = some q ∧ q.pc = target ∧ q.pl = taken ∧ q.exm = taken ∧ q.rstack = rs
          ∧ q.depth = d ∧ ∃ r, q.cstack = r :: e.p.cstack ∧ r.pc = next ∧ r.pl = e.p.pl &&& ~~~taken ∧ r.exm = stay ∧ r.jid = j
          ∧ r.rstack = e.p.rstack ∧ r.depth = e.p.depth ∧ r.held = false)

/-- The instruction issues: `exec` answers a state whose flights are those before and one record of it, memory is as
before in every byte, and the record is as `P` says. -/
def Issues (s : State) (e : Env) (o : Op) (f : Form) (P : Flight → Prop) : Prop :=
  e.g.ended = false → ∃ t fl, exec (Op.mk o f) s = .next t ∧ t.flights = s.flights ++ [fl] ∧ t.mem = s.mem ∧ t.clk.cur = none
    ∧ RecordOf e o f fl ∧ P fl

/-- The address of a lane for an access of `n` bytes (R212): base, scaled index with MOD, displacement. -/
def Env.laneAddr (e : Env) (f : Form) (n l : Nat) : W64 :=
  e.val f f.s0 l + (if f.mod then ((e.val f f.s1 l).setWidth 32).signExtend 64 * BitVec.ofNat 64 n else 0) + f.disp

/-- The lanes that access memory, with their addresses: the active lanes, or the lowest of them for a uniform access
(R218). -/
def Env.laneAddrs (e : Env) (f : Form) (n : Nat) (uniform : Bool) : List (Nat × W64) :=
  (if uniform then ((lanesOf (e.active f.pred)).head?).toList else lanesOf (e.active f.pred)).map fun l => (l, e.laneAddr f n l)

/-- A memory instruction whose operands are accepted, whose addresses lie in no foreign part of the window's core, and
whose lanes all translate to the places `ps` (R205, R209, R217). -/
structure Translates (s : State) (e : Env) (o : Op) (f : Form) (srcs : List (Src × Env.Need)) (dn : Env.Need) (n : Nat)
    (uniform : Bool) (need : Access) (okTT : Nat → Bool) (ps : List Place) : Prop where
  ready   : Ready s e o f
  check   : e.check srcs f.dst dn = none
  inside  : ∀ x ∈ e.laneAddrs f n uniform, e.outsideWindow x.2 = false
  places  : e.resolveAll n need okTT (e.laneAddrs f n uniform) = (ps, [])

/-- A value clamped to a range. -/
def clampTo (lo hi v : Int) : Int := if v < lo then lo else if hi < v then hi else v

/-- A floating-point row (R183) with `n` operands: code and flags of each element, from the draw's index and the
operands' codes in the format of TY. -/
def FloatRow (s : State) (e : Env) (o : Op) (f : Form) (n lat : Nat) (op : Nat → Nat → Nat → Nat → Nat × Fl) : Prop :=
  let t := fmtOf f.ty
  let r := fun (l i : Nat) => op (t.perReg * l + i) (e.fcode f f.s0 t l i) (if 2 ≤ n then e.fcode f f.s1 t l i else 0)
    (if 3 ≤ n then e.fcode f f.s2 t l i else 0)
  LaneRow s e e o f (([f.s0, f.s1, f.s2].take n).map fun y => (y, {})) {} lat lat false
    (e.out32 f (e.active f.pred) fun l => (packLane t.bits fun i => (r l i).1).setWidth 32)
    (e.elemFlags f t.perReg fun l i => (r l i).2)

/-- A cross-lane row (R178, R196): variable latency from 4 to 40 cycles. -/
def CrossRow (s : State) (e : Env) (o : Op) (f : Form) (srcs : List (Src × Env.Need)) (out : List RegWrite × Option Latch) (nf : Fl)
    (more : List (List (Src × Env.Need) × Lanes) := []) : Prop :=
  LaneRow s e { e with s := s.spend } o f srcs {} 4 40 true out nf more

end Sys2Proof.Machine
end

