-- ==== Sys2Proof/Certificates/Slice0/Obligations.lean ====
section
/-! DEFINITION. The statements for the provers. -/

open Sys2Proof Sys2Proof.Machine

/-! ### Register rows -/

/-- The scalar rows (R141 to R143): on every state whose chosen path is ready at the instruction, with uniform operands
and no lost latch, the instruction issues with the result that R142 gives, due after R139's latency, and raises SA in
sadd.sat and ssub.sat when the exact result is clamped; its OPC is the table's, and a word with another SUB or TY than the
table's is no instruction. -/
def Obligations.ScalarRowsComplete : Prop :=
  ∀ (s : State) (e : Env) (f : Form),
    let a := e.uni f f.s0
    let b := e.uni f f.s1
    let c := e.uni f f.s2
    let x := Ty.read f.ty a
    let y := Ty.read f.ty b
    let w := Ty.width f.ty
    let clamped := fun (v : Int) => BitVec.ofInt 64 (clampTo (Ty.lo f.ty) (Ty.hi f.ty) v)
    let out := fun (v : Int) => decide (v < Ty.lo f.ty ∨ Ty.hi f.ty < v)
    let wide := [Ty.i32, .i64, .n32, .n64]
    ScalarRow s e .sadd f [f.s0, f.s1] 2 (if f.sub = 1 then clamped (x + y) else atWidth f.ty (· + ·) (· + ·) a b) (f.sub == 1 && out (x + y))
    ∧ ScalarRow s e .ssub f [f.s0, f.s1] 2 (if f.sub = 1 then clamped (x - y) else atWidth f.ty (· - ·) (· - ·) a b) (f.sub == 1 && out (x - y))
    ∧ ScalarRow s e .smul f [f.s0, f.s1] 4 (if f.sub = 1 then Ty.wrap f.ty (x * y / 2 ^ w) else atWidth f.ty (· * ·) (· * ·) a b) false
    ∧ ScalarRow s e .smad f [f.s0, f.s1, f.s2] 4 (atWidth f.ty (· + ·) (· + ·) (atWidth f.ty (· * ·) (· * ·) a b) c) false
    ∧ ScalarRow s e .slog f [f.s0, f.s1] 2 (match f.sub.toNat with
        | 0 => a &&& b | 1 => a ||| b | 2 => a ^^^ b | 3 => a &&& ~~~b | 4 => a ||| ~~~b | _ => ~~~(a ^^^ b)) false
    ∧ ScalarRow s e .sshf f [f.s0, f.s1] 2
        (atWidth f.ty (fun p q => shiftBy f.sub.toNat p (q.toNat % 32)) (fun p q => shiftBy f.sub.toNat p (q.toNat % 64)) a b) false
    ∧ ScalarRow s e .scmp f [f.s0, f.s1] 2 (if (match f.sub.toNat with
        | 0 => x == y | 1 => x != y | 2 => decide (x < y) | 3 => decide (x ≤ y) | 4 => decide (x > y) | _ => decide (x ≥ y)) then 1 else 0) false
    ∧ ScalarRow s e .ssel f [f.s0, f.s1, f.s2] 2 (if c ≠ 0 then a else b) false
    ∧ ScalarRow s e .smov f [f.s0] 2 a false
    ∧ (f.variant = 0 → ScalarRow s e .sadr f [f.s0, f.s1] 2 (a + (b <<< f.rm)) false)
    ∧ (f.variant = 1 → ScalarRow s e .sadr f [f.s1] 2 (BitVec.ofNat 64 e.p.pc + (b <<< f.rm)) false)
    ∧ ScalarRow s e .sbit f [f.s0] 2 (BitVec.ofNat 64 (bitOp f.sub.toNat w (a.toNat % 2 ^ w))) false
    ∧ ScalarRow s e .smm f [f.s0, f.s1] 2 (BitVec.ofInt 64 (if f.sub = 0 then min x y else max x y)) false
    ∧ (∀ o c, (o, c) ∈ [(Op.sadd, 0x10), (.ssub, 0x11), (.smul, 0x12), (.smad, 0x13), (.slog, 0x14), (.sshf, 0x15), (.scmp, 0x16),
        (.ssel, 0x17), (.smov, 0x18), (.sadr, 0x19), (.sbit, 0x1A), (.smm, 0x1B)] → (encodeOp o f).toNat / 2 ^ 88 = c)
    ∧ (∀ o n tys, (o, n, tys) ∈ [(Op.sadd, 1, wide), (.ssub, 1, wide), (.smul, 1, wide), (.smad, 0, wide), (.slog, 5, [Ty.none]),
        (.sshf, 4, [Ty.n32, .n64]), (.scmp, 5, wide), (.ssel, 0, [Ty.none]), (.smov, 0, [Ty.none]), (.sbit, 3, [Ty.n32, .n64]), (.smm, 1, wide)] →
        o.legal f = true → f.sub.toNat ≤ n ∧ f.ty ∈ tys)
    ∧ (Op.sadr.legal f = true → f.sub.toNat % 8 ≤ 4 ∧ f.sub.toNat / 8 ≤ 1 ∧ f.ty = .none ∧ (f.sub.toNat / 8 = 1 → f.s0 = .vec 0))

/-- The lane integer rows (R180, R181): each element of each active lane takes the result that R181 gives, on the
elements' codes modulo 2^w, and SA is raised by sat forms that clamp. -/
def Obligations.LaneIntegerRowsComplete : Prop :=
  ∀ (s : State) (e : Env) (f : Form),
    let w := laneWidth f.ty
    let rd := asInt f.ty.signed w
    let lo := Ty.lo f.ty
    let hi := Ty.hi f.ty
    let cl := fun (v : Int) => (clampTo lo hi v % (2 ^ w : Nat)).toNat
    let out := fun (v : Int) => f.sub == 1 && decide (v < lo ∨ hi < v)
    let never := fun (_ _ _ : Nat) => false
    ElemRow s e .add f 2 w 2 (fun a b _ => if f.sub = 1 then cl (rd a + rd b) else (a + b) % 2 ^ w) (fun a b _ => out (rd a + rd b))
    ∧ ElemRow s e .sub f 2 w 2 (fun a b _ => if f.sub = 1 then cl (rd a - rd b) else (a + (2 ^ w - b)) % 2 ^ w) (fun a b _ => out (rd a - rd b))
    ∧ ElemRow s e .mul f 2 w 4 (fun a b _ => if f.sub = 1 then (rd a * rd b / (2 ^ w : Nat) % (2 ^ w : Nat)).toNat else a * b % 2 ^ w) never
    ∧ ElemRow s e .mad f 3 w 4 (fun a b c => if f.sub = 1 then cl (rd a * rd b + rd c) else (a * b + c) % 2 ^ w) (fun a b c => out (rd a * rd b + rd c))
    ∧ ElemRow s e .log f 2 32 2 (fun a b _ => match f.sub.toNat with
        | 0 => a &&& b | 1 => a ||| b | 2 => a ^^^ b | 3 => a &&& (2 ^ 32 - 1 - b) | 4 => a ||| (2 ^ 32 - 1 - b) | _ => 2 ^ 32 - 1 - (a ^^^ b)) never
    ∧ ElemRow s e .shf f 2 w 2 (fun a b _ => (shiftBy f.sub.toNat (BitVec.ofNat w a) (b % w)).toNat) never
    ∧ ElemRow s e .sel f 3 32 2 (fun a b c => if c ≠ 0 then a else b) never
    ∧ ElemRow s e .mov f 1 32 2 (fun a _ _ => a) never
    ∧ ElemRow s e .mm f 2 w 2 (fun a b _ => if (f.sub = 0) = (rd a ≤ rd b) then a else b) never
    ∧ ElemRow s e .bit f 1 w 2 (fun a _ _ => bitOp f.sub.toNat w a) never

/-- cmp, dot4 and movx (R181, R182): a comparison gives one 32-bit register or a predicate whatever the width; dot4 adds
four byte products to a 32-bit value; movx reads or writes, in each active lane, the register base + idx of that lane,
when every such register is in bounds. -/
def Obligations.LaneOddRowsComplete : Prop :=
  ∀ (s : State) (e : Env) (f : Form),
    let act := e.active f.pred
    let w := laneWidth f.ty
    let need : Env.Need := { span := Ty.span f.ty, mult := Ty.span f.ty }
    let x := fun (l : Nat) => asInt f.ty.signed w (e.elem f f.s0 w l 0)
    let y := fun (l : Nat) => asInt f.ty.signed w (e.elem f f.s1 w l 0)
    let dot := fun (l : Nat) =>
      let p := fun (j : Nat) => asInt f.ty.signed 8 (e.elem f f.s0 8 l j) * asInt f.ty.signed 8 (e.elem f f.s1 8 l j)
      asInt f.ty.signed 32 (e.elem f f.s2 32 l 0) + (p 0 + p 1 + p 2 + p 3)
    let lo : Int := if f.ty.signed then -2147483648 else 0
    let hi : Int := if f.ty.signed then 2147483647 else 4294967295
    let num := fun (base : Option Nat) (l : Nat) => base.getD 0 + (e.val f f.s1 l).toNat % 2 ^ 32
    let inside := fun (base : Option Nat) => ∀ l < 32, lane act l = true → num base l < e.c.regs
    LaneRow s e e .cmp f [(f.s0, need), (f.s1, need)] {} 2 2 false
      (e.out32 f act fun l => if (match f.sub.toNat with
        | 0 => x l == y l | 1 => x l != y l | 2 => decide (x l < y l) | 3 => decide (x l ≤ y l) | 4 => decide (x l > y l) | _ => decide (x l ≥ y l)) then 1 else 0) {}
    ∧ LaneRow s e e .dot4 f [(f.s0, {}), (f.s1, {}), (f.s2, {})] {} 4 4 false
      (e.out32 f act fun l => BitVec.ofInt 32 (if f.sub = 1 then clampTo lo hi (dot l) else dot l))
      (Fl.all ((lanesOf act).map fun l => { sa := f.sub == 1 && decide (dot l < lo ∨ hi < dot l) }))
    ∧ (inside (e.srcNum f.s0) → e.check [(f.s0, {}), (f.s1, {})] f.dst {} = none →
        let reg := fun (l : Nat) => (Src.vec (BitVec.ofNat 8 (num (e.srcNum f.s0) l)), ({} : Env.Need))
        let base := match f.s0 with | .vecAt k => [(Src.idx k, ({} : Env.Need))] | _ => []
        let srcs := (f.s1, {}) :: (base ++ (lanesOf act).map reg)
        let out := e.out32 f act fun l => vlane (e.vget (num (e.srcNum f.s0) l)) l
        let ws := if act = 0 then [] else out.1
        Ready s e .movxLd f → e.contStalls srcs ws = false →
          ∃ fl, exec (.movxLd f) s = .next (e.issuedWith f [(f.s1, {})] false fl ((lanesOf act).map fun l => ([reg l], laneBit l))) ∧ Computes e .movxLd f fl ∧ fl.writes = ws
            ∧ fl.latch = (if act = 0 then none else out.2) ∧ fl.nf = 0 ∧ fl.due = s.clk.cycle + 4)
    ∧ (inside (e.dstNum f.dst) → e.check [(f.s0, {}), (f.s1, {})] f.dst {} = none → Ready s e .movxSt f →
        ∃ ws, (∀ r m v, RegWrite.v r m v ∈ ws → ∀ l < 32,
              lane m l = (lane act l && num (e.dstNum f.dst) l == r) ∧ (lane act l = true → vlane v l = (e.val f f.s0 l).setWidth 32))
          ∧ (∀ l < 32, lane act l = true → ∃ m v, RegWrite.v (num (e.dstNum f.dst) l) m v ∈ ws)
          ∧ (∀ x ∈ ws, ∃ r m v, x = RegWrite.v r m v)
          ∧ (e.contStalls [(f.s0, {}), (f.s1, {})] ws = false →
              ∃ fl, exec (.movxSt f) s = .next (e.issuedWith f [(f.s0, {}), (f.s1, {})] false fl) ∧ Computes e .movxSt f fl
                ∧ fl.writes = ws ∧ fl.nf = 0 ∧ fl.due = s.clk.cycle + 4))

/-- The floating-point rows (R183 to R187), element by element: a NaN operand gives the canonical NaN; an invalid
operation gives it with NV; else the exact value is rounded once. The exact value of a special function is the model's
fsfNum, an enclosure narrowed until it rounds one way (log 27, DEDUCED), and fmm and fsgn are the model's fmmOp and fsgnOp. -/
def Obligations.LaneFloatRowsComplete : Prop :=
  ∀ (s : State) (e : Env) (f : Form),
    let t := fmtOf f.ty
    let r := e.rnd f.rm
    let num := decodeNum t
    let nan := (special t (.nan false)).1
    let one := fun (codes : List Nat) (v : Machine.Num × Bool) (idx : Nat) =>
      if codes.any fun c => (num c).isNan then (nan, Fl.all (codes.map (readFl t)))
      else if v.2 then (nan, ({ nv := true } : Fl))
      else roundTo v.1 t r idx
    let plus := Machine.Num.add (r.mode == 3)
    let prod := fun (a b : Nat) => Machine.Num.mul (num a) (num b)
    let flip := fun (n : Bool) (v : Machine.Num) => if n then v.negate else v
    FloatRow s e .fadd f 2 4 (fun i a b _ => one [a, b] (plus (num a) (flip (f.variant == 1) (num b))) i)
    ∧ FloatRow s e .fmul f 2 4 (fun i a b _ => one [a, b] (prod a b) i)
    ∧ FloatRow s e .fma f 3 4 (fun i a b c =>
        let v := plus (flip (2 ≤ f.variant) (prod a b).1) (flip (f.variant % 2 == 1) (num c))
        one [a, b, c] (v.1, (prod a b).2 || v.2) i)
    ∧ FloatRow s e .fmm f 2 2 (fun _ a b _ => fmmOp f.sub.toNat t a b)
    ∧ FloatRow s e .fcmp f 2 2 (fun _ a b _ =>
        let un := (decodeNum .f32 a).isNan || (decodeNum .f32 b).isNan
        let lt := Machine.Num.cmpLt (decodeNum .f32 a) (decodeNum .f32 b)
        let gt := Machine.Num.cmpLt (decodeNum .f32 b) (decodeNum .f32 a)
        (if (match f.sub.toNat with
          | 0 => !un && !lt && !gt | 1 => un || lt || gt | 2 => lt | 3 => !un && !gt | 4 => gt | 5 => !un && !lt | 6 => un | _ => !un) then 1 else 0,
          if 2 ≤ f.sub.toNat ∧ f.sub.toNat ≤ 5 then { nv := un } else (readFl .f32 a).or (readFl .f32 b)))
    ∧ FloatRow s e .fsf f 1 8 (fun i a _ _ =>
        let v := fsfNum f.variant (num a)
        ((roundTo v.1 t r i).1, (readFl t a).or (v.2.or (roundTo v.1 t r i).2)))
    ∧ FloatRow s e .fcls f 2 2 (fun _ a m _ => (if m.testBit (classOf t a) then 1 else 0, {}))
    ∧ FloatRow s e .fsgn f (if f.sub.toNat ≤ 1 then 1 else 2) 2 (fun _ a b _ => (fsgnOp f.sub.toNat t a b, {}))

/-- The conversion and block rows (R189 to R195). That rblk raises, of R194's flags, NX and SA, and beside them what R69 gives
for its reads (log 31), and that pack reads its operands as their low 32 bits (log 32) are the model's inferences (DEDUCED). -/
def Obligations.ConversionRowsComplete : Prop :=
  ∀ (s : State) (e : Env) (f : Form),
    let act := e.active f.pred
    let t := Form.fmtT f
    let st := Form.sfmtT f
    let r := e.rnd f.rm
    let k := laneElems t
    let a := (e.srcNum f.s0).getD 0
    let n := if wide32 st then t.perReg else st.perReg
    let val := fun (x : Src) (l : Nat) => (e.val f x l).toNat % 2 ^ 32
    let regs := fun (m : Nat) (l : Nat) => (List.range m).map fun i => (vlane (e.vget (a + i)) l).toNat
    let lanes := fun (g : Nat → Fl) => Fl.all ((lanesOf act).map g)
    let elt := fun (l i : Nat) =>
      cvtOp t st r (n * l + i) (if wide32 st then (match e.srcNum f.s0 with
        | some b => (vlane (e.vget (b + i)) l).toNat | none => e.elem f f.s0 32 l 0) else e.elem f f.s0 st.bits l i)
    let quant := fun (l : Nat) => quantUnder t (f.blk == 2) ((e.val f f.s1 l).toNat % 256) r ((regs k l).map (decodeNum .f32)) (k * l)
    let old := fun (l : Nat) => e.pairAt t a l
    let deq := fun (l i : Nat) => roundTo (scaledNum t (old l).x (muAt (old l).mu i) (((old l).el[i]?).getD 0)) .f32 r (k * l + i)
    let newX := fun (l : Nat) => (e.val f f.s1 l).toNat % 256
    let re := fun (l : Nat) =>
      if (old l).x = 255 ∨ newX l = 255 then ({ x := 255, el := (old l).el.map fun _ => 0 } : Block)
      else reexpress t (f.blk == 2) (newX l) (blockNums t (old l).x (old l).mu (old l).el)
    let reFl := fun (l : Nat) => if (old l).x = 255 ∨ newX l = 255 then {} else (re l).fl.or (blockReadFl t (old l).x (old l).el)
    let bcodes := fun (l : Nat) => regs (f.sub.toNat + 1) l ++ (if f.mod then [val f.s1 l] else [])
    (∀ sn dn : Env.Need,
        sn = { span := if wide32 st then n else if st.bits = 64 then 2 else 1, mult := if st.bits = 64 then 2 else 1, vecLatch := true } →
        dn = { span := if wide32 t then (if wide32 st then 1 else n) else if t.bits = 64 then 2 else 1, mult := if t.bits = 64 then 2 else 1 } →
        LaneRow s e e .cvt f [(f.s0, sn)] dn 4 4 false
          (if wide32 t then e.outRegs f act ((List.range n).map fun i l => BitVec.ofNat 32 (elt l i).1)
            else if t.bits = 64 then e.out64 f act fun l => BitVec.ofNat 64 (elt l 0).1
            else e.outRegs f act [fun l => BitVec.ofNat 32 (packElems t ((List.range n).map fun i => (elt l i).1))])
          (e.elemFlags f n fun l i => (elt l i).2))
    ∧ CrossRow s e .bmax f ((f.s0, { span := f.sub.toNat + 1 }) :: (if f.mod then [(f.s1, { vecLatch := true })] else []))
        (e.out32 f act fun l => BitVec.ofNat 32 (exactCode .f32
          ((((e.peers act l).map bcodes).flatten.map fun c => (decodeNum .f32 c).abs).foldl numMax (.fin false 0 0))))
        (lanes fun l => Fl.all ((bcodes l).map (readFl .f32)))
    ∧ LaneRow s e e .bscl f [(f.s0, {})] {} 2 2 false
        (e.out32 f act fun l => BitVec.ofNat 32 (scaleFor t (f32 ((e.val f f.s0 l).setWidth 32)).abs)) {}
    ∧ LaneRow s e e .qnt f [(f.s0, { span := k }), (f.s1, {})] { span := 2, mult := 2 } 4 4 false
        (e.outRegs f act [fun l => (blockPair t (quant l)).1, fun l => (blockPair t (quant l)).2])
        (lanes fun l => (quant l).fl.or (Fl.all ((regs k l).map (readFl .f32))))
    ∧ LaneRow s e e .dqnt f [(f.s0, { span := 2, mult := 2 })] { span := k } 4 4 false
        (e.outRegs f act ((List.range k).map fun i l => BitVec.ofNat 32 (deq l i).1))
        (e.elemFlags f k fun l i => (deq l i).2.or (blockReadFl t (old l).x [((old l).el[i]?).getD 0]))
    ∧ LaneRow s e e .rblk f [(f.s0, { span := 2, mult := 2 }), (f.s1, {})] { span := 2, mult := 2 } 4 4 false
        (e.outRegs f act [fun l => (blockPair t (re l)).1, fun l => (blockPair t (re l)).2]) (lanes reFl)
    ∧ LaneRow s e e .pack f ((f.s0, {}) :: (if f.variant = 0 then [] else [(f.s1, {})])) {} 2 2 false
        (e.out32 f act fun l => BitVec.ofNat 32
          (if f.variant = 0 then elemAt t (val f.s0 l) f.rm else insElem t (val f.s0 l) f.rm (val f.s1 l))) {}

/-- The cross-lane rows (R196 to R203): lanes read other lanes of the tile or of the group, with zero from a lane that
has exited or was never launched (R197); votes, ballots and counts range over the participating lanes; red and scan
combine them in the fixed order. -/
def Obligations.CrossLaneRowsComplete : Prop :=
  ∀ (s : State) (e : Env) (f : Form),
    let act := e.active f.pred
    let w := e.width
    let val := fun (x : Src) (l : Nat) => (e.val f x l).toNat % 2 ^ 32
    let lane0 := fun (l : Nat) => l / w * w
    let peers := fun (l : Nat) => (List.range w).map (lane0 l + ·) |>.filter fun i => lane act i
    let from_ := fun (l : Nat) => if lane e.g.launched l && !lane e.g.exited l then (e.val f f.s0 l).setWidth 32 else (0 : W32)
    let src := fun (l : Nat) =>
      let b := val f.s1 l
      let p := l - lane0 l
      match f.sub.toNat with
      | 0 => lane0 l + b % w
      | 1 => if b ≤ p then l - b else l
      | 2 => if p + b < w then l + b else l
      | _ => lane0 l + (p ^^^ (b % w))
    let truth := fun (l : Nat) => (e.val f f.s0 l).setWidth 32 != (0 : W32)
    let bytes := fun (l : Nat) => leBytes 4 (val f.s0 l) ++ leBytes 4 (val f.s1 l)
    let pick := fun (l j : Nat) =>
      let n := val f.s2 l / 16 ^ j % 16
      if 8 ≤ n then (0 : Byte) else ((bytes l)[n]?).getD 0
    let scanOf := fun (tile : Nat) =>
      let ls := (e.tileLanes tile).filter fun l => lane act l
      let v := scanLanes f.rm f.ty (f.variant == 1) (val f.s0) ls (none, {})
      (v.1, v.2.or (snanFl f.ty (ls.map (val f.s0))))
    let scans := (List.range (32 / w)).map scanOf
    let read := fun (from' : Nat → Nat) => [([(f.s0, ({} : Env.Need))], maskOf fun i => (lanesOf act).any fun l => from' l == i)]
    CrossRow s e .shfl f [(f.s0, { vecLatch := true }), (f.s1, {})] (e.out32 f act fun l => from_ (src l)) {} (read src)
    ∧ CrossRow s e .permLane f [(f.s0, { vecLatch := true }), (f.s1, {})] (e.out32 f act fun l => from_ (val f.s1 l % 32)) {}
        (read fun l => val f.s1 l % 32)
    ∧ CrossRow s e .permByte f [(f.s0, {}), (f.s1, {}), (f.s2, {})]
        (e.out32 f act fun l => BitVec.ofNat 32 (leNat ((List.range 4).map (pick l)))) {}
    ∧ CrossRow s e .vote f [(f.s0, {})] (e.out32 f act fun l => if (match f.sub.toNat with
        | 0 => (peers l).all truth | 1 => (peers l).any truth
        | _ => (peers l).all fun i => (e.val f f.s0 i).setWidth 32 == (e.val f f.s0 l).setWidth 32) then 1 else 0) {}
    ∧ CrossRow s e .ballot f [(f.s0, {})]
        (e.out32 f act fun l => BitVec.ofNat 32 ((((peers l).filter truth).map fun i => 2 ^ (i - lane0 l)).sum)) {}
    ∧ CrossRow s e .ballotGrp f [(f.s0, {})]
        (e.outS f act ((act &&& maskOf truth).setWidth 64)) {}
    ∧ CrossRow s e .popc f [(f.s0, {})]
        (e.out32 f act fun l => BitVec.ofNat 32 ((peers l).filter fun i => truth i && (f.sub == 0 || i < l)).length) {}
    ∧ CrossRow s e .red f [(f.s0, {})] (e.out32 f act fun l => canonOut f.ty (e.redTile f act (l / w)).1)
        (Fl.all ((List.range (32 / w)).map fun t => (e.redTile f act t).2))
    ∧ CrossRow s e .scan f [(f.s0, {})]
        (e.out32 f act fun l => canonOut f.ty ((((scans.map fun r => r.1).flatten.find? fun v => v.1 == l).map fun v => v.2).getD 0))
        (Fl.all (scans.map fun r => r.2))
/-! ### Control and special registers -/

/-- nop (R118) has no effect beyond issuing; mfs (R158) reads the special register as it stands at issue; mts and setseed
(R158, R160) write theirs when they complete; setseed.grp mixes the comb's linear index times 16 plus GIDX. CORE, COMBID
and GROUPID have the layouts of R22 to R24 and, as the other read-only registers, take no mts. -/
def Obligations.SpecialRowsComplete : Prop :=
  ∀ (s : State) (e : Env) (f : Form),
    let act := e.active f.pred
    let a := e.uni f f.s0
    let only := fun (w : RegWrite) => if act = 0 then [] else [w]
    let u : Env.Need := { uniform := true }
    let mixed := a ^^^ (BitVec.ofNat 64 ((e.c.cx + e.l.gx * (e.c.cy + e.l.gy * e.c.cz)) * 16 + e.g.gidx) * 0x9E3779B97F4A7C15#64)
    let m1 := (mixed ^^^ (mixed >>> 30)) * 0xBF58476D1CE4E5B9#64
    let m2 := (m1 ^^^ (m1 >>> 27)) * 0x94D049BB133111EB#64
    let combid : W64 := BitVec.ofNat 64 ((if e.c.offh then 2 ^ 63 else 0) + e.c.cz * 2 ^ 32 + e.c.cy * 2 ^ 16 + e.c.cx)
    (Ready s e .nop f → ∃ fl, Computes e .nop f fl ∧ fl.writes = [] ∧ fl.latch = none ∧ fl.nf = 0
      ∧ exec (.nop f) s = .next (e.issue fl).rested)
    ∧ (∀ r, f.s0 = .spec r →
        let v : W64 := match r with
          | .exm => e.p.exm.setWidth 64
          | .part => e.g.logw.setWidth 64
          | .prio => e.g.prio.setWidth 64
          | .gang => e.g.gang.setWidth 64
          | .seed => e.g.seed
          | .nf => e.g.nf.setWidth 64
          | .fmode => BitVec.ofNat 64 ((if e.g.satf then 8 else 0) + e.g.frm.toNat)
          | .fdepth => e.p.fdepth.setWidth 64
          | .spbase => e.c.spBase
          | .spsize => BitVec.ofNat 64 e.c.scratch
          | .combid => combid
          | .groupid =>
            let slot := e.g.gslot
            BitVec.ofNat 64 ((if e.fork.isSome then 4096 else 0) + slot % 4 * 1024 + slot * 16 + e.g.gidx)
          | .core => BitVec.ofNat 64 (quadOf e.c.core * 2 ^ 16 + clusterOf e.c.core * 2 ^ 10 + hiveOf e.c.core * 2 ^ 8
              + e.c.core / 16 * 16 + e.c.core % 16)
          | .batch => BitVec.ofNat 64 (e.g.closed.toNat * 2 ^ 32 + e.g.done.toNat)
          | .trapvec => e.g.trapvec
          | .fstat => s.fstat e.c.core
          | .karg => e.l.karg
        RegRow s e e .mfs f [] {} 2 2 false (e.scalarWrites f v) (e.scalarLatch f v) {})
    ∧ (e.c.cx < 2 ^ 16 → e.c.cy < 2 ^ 16 → e.c.cz < 2 ^ 16 → combid.getLsbD 63 = e.c.offh ∧ combid.toNat / 2 ^ 48 % 2 ^ 15 = 0
        ∧ combid.toNat / 2 ^ 32 % 2 ^ 16 = e.c.cz ∧ combid.toNat / 2 ^ 16 % 2 ^ 16 = e.c.cy ∧ combid.toNat % 2 ^ 16 = e.c.cx)
    ∧ (∀ r ∈ [SReg.core, .combid, .groupid, .karg, .spbase, .spsize, .batch, .fdepth], f.dst = .spec r → Op.mts.legal f = false)
    ∧ (∀ r, f.dst = .spec r → RegRow s e e .mts f [(f.s0, u)] {} 2 2 false (only (.sreg r a)) none {})
    ∧ RegRow s e e .setseed f [(f.s0, u)] {} 2 2 false (only (.sreg .seed a)) none {}
    ∧ RegRow s e e .setseedGrp f [(f.s0, u)] {} 2 2 false (only (.sreg .seed (m2 ^^^ (m2 >>> 31)))) none {}

/-- br, brx and brx.tab (R144 to R148, R152): with every enabled lane taking it the path goes to the target; with some
lanes staying it splits; with none nothing happens but the advance. In the split, that pending parts stay with the taken arm
(log 109) and that the staying arm has the lowest free path index (log 39) are the model's choices, and that a transfer in an
END bundle only issues is its inference (log 25, DEDUCED). brx.tab's target is the dword at SRC0 + 8 * SRC1, as a
load that the path may perform when brx.tab issues finds it; that it is read at the issue is the model's (log 23, DEDUCED). -/
def Obligations.BranchesComplete : Prop :=
  ∀ (s : State) (e : Env) (f : Form),
    let taken := e.active f.pred
    let rel := f.s0 = .immS
    let target := if rel then (BitVec.ofNat 64 e.p.pc + 64 * f.imm.signExtend 64).toNat else (e.uni f f.s0).toNat
    let srcs : List (Src × Env.Need) := if f.s0.isImm then [] else [(f.s0, { uniform := true })]
    let tab : List (Src × Env.Need) := [f.s0, f.s1].filter (fun x => !x.isImm) |>.map fun x => (x, { uniform := true })
    let va := e.uni f f.s0 + 8 * e.uni f f.s1
    (rel ∨ target % 64 = 0 → TransferRow s e e .br f srcs target e.p.rstack e.p.depth)
    ∧ (target % 64 = 0 → TransferRow s e e .brx f srcs target e.p.rstack e.p.depth)
    ∧ (∀ o ss, (o, ss) ∈ [(Op.br, srcs), (.brx, srcs), (.brxTab, tab)] → Ready s e o f → e.check ss f.dst {} = none →
        e.contStalls ss [] = false → taken = 0 →
        ∃ fl, Computes e o f fl ∧ fl.writes = [] ∧ exec (Op.mk o f) s = .next (e.issue fl).rested)
    ∧ (∀ p, e.check tab f.dst {} = none → e.fork = none → e.outsideWindow va = false →
        e.resolve 8 .read ttLoad ((Env.lowest taken).getD 0) va = .inl p →
        let e1 := e.noteAll [p] []
        let a := leNat (e1.peek p.key 8).1
        e1.mayPeek va.toNat p.key 8 = true → a % 64 = 0 →
          TransferRow s e { e1 with s := (e1.peek p.key 8).2 } .brxTab f tab a e.p.rstack e.p.depth)

/-- call, fcall and ret (R149 to R151): a call pushes the next bundle's offset in its code object and goes one level
deeper; fcall that forks nothing does the same; ret pops the top entry and goes there, one level up. An fcall at a site
marked no-fork counts one of the mark's 4,096 (R317). Of their split and of a bundle with END, logs 109 and 39 (DESIGN CHOICE)
and 25 (DEDUCED) are the model's. -/
def Obligations.CallsAndReturnsComplete : Prop :=
  ∀ (s : State) (e : Env) (f : Form),
    let rel := f.s0 = .immS
    let target := if rel then (BitVec.ofNat 64 e.p.pc + 64 * f.imm.signExtend 64).toNat else (e.uni f f.s0).toNat
    let srcs : List (Src × Env.Need) := if f.s0.isImm then [] else [(f.s0, { uniform := true })]
    let ra : RetAddr := { obj := e.l.obj, off := ((e.p.pc + 64) % 2 ^ 64 + 2 ^ 64 - e.l.desc.codebase) % 2 ^ 64 }
    let room := e.p.rstack.length < 16 ∨ (e.p.rstack.length < 1024 ∧ e.g.stack.isSome)
    let reg1 : List (Src × Env.Need) := if f.sub = 1 then [(f.s1, { vecLatch := true })] else []
    (room → (rel ∨ target % 64 = 0) → TransferRow s e e .call f srcs target (ra :: e.p.rstack) (e.p.depth + 1))
    ∧ (room → (rel ∨ target % 64 = 0) → e.forkPlace f = none → (s.siteMark e.core e.p.pc).noFork = false →
        TransferRow s e e .fcall f (srcs ++ reg1) target (ra :: e.p.rstack) (e.p.depth + 1))
    ∧ (room → (rel ∨ target % 64 = 0) → e.forkPlace f = none → (s.siteMark e.core e.p.pc).noFork = true → Ready s e .fcall f →
        e.check (srcs ++ reg1) f.dst {} = none → e.contStalls (srcs ++ reg1) [] = false → e.p.cstack.length < 16 →
        ∃ t, exec (.fcall f) s = .next t ∧ (t.siteMark e.core e.p.pc).left = (s.siteMark e.core e.p.pc).left - 1
          ∧ (t.siteMark e.core e.p.pc).rowN = (s.siteMark e.core e.p.pc).rowN)
    ∧ (∀ r rs, e.p.rstack = r :: rs → r.fork = none →
        TransferRow s e e .ret f [] ((e.l.desc.codebase + r.off) % 2 ^ 64) rs (e.p.depth - 1))

/-- A forking fcall (R150, R305 to R307): the caller's path runs the callee one level deeper with FDEPTH one higher, and a
continuation starts at the next bundle with the caller's lanes, return stack and call depth, with a copy of the caller's
pending flags as they stand after the issue, on a shadow slot that no other continuation holds, and with the predictions of
the eight return registers: fcall.reg's and fcall.imm's SRC1 for v0, the predictor's else. In the rest of a bundle during a
save the continuation is discarded at once (R172, R318). -/
def Obligations.FcallForks : Prop :=
  ∀ (s : State) (e : Env) (f : Form) (shadow pix : Nat),
    let rel := f.s0 = .immS
    let target := if rel then (BitVec.ofNat 64 e.p.pc + 64 * f.imm.signExtend 64).toNat else (e.uni f f.s0).toNat
    let srcs : List (Src × Env.Need) :=
      (if f.s0.isImm then [] else [(f.s0, ({ uniform := true } : Env.Need))]) ++ (if f.sub = 1 then [(f.s1, ({ vecLatch := true } : Env.Need))] else [])
    Ready s e .fcall f → e.check srcs f.dst {} = none → e.forkPlace f = some (shadow, pix) → e.fork = none → e.b.fin = false →
      (rel ∨ target % 64 = 0) → e.p.rstack.length < 16 →
      ((s.ctx e.ctx).pstate ≠ 0 → ∃ t g q, exec (.fcall f) s = .next t ∧ t.group? e.ref.comb e.ref.group = some g
        ∧ g.path? e.ref.path = some q ∧ q.pc = target ∧ q.depth = e.p.depth + 1 ∧ q.fdepth = 0 ∧ g.forks = [] ∧ ∀ c ∈ g.paths, c.pix ≠ pix)
      ∧ ((s.ctx e.ctx).pstate = 0 → ∃ t g q c k, exec (.fcall f) s = .next t ∧ t.group? e.ref.comb e.ref.group = some g
        ∧ g.path? e.ref.path = some q ∧ q.pc = target ∧ q.depth = e.p.depth + 1 ∧ q.fdepth = e.p.fdepth + 1
        ∧ q.pl = e.p.pl ∧ q.exm = e.p.exm
        ∧ c ∈ g.paths ∧ c.pix = pix ∧ c.kind = .cont ∧ c.pc = (e.p.pc + 64) % 2 ^ 64 ∧ c.pl = e.p.exm ∧ c.exm = e.p.exm
        ∧ c.rstack = e.p.rstack ∧ c.depth = e.p.depth ∧ c.latches = noLatches
        ∧ c.pend = (match e.setf with | some i => (i, s.clk.serial + 1) :: e.p.pend | none => e.p.pend) ∧ q.pend = c.pend
        ∧ c.inHandler = e.p.inHandler ∧ c.fdepth = e.p.fdepth ∧ c.cstack = []
        ∧ (∀ r < 8, getAt k.pred r = if r = 0 ∧ (f.sub = 1 ∨ f.sub = 2) then some (vreg fun i => (e.val f f.s1 i).setWidth 32)
            else s.predicted e.core e.p.pc r)
        ∧ k ∈ g.forks ∧ k.pix = pix ∧ k.shadow = shadow ∧ k.site = e.p.pc ∧ k.lanes = e.active f.pred ∧ k.wrote = [] ∧ k.specSB = []
        ∧ shadow ∈ e.c.shadow ∧ (∀ g' ∈ e.c.groups, ∀ k' ∈ g'.forks, k'.shadow ≠ shadow)
        ∧ t.fstat e.core = (s.countFstat e.core 3).fstat e.core)

/-- Taking a trap (R164), as the trap instruction does (R161): with TRAPVEC.EN = 1 and outside a handler, the record goes
to the path's trap slot, s63 to the record's address, EXM becomes the trap's lanes, and the path goes on at HANDLER, in
the handler and with its latches lost; no other register, no flag of f0 to f11 and no other byte of memory changes. -/
def Obligations.TrapInstructionTakesTrap : Prop :=
  ∀ (s : State) (e : Env) (f : Form) (page : Nat),
    let lanes := e.active f.pred
    let home := page * 65536 + 64 * e.p.pix
    let dwords := leBytes 8 (1 * 1024 + e.k * 256 + 0x0A) ++ leBytes 8 e.p.pc
      ++ leBytes 8 (e.p.exm.toNat * 2 ^ 32 + lanes.toNat) ++ leBytes 8 (f.imm.toNat % 65536) ++ leBytes 8 (getAt e.g.s 63).toNat
      ++ List.replicate 24 0
    Ready s e .trap f → e.fork = none → lanes ≠ 0 → e.g.trapvec.getLsbD 0 = true → e.p.inHandler = false →
      e.g.stack = some page → s.snaps = [] → s.MemOk → e.k < 4 → e.p.pix ≤ 5 →
      ∃ t g q, exec (.trap f) s = .next t ∧ t.group? e.ref.comb e.ref.group = some g ∧ g.path? e.ref.path = some q
        ∧ (∀ i < 64, (dwords[i]?).map some = some (t.mem.get (kTower (home + i))))
        ∧ (∀ k, (∀ i < 64, k ≠ kTower (home + i)) → t.mem.get k = s.mem.get k)
        ∧ g.s = setAt e.g.s 63 (BitVec.ofNat 64 (State.stackVa e.core e.g + 64 * e.p.pix))
        ∧ g.v = e.g.v ∧ g.x = e.g.x ∧ g.q = e.g.q ∧ g.nf = e.g.nf ∧ g.trapvec = e.g.trapvec ∧ g.seed = e.g.seed
        ∧ q.exm = lanes ∧ q.pl = e.p.pl ∧ q.inHandler = true ∧ q.latches = noLatches ∧ q.pend = e.p.pend
        ∧ q.pc = (e.g.trapvec.extractLsb' 6 50).toNat * 64 ∧ q.slot = 0 ∧ t.flights = s.flights

/-- trap with no active lane has no effect but to issue (R104, R161). -/
def Obligations.TrapWithoutLanes : Prop :=
  ∀ (s : State) (e : Env) (f : Form), Ready s e .trap f → e.active f.pred = 0 →
    ∃ fl, Computes e .trap f fl ∧ fl.writes = [] ∧ exec (.trap f) s = .next (e.issue fl).rested

/-- ret.tr (R164): s63 and EXM are restored, the path leaves the handler with its latches lost, and RESUME, as a load of the
path finds it in the record, says where it goes on: 0 at the trapped instruction; 1 after it; 2 after it, without the lanes
of LANES, which exit; 3 nowhere, as the launch aborts. After the last valid slot of a bundle without END comes the next
bundle, of one with END the path's end (R95); a bundle whose line is not in the instruction cache is awaited first. -/
def Obligations.TrapReturnRestores : Prop :=
  ∀ (s : State) (e : Env) (f : Form) (tr : TrapRec) (page : Nat),
    let k := kTower (page * 65536 + 64 * tr.home + 1)
    let resume := ((e.peek k 1).1.headD 0).toNat / 4 % 4
    let gone := if resume = 2 then tr.lanes else (0 : Lanes)
    let pl := e.p.pl &&& ~~~gone
    let back := fun (P : Path → Prop) => ∃ t g q, exec (.retTr f) s = .next t ∧ t.group? e.ref.comb e.ref.group = some g
      ∧ g.path? e.ref.path = some q ∧ g.s = setAt e.g.s 63 tr.s63save ∧ g.exited = (e.g.exited ||| (gone &&& e.p.pl)) ∧ g.v = e.g.v
      ∧ q.pl = pl ∧ q.exm = (tr.exmsave &&& pl) ∧ q.inHandler = false ∧ q.trap = none ∧ q.latches = noLatches ∧ q.pend = e.p.pend ∧ P q
    let after := s.bundleAt e.core (s.asid e.ctx) tr.bundle
    let onward := (resume = 1 ∨ resume = 2) ∧ pl ≠ 0
    Ready s e .retTr f → e.fork = none → e.setf = none → e.b.fin = false → e.p.inHandler = true → e.p.trap = some tr → e.g.stack = some page →
      e.active f.pred ≠ 0 → e.mayPeek (State.stackVa e.core e.g + 64 * tr.home + 1) k 1 = true → tr.arrival = false →
      (resume = 0 → back fun q => q.pc = tr.bundle ∧ q.slot = tr.slot ∧ q.arrived = true)
      ∧ (∀ b j, onward → after = some b → b.nextValid (tr.slot + 1) = some j →
          back fun q => q.pc = tr.bundle ∧ q.slot = j ∧ q.arrived = true)
      ∧ (∀ b, onward → after = some b → b.nextValid (tr.slot + 1) = none → b.fin = false →
          back fun q => q.pc = (tr.bundle + 64) % 2 ^ 64 ∧ q.slot = 0 ∧ q.arrived = false)
      ∧ (∀ b, onward → after = some b → b.nextValid (tr.slot + 1) = none → b.fin = true → e.p.cstack = [] →
          (∀ x ∈ e.g.paths, x.origin ≠ some e.p.pix) → ∃ t, exec (.retTr f) s = .next t ∧ t.path? e.ref = none)
      ∧ (onward → after = none → back fun q => q.pc = tr.bundle ∧ q.slot = tr.slot ∧ q.arrived = false ∧ q.goOn = true)
      ∧ (resume = 3 → ∃ t l, exec (.retTr f) s = .next t ∧ t.launch? e.c.launch = some l ∧ l.aborted = true)

/-- The hints ipf and dpf (R170, R225) complete without a trap of their own: they change no register, no byte of memory
and no flag, and touch only the caches, the translation caches and the touch times of managed pages. -/
def Obligations.HintsComplete : Prop :=
  ∀ (s : State) (e : Env) (f : Form) (o : Op), (o = .ipf ∨ o = .dpf) → Ready s e o f → e.fork = none →
    ∃ t s' fl, exec (Op.mk o f) s = .next t ∧ t = ({ e with s := s' }.issue fl).rested
      ∧ Computes { e with s := s' } o f fl ∧ fl.writes = []
      ∧ s'.mem = s.mem ∧ s'.combs = s.combs ∧ s'.flights = s.flights ∧ s'.launches = s.launches ∧ s'.jobs = s.jobs ∧ s'.clk = s.clk
      ∧ s'.dev = s.dev ∧ s'.coh.sb = s.coh.sb ∧ s'.coh.bank = s.coh.bank ∧ s'.coh.mq = s.coh.mq

/-- An encoding that is not an instruction (R116), or a control transfer that is not in the last valid slot (R97), takes
the illegal-instruction trap for the path's EXM, and issues nothing. With operands that are no illegal instruction as they
stand, a register number out of bounds takes trap 0x05, and else a lost latch, or a vector latch where a uniform operand is
needed, trap 0x07 (R106, R110); movx takes 0x05 too for the lowest active lane whose register is out of bounds (R182). Of
several numbers the destination's is reported first, and they are checked whether or not a lane is active: log 102, the
model's choice. -/
def Obligations.IllegalEncodingTraps : Prop :=
  ∀ (s : State) (e : Env) (o : Op) (f : Form), s.env? = some e → e.fork = none →
    let traps := fun (tr : Trap) => exec (Op.mk o f) s = .next (((s.modPath e.ref fun p => { p with slot := e.k }).takeTrap e.ref tr).rested)
    let act := e.active f.pred
    let u : Env.Need := { uniform := true }
    let d : Env.Need := { span := Ty.span f.ty, mult := Ty.span f.ty }
    let au : Env.Need := { uniform := match f.dst with | .scal _ => true | _ => false }
    let addr : List (Src × Env.Need) := (f.s0, au) :: (if f.mod then [(f.s1, au)] else [])
    (o.legal f = false ∨ (o.transfers = true ∧ e.b.lastValid e.k = false) → ∃ tr : Trap, tr.code = 0x01 ∧ tr.lanes = e.p.exm ∧ traps tr)
    ∧ (∀ srcs dn, (o, srcs, dn) ∈ ([(.sadd, [(f.s0, u), (f.s1, u)], {}), (.smov, [(f.s0, u)], {}), (.scmp, [(f.s0, u), (f.s1, u)], {}),
        (.mts, [(f.s0, u)], {}), (.mfs, [], {}), (.add, [(f.s0, d), (f.s1, d)], d), (.mad, [(f.s0, d), (f.s1, d), (f.s2, d)], d),
        (.log, [(f.s0, d), (f.s1, d)], d), (.mov, [(f.s0, d)], d), (.cmp, [(f.s0, d), (f.s1, d)], {}),
        (.movxLd, [(f.s0, {}), (f.s1, {})], {}), (.movxSt, [(f.s0, {}), (f.s1, {})], {}), (.ld, addr, d)]
          : List (Op × List (Src × Env.Need) × Env.Need)) →
      Ready s e o f → (∀ x ∈ srcs, e.srcBad x.1 x.2 = false) → (∀ r, e.dstNum f.dst = some r → r % dn.mult = 0) →
      let nums := ((e.dstNum f.dst).map fun r => (r, dn.span)).toList ++ srcs.filterMap fun x => (e.srcNum x.1).map fun r => (r, x.2.span)
      let out := nums.find? fun x => decide (e.c.regs < x.1 + x.2)
      (∀ r w, out = some (r, w) → traps { code := 0x05, lanes := e.p.exm, info := BitVec.ofNat 64 (max r e.c.regs) })
      ∧ (out = none → (∃ x ∈ srcs, ∃ k, x.1 = .latch k ∧ (e.latch k.toNat = .lost ∨ (x.2.uniform = true ∧ ∃ v, e.latch k.toNat = .vec v))) →
          traps { code := 0x07, lanes := e.p.exm, open_ := true }))
    ∧ (∀ base, (o, base) ∈ [(Op.movxLd, e.srcNum f.s0), (.movxSt, e.dstNum f.dst)] → Ready s e o f →
      e.check [(f.s0, {}), (f.s1, {})] f.dst {} = none →
      let num := fun (l : Nat) => base.getD 0 + (e.val f f.s1 l).toNat % 2 ^ 32
      ∀ l < 32, lane act l = true → e.c.regs ≤ num l → (∀ m < l, lane act m = true → num m < e.c.regs) →
        traps { code := 0x05, lanes := e.p.exm, info := BitVec.ofNat 64 (num l) })

/-- A continuation stalls at the instructions that R311 names until its fork resolves: it does not issue. Among them are mfs
of NF, the last valid slot of an END bundle, and a ret that would pop an entry at or below the fork's depth; stores to the
windows stall when their lanes have translated and are not in this statement. That ret.tr stalls too is the model's inference
(log 119, DEDUCED). -/
def Obligations.ContinuationHolds : Prop :=
  ∀ (s : State) (e : Env) (o : Op) (f : Form) (k : Fork), s.env? = some e → e.fork = some k → o.legal f = true →
    (o.transfers = true → e.b.lastValid e.k = true) →
    (o = .mfs ∧ f.s0 = .spec .nf) ∨ (e.b.fin = true ∧ e.b.lastValid e.k = true)
    ∨ (o = .ret ∧ e.p.depth ≤ k.depth ∧ e.active f.pred ≠ 0)
    ∨ o ∈ [Op.fcall, .trap, .launch, .mts, .setseed, .setseedGrp, .rcn, .atom, .cas, .ldfeTake, .ldfePeek, .stfe, .stfeForce, .barMeet,
      .barPost, .barHold, .barSet, .bind, .acq, .rel, .fenceAll, .fenceBank, .mma, .mmv, .drain, .accZero, .accFree, .accCopy, .accAdd,
      .accRdr, .accRdc, .accWrr, .epld, .bclose, .bwait, .retTr] →
    exec (Op.mk o f) s = .next ((s.modPath e.ref fun p => { p with wait := .deferred }).rested)

/-! ### Memory and synchronisation -/

/-- ld and ldsc (R218, R221, R214): when every accessing lane translates, the load issues with one access for each lane
and 8-byte piece, or for each block of a scaled line with its scale and μ, which later moves perform; it writes no
register and no memory before it completes. -/
def Obligations.LoadsIssue : Prop :=
  ∀ (s : State) (e : Env) (f : Form) (ps : List Place),
    let u : Bool := match f.dst with | .scal _ => true | _ => false
    let n := f.ty.bits / 8
    let act := e.active f.pred
    let need : Env.Need := { span := Ty.span f.ty, mult := Ty.span f.ty }
    let srcs : List (Src × Env.Need) := (f.s0, { uniform := u }) :: (if f.mod then [(f.s1, { uniform := u })] else [])
    let t := (Fmt.ofCode (f.sub.toNat % 32)).getD .e4m3
    let mx := f.sub.getLsbD 5
    let bb := 2 * t.bits
    let span := if mx then 2 else 1
    (Translates s e .ld f srcs need n u .read (fun k => k ≤ 4 || k == 7) ps →
      e.contStalls srcs (e.pseudoWrites f (Ty.span f.ty) act) = false → (e.track (ps.map fun p => p.key)).isSome →
      Issues s e .ld f fun fl => fl.writes = [] ∧ fl.stores = [] ∧ fl.sync = none
        ∧ fl.fin = .loaded f.dst ((e.dstNum f.dst).getD 0) f.ty (f.sub.getLsbD 3)
        ∧ fl.accs = (ps.map fun p => (List.range (max (n / 8) 1)).map fun i =>
            ({ lane := p.lane, va := p.va + BitVec.ofNat 64 (8 * i), tt := p.tt, key := p.key + 8 * i, size := min n 8 } : Acc)).flatten)
    ∧ (Translates s e .ldsc f [(f.s0, { uniform := true })] { span := 2, mult := 2 } 128 true .read
        (fun k => k ≤ 1 || k == 3 || k == 4 || k == 7) ps →
      e.contStalls [(f.s0, { uniform := true })] (e.pseudoWrites f 2 act) = false →
      (e.track (ps.map fun p => [p.key, p.key + 32, p.key + 64, p.key + 96]).flatten).isSome →
      Issues s e .ldsc f fun fl => fl.writes = [] ∧ fl.stores = [] ∧ fl.sync = none
        ∧ fl.fin = .scaled ((e.dstNum f.dst).getD 0) t mx
        ∧ fl.accs = (ps.map fun p => (if mx then (List.range (lineElems t / 32)).map fun j => 2 * j else List.range (lineElems t / 16)).map
            fun b => ({ lane := b, va := p.va, tt := p.tt, key := p.key + b * bb, size := bb * span
                        side := ((List.range span).map fun i => sideKey p.key (b + i)) ++ (List.range span).map fun i => sideKey p.key (16 + b + i) } : Acc)).flatten)

/-- ld.z (R227, R228): with the header in the window and every active lane's offset aligned and within the region, whose
touched tiles lie in the window and decode to 4,096 bytes, each lane's value is the bytes at its offset in its tile; with
no active lane it reads nothing. That header, entries and streams are read as the instruction issues, once the path may
read them, is the model's reading (log 23, DEDUCED). -/
def Obligations.LoadCompressedIssues : Prop :=
  ∀ (s : State) (e : Env) (f : Form) (core off : Nat) (tile : Nat → List Byte),
    let act := e.active f.pred
    let n := f.ty.bits / 8
    let h := e.uni f f.s0
    let k := kScratch core off
    let need : Env.Need := { span := Ty.span f.ty, mult := Ty.span f.ty }
    let srcs : List (Src × Env.Need) := (f.s0, { uniform := true }) :: (if f.mod then [(f.s1, {})] else [])
    let o := fun (l : Nat) => (if f.mod then ((e.val f f.s1 l).setWidth 32).signExtend 64 * BitVec.ofNat 64 n else 0) + f.disp
    let e1 : Env := { e with s := (e.peek k 8).2 }
    let read := fun (a m : Nat) => (e1.peek a m).1
    let tiles := leNat ((e.peek k 8).1.take 4)
    let data := (8 + 4 * tiles + 31) / 32 * 32
    let entry := fun (t : Nat) => leNat (read (k + 8 + 4 * t) 4)
    let at_ := fun (t : Nat) => data + entry t / 8192 * 32
    let len := fun (t : Nat) => entry t % 8192
    let ts := ((lanesOf act).map fun l => (o l).toNat / 4096).eraseDups
    let ks := (List.range (8 + 4 * tiles)).map (fun i => k + i) ++ (ts.map fun t => (List.range (len t)).map fun i => k + at_ t + i).flatten
    let e2 : Env := { e1 with s := e1.setSeen ks e1.s }
    let ws := e.pseudoWrites f (Ty.span f.ty) act
    Ready s e .ldZ f → e.check srcs f.dst need = none →
      (act = 0 → e.contStalls srcs ws = false → Issues s e .ldZ f fun fl => fl.writes = [] ∧ fl.stores = [] ∧ fl.accs = [])
      ∧ (act ≠ 0 → e.inWindowN h.toNat 8 = true → e.s.inAperture e.ctx h.toNat = some (core, off) →
        e.mayPeek h.toNat k 8 = true → e1.mayPeek h.toNat k (8 + 4 * tiles) = true →
        (∀ l ∈ lanesOf act, (o l).toNat % n = 0 ∧ (o l).toNat + n ≤ 4096 * tiles) →
        (∀ t ∈ ts, e1.inWindowN (h.toNat + at_ t) (len t) = true ∧ e1.mayPeek (h.toNat + at_ t) (k + at_ t) (len t) = true
          ∧ bdzBytes (read (k + at_ t) (len t)) = some (tile t)) →
        e2.contStalls srcs ws = false → (e2.track ks).isSome →
        Issues s e .ldZ f fun fl => fl.writes = [] ∧ fl.stores = [] ∧ fl.fin = .loaded f.dst ((e.dstNum f.dst).getD 0) f.ty (f.sub.getLsbD 3)
          ∧ fl.accs.map (fun a => (a.lane, a.val, a.size)) = (lanesOf act).map fun l =>
              (l, some (leNat (((tile ((o l).toNat / 4096)).drop ((o l).toNat % 4096)).take n)), n))

/-- st, stmc and stsc (R219, R221, R222, R214): when every lane translates to plain memory, the store issues with the
entries that will enter the store buffer: each lane's low data bytes at its address, of lanes that write one byte the
highest; stmc's for every replica; stsc's for each block with an active lane, with its scale and μ (the line's bytes
beyond its blocks are not written: the model's choice, log 104). A continuation issues one while its speculative store
buffer has room (R310). No byte of memory changes before they drain. -/
def Obligations.StoresIssue : Prop :=
  ∀ (s : State) (e : Env) (f : Form) (ps : List Place),
    let n := f.ty.bits / 8
    let act := e.active f.pred
    let plain : Env.Need := {}
    let dneed : Env.Need := { span := Ty.span f.ty, mult := Ty.span f.ty }
    let srcs := (f.s0, plain) :: (if f.mod then [(f.s1, plain)] else []) ++ [(f.s2, dneed)]
    let bytes := fun (p : Place) => e.dataBytes f f.s2 n p.lane
    let entries := fun (reps : Nat → List Nat) => (ps.map fun p => (List.range (max (n / 8) 1)).map fun i =>
      ({ lane := p.lane, va := p.va + BitVec.ofNat 64 (8 * i), tt := p.tt,
         data := cellsFrom (p.key + 8 * i) (((bytes p).drop (8 * i)).take 8), reps := reps p.tt } : SpecEntry)).flatten
    let ok := fun (o : Op) (sts : List SpecEntry) (nf : BitVec 7) => Issues s e o f fun fl =>
      fl.writes = [] ∧ fl.accs = [] ∧ fl.fin = .store ∧ fl.nf = nf ∧ fl.stores = sts.map fun x => { x with ord := fl.ord }
    let ssrcs : List (Src × Env.Need) := [(f.s0, { uniform := true }), (f.s2, { span := 2, mult := 2 })]
    let t := (Fmt.ofCode (f.sub.toNat % 32)).getD .e4m3
    let mx := f.sub.getLsbD 5
    let blocks := (if mx then (List.range (lineElems t / 32)).map fun j => 2 * j else List.range (lineElems t / 16)).filter fun b =>
      (List.range (if mx then 32 else 16)).any fun i => lane act ((16 * b + i) / laneElems t)
    let own := fun (tt : Nat) => if tt = 4 then [hiveOf e.c.core] else [0]
    let goes := fun (ss : List (Src × Env.Need)) => e.contStalls ss [] = false ∧ e.specFull = false
    (Translates s e .st f srcs {} n false .write (fun k => k ≤ 7) ps → (∀ p ∈ ps, p.tt ≠ 5 ∧ p.tt ≠ 6) → goes srcs →
        ok .st (settleLanes (entries own)) 0)
    ∧ (Translates s e .stmc f srcs {} n false .write (fun k => k == 4) ps → goes srcs →
        ok .stmc (settleLanes (entries fun _ => [0, 1, 2, 3])) 0)
    ∧ (Translates s e .stsc f ssrcs {} 128 true .write (fun k => k ≤ 1 || k == 3 || k == 4 || k == 7) ps → goes ssrcs →
        let rs := (ps.map fun p => blocks.map fun b => stscEntry e f p b).flatten
        ok .stsc (rs.map fun r => r.1) (Fl.all (rs.map fun r => r.2)).bits)

/-- A store to the job-queue window (R267, R268): with b64 and an offset of 0x00 to 0x20 it issues an entry whose bytes
are the data and whose key names the card word, and it waits for the group's entries already buffered. -/
def Obligations.CardStoresIssue : Prop :=
  ∀ (s : State) (e : Env) (f : Form) (p : Place),
    let plain : Env.Need := {}
    let srcs := (f.s0, plain) :: (if f.mod then [(f.s1, plain)] else []) ++ [(f.s2, { span := Ty.span f.ty, mult := Ty.span f.ty })]
    Translates s e .st f srcs {} 8 false .write (fun k => k ≤ 7) [p] → f.ty = .b64 → p.tt = 5 → p.va.toNat % 64 ≤ 0x20 → e.fork = none →
      Issues s e .st f fun fl => fl.writes = [] ∧ fl.fin = .store
        ∧ fl.stores = [{ ord := fl.ord, lane := p.lane, va := p.va, tt := 5
                         data := cellsFrom (key 9 (p.va.toNat % 64)) (leBytes 8 (e.val2 f f.s2 p.lane).toNat), reps := [0] }]
        ∧ fl.cmds = (s.coh.sb.filter fun x => x.comb == e.ref.comb && x.group == e.ref.group).map fun x => x.eid

/-- Parking (R165): when lanes of a path that is no continuation fault in translation at a ld, st, atom, cas, ldfe, stfe
or brx.tab and they are every enabled lane, or no place for a parked path is left, the whole path parks at the
instruction, which has not issued. Otherwise the faulting lanes leave it as a parked path at the instruction, and at a ld,
st, atom or cas the others issue it (which path keeps its index is log 40, DEDUCED, which index the parked path gets log
39). -/
def Obligations.FaultingLoadParks : Prop :=
  ∀ (s : State) (e : Env) (f : Form) (ps : List Place) (fs : List LaneFault),
    let u := f.dst.isScal
    let n := f.ty.bits / 8
    let d : Env.Need := { span := Ty.span f.ty, mult := Ty.span f.ty }
    let addr := fun (u : Bool) => (f.s0, ({ uniform := u } : Env.Need)) :: (if f.mod then [(f.s1, { uniform := u })] else [])
    let act := e.active f.pred
    let spread := fun (u : Bool) (l : List LaneFault) =>
      if u then (match l with | [] => [] | x :: _ => (lanesOf act).map fun i => { x with lane := i }) else l
    let noRoom := 4 ≤ (e.g.paths.filter fun p => p.kind == .side).length ∨ Env.freeIndex e.g = none
    let whole := fun (o : Op) (l : List LaneFault) =>
      let m := maskOf fun i => l.any fun x => x.lane == i
      l ≠ [] → (m &&& e.p.exm = e.p.exm ∨ noRoom) → ∃ t q, exec (Op.mk o f) s = .next t ∧ t.flights = s.flights ∧ t.mem = s.mem
        ∧ t.path? e.ref = some q ∧ q.wait = .parked l false false ∧ q.pc = e.p.pc ∧ q.slot = e.k ∧ q.pl = e.p.pl ∧ q.exm = e.p.exm
    let part := fun (o : Op) (l : List LaneFault) =>
      let m := maskOf fun i => l.any fun x => x.lane == i
      l ≠ [] → e.g.ended = false → m &&& e.p.exm ≠ e.p.exm → ¬ noRoom → ∀ i, Env.freeIndex e.g = some i →
        ∃ t g q fl, exec (Op.mk o f) s = .next t ∧ t.group? e.ref.comb e.ref.group = some g ∧ q ∈ g.paths ∧ q.pix = i ∧ q.kind = .side
          ∧ q.origin = some e.p.pix ∧ q.pl = m ∧ q.exm = m ∧ q.pc = e.p.pc ∧ q.slot = e.k ∧ q.wait = .parked l false true
          ∧ t.flights = s.flights ++ [fl] ∧ fl.op = o ∧ fl.form = f ∧ fl.lanes = act &&& ~~~m
    let row := fun (o : Op) (srcs : List (Src × Env.Need)) (dn : Env.Need) (u : Bool) (need : Access) (okTT : Nat → Bool) =>
      Ready s e o f → e.check srcs f.dst dn = none → e.fork = none → (∀ x ∈ e.laneAddrs f n u, e.outsideWindow x.2 = false) →
        e.resolveAll n need okTT (e.laneAddrs f n u) = (ps, fs) →
        (∀ p ∈ ps, (o = .st → p.tt ≠ 5 ∧ p.tt ≠ 6) ∧ ((o = .atom ∨ o = .cas) →
          (p.tt = 2 → o = .cas ∨ f.sub = 0 ∨ f.sub = 8) ∧ (f.scope = 6 → p.tt = 0)
          ∧ ∀ c, e.s.xlate e.ctx e.core p.va .read ≠ .fault c)) →
        whole o (spread u fs) ∧ part o (spread u fs)
    let fe := fun (o : Op) (need : Access) (srcs : List (Src × Env.Need)) =>
      Ready s e o f → e.check (addr u ++ srcs) f.dst {} = none → e.fork = none → (∀ x ∈ e.laneAddrs f 4 u, e.outsideWindow x.2 = false) →
        (e.laneAddrs f 4 u).map (fun x => feResolve e need x.1 x.2) = fs.map Sum.inr → whole o (spread u fs)
    let va := e.uni f f.s0 + 8 * e.uni f f.s1
    row .ld (addr u) d u .read (fun k => k ≤ 4 || k == 7)
    ∧ row .st (addr false ++ [(f.s2, d)]) {} false .write (fun k => k ≤ 7)
    ∧ row .atom (addr u ++ [(f.s2, d)]) d u .write (fun k => k ≤ 3 || k == 7)
    ∧ row .cas [(f.s0, { uniform := u }), (f.s1, d), (f.s2, d)] d u .write (fun k => k ≤ 3 || k == 7)
    ∧ fe .ldfeTake .read [] ∧ fe .ldfePeek .read [] ∧ fe .stfe .write [(f.s2, {})] ∧ fe .stfeForce .write [(f.s2, {})]
    ∧ (∀ x, Ready s e .brxTab f → e.check ([f.s0, f.s1].filter (fun x => !x.isImm) |>.map fun x => (x, { uniform := true })) f.dst {} = none →
        e.fork = none → act ≠ 0 → e.outsideWindow va = false →
        e.resolve 8 .read (fun k => k ≤ 4 || k == 7) ((Env.lowest act).getD 0) va = .inr x →
        whole .brxTab ((lanesOf act).map fun l => { x with lane := l }))

/-- atom and cas (R229 to R232): the instruction issues with one read-modify-write access for each accessing lane; each is
performed by a move of its own; BANK scope sends one bank command for each lane instead. -/
def Obligations.AtomicsIssue : Prop :=
  ∀ (s : State) (e : Env) (f : Form) (ps : List Place),
    let u : Bool := match f.dst with | .scal _ => true | _ => false
    let n := f.ty.bits / 8
    let d : Env.Need := { span := Ty.span f.ty, mult := Ty.span f.ty }
    let wide := fun (x : Src) (l : Nat) => if f.ty = .b64 then e.val2 f x l else ((e.val f x l).setWidth 32).setWidth 64
    let row := fun (o : Op) (srcs : List (Src × Env.Need)) (kind : AccKind) (host : Bool) (a b : Src) =>
      Translates s e o f srcs d n u .write (fun k => k ≤ 3 || k == 7) ps →
        (∀ p ∈ ps, (p.tt = 2 → host = true) ∧ (f.scope = 6 → p.tt = 0) ∧ ∀ c, e.s.xlate e.ctx e.core p.va .read ≠ .fault c) →
        e.g.ended = false → ∃ t fl, exec (Op.mk o f) s = .next t ∧ t.flights = s.flights ++ [fl] ∧ t.mem = s.mem
          ∧ RecordOf e o f fl ∧ fl.writes = [] ∧ fl.orde = f.ord ∧ fl.scope = f.scope
          ∧ fl.fin = .loaded f.dst ((e.dstNum f.dst).getD 0) f.ty false
          ∧ fl.accs = ps.map (fun p => { lane := p.lane, va := p.va, tt := p.tt, key := p.key, size := n, kind := kind
                                         a := wide a p.lane, b := wide b p.lane })
          ∧ (f.scope ≠ 6 → t.coh.bank = s.coh.bank)
          ∧ (f.scope = 6 → ∃ cs, t.coh.bank = s.coh.bank ++ cs
              ∧ cs.map (fun c => (c.atom, c.key, c.a, c.queued)) = ps.map fun p => (some (fl.fid, p.lane), p.key, wide a p.lane, false))
    row .atom ((f.s0, { uniform := u }) :: (if f.mod then [(f.s1, { uniform := u })] else []) ++ [(f.s2, d)])
      (.atom f.sub.toNat) (f.sub == 0 || f.sub == 8) f.s2 f.s2
    ∧ row .cas [(f.s0, { uniform := u }), (f.s1, d), (f.s2, d)] .cas true f.s1 f.s2

/-- ldfe and stfe (R233): in the comb's own window, with every word in the required state at once and none of them held by
an earlier ldfe or stfe, the instruction issues with its step over exactly those words; with a word in the other state
the path stalls and nothing changes. -/
def Obligations.FullEmptyIssue : Prop :=
  ∀ (s : State) (e : Env) (f : Form) (ps : List Place) (o : Op) (want : Option Bool) (load : Bool),
    let u := f.dst.isScal
    let plain : Env.Need := {}
    let need : Env.Need := { uniform := u }
    let srcs := (f.s0, need) :: (if f.mod then [(f.s1, need)] else []) ++ (if load then [] else [(f.s2, plain)])
    let words := ps.map fun p => keyAddr p.key / 4
    let free := (s.flights.any fun x => match x.sync with
      | some (.fe _ _ us _) => us.any fun w => words.contains w
      | _ => false) = false
    (o, want, load) ∈ [(Op.ldfeTake, some true, true), (.ldfePeek, some true, true), (.stfe, some false, false), (.stfeForce, none, false)] →
    Ready s e o f → e.check srcs f.dst {} = none → (∀ x ∈ e.laneAddrs f 4 u, e.outsideWindow x.2 = false) → ps ≠ [] →
    (e.laneAddrs f 4 u).map (fun x => feResolve e (if load then .read else .write) x.1 x.2) = ps.map Sum.inl →
      (free → (∀ w ∈ words, ∀ b, want = some b → s.full.contains w = b) →
        Issues s e o f fun fl => fl.writes = [] ∧ fl.scope = f.scope
          ∧ (∃ ws, fl.sync = some (.fe (o == .ldfeTake) (!load) ws f.scope) ∧ ∀ w, w ∈ ws ↔ w ∈ words)
          ∧ (load = true → fl.stores = [] ∧ fl.accs = ps.map fun p => { lane := p.lane, va := p.va, tt := p.tt, key := p.key, size := 4 })
          ∧ (load = false → fl.accs = [] ∧ fl.stores = settleLanes (ps.map fun p =>
              { lane := p.lane, va := p.va, tt := 3, data := cellsFrom p.key (leBytes 4 (e.val f f.s2 p.lane).toNat) })))
      ∧ ((∃ w ∈ words, ∃ b, want = some b ∧ s.full.contains w ≠ b) → exec (Op.mk o f) s = .next s.rested)

/-- rcn (R224): over a range that lies in replicated memory it issues with the copies it owes, from hive h's replica to
each of the other three, for every line of the range; an extent of zero owes none. -/
def Obligations.RcnIssues : Prop :=
  ∀ (s : State) (e : Env) (f : Form) (ls : List Nat),
    let base := (e.uni f f.s0).toNat
    let ext := (e.uni f f.s1).toNat
    let n := if ext = 0 ∨ e.active f.pred = 0 then 0 else (base + ext - 1) / 128 + 1 - base / 128
    let h := f.imm.toNat % 4
    Ready s e .rcn f → e.check [(f.s0, { uniform := true }), (f.s1, { uniform := true })] f.dst {} = none →
      rcnLines e (n / 512 + 2) (base / 128) n = .inl ls →
      Issues s e .rcn f fun fl => fl.writes = [] ∧ fl.accs = [] ∧ fl.stores = []
        ∧ (∀ l r, (l, r) ∈ fl.rcn ↔ l ∈ ls ∧ r < 4 ∧ r ≠ h) ∧ (ext = 0 → fl.rcn = [])

/-- The bar rows (R234 to R236): at a barrier that B names, on a path with no live side path, bar.post and bar.set issue
with the step they will perform; bar.meet after its arrival step, and bar.hold, issue when the phase they wait for has
completed. Before that a bar.meet that has arrived stalls, and a bar.hold stalls too, noted as a waiter of its barrier
(R332); at a broken barrier both trap 0x13 instead, and so does bar.post. Before its arrival step bar.meet stalls. At a pod
barrier of another home that has not told of it yet, all four ask it and stall: that, and the message that the home gets for
a stalled bar.hold, is log 70, the model's choice. With a
live side path and not released the path stalls at any of them (R166), and with no active lane they only issue. -/
def Obligations.BarrierRowsComplete : Prop :=
  ∀ (s : State) (e : Env) (f : Form) (o : Op) (r : BarRef),
    let act := e.active f.pred
    let u : Env.Need := { uniform := true }
    let b := if f.mod then (e.uni f f.s2).toNat else f.imm.toNat % 2 ^ 15
    let srcs := (if f.mod then [(f.s2, u)] else []) ++ (match o with
      | .barHold => [(f.s1, u)]
      | .barSet => [(f.s0, u)]
      | _ => (if f.sub.getLsbD 4 then [(f.s0, u)] else []) ++ (if f.sub.getLsbD 3 then [(f.s1, u)] else []))
    let count := if f.sub.getLsbD 4 then (e.uni f f.s0).setWidth 32 else BitVec.ofNat 32 (lanesOf act).length
    let bytes : W64 := if f.sub.getLsbD 3 then e.uni f f.s1 else 0
    let past := fun (p : W32) => 1 ≤ ((s.barGet e.c r).phase - p).toNat ∧ ((s.barGet e.c r).phase - p).toNat ≤ 2 ^ 31
    let ok := fun (step : SyncStep) => Issues s e o f fun fl => fl.writes = [] ∧ fl.accs = [] ∧ fl.stores = [] ∧ fl.sync = some step
    let stays := exec (Op.mk o f) s = .next (if e.isCont then (s.modPath e.ref fun p => { p with wait := .deferred }).rested else s.rested)
    let held := e.g.paths.any fun x => x.origin == some e.p.pix
    let phase : W32 := (e.uni f f.s1).setWidth 32
    (o ∈ [Op.barPost, .barSet, .barMeet, .barHold] → Ready s e o f → held = true → e.p.freedBar = false → stays)
    ∧ (o ∈ [Op.barPost, .barSet, .barMeet, .barHold] → Ready s e o f → e.check srcs f.dst {} = none →
      (held = false ∨ e.p.freedBar = true) → act = 0 → Issues s e o f fun fl => fl.writes = [] ∧ fl.accs = [] ∧ fl.stores = [] ∧ fl.sync = none)
    ∧ (Ready s e o f → e.check srcs f.dst {} = none → act ≠ 0 → s.barRef e.c b = some r →
      (held = false ∨ e.p.freedBar = true) →
      (o ∈ [Op.barPost, .barSet, .barMeet, .barHold] → s.barKnown e.c r = false → exec (Op.mk o f) s = .next (s.askPod e.c r).rested)
      ∧ (s.barKnown e.c r = true →
      (o = .barPost → (s.barGet e.c r).broken = false → ok (.post b count bytes f.dst))
      ∧ (o = .barSet → ok (.set b ((e.uni f f.s0).setWidth 32)))
      ∧ (∀ p, o = .barMeet → e.p.joined = some p → past p → ok (.hold b))
      ∧ (o = .barHold → past phase → ok (.hold b))
      ∧ (o = .barMeet → (e.p.joined = none ∨ ∃ p, e.p.joined = some p ∧ ¬ past p ∧ (s.barGet e.c r).broken = false) → stays)
      ∧ (o = .barHold → ¬ past phase → (s.barGet e.c r).broken = false → exec (.barHold f) s = .next (s.waitPod e.c r).rested)
      ∧ ((o = .barPost ∨ (∃ p, o = .barMeet ∧ e.p.joined = some p ∧ ¬ past p) ∨ (o = .barHold ∧ ¬ past phase)) →
          (s.barGet e.c r).broken = true → e.fork = none → ∃ tr : Trap, tr.code = 0x13 ∧ tr.lanes = e.p.exm ∧
            exec (Op.mk o f) s = .next (((s.modPath e.ref fun p => { p with slot := e.k }).takeTrap e.ref tr).rested))))

/-- bind, acq, rel and the fences (R240 to R244): each issues with the step it will perform; an unbound entry, an extent
of zero and no active lane make a no-op. fence.bank waits for the commands that have entered the bank queues of its
range's lines; which lines share a bank is open (log 51). -/
def Obligations.FencesComplete : Prop :=
  ∀ (s : State) (e : Env) (f : Form),
    let act := e.active f.pred
    let u : Env.Need := { uniform := true }
    let i := f.imm.toNat % 16
    let empty := (getAt e.c.binds i).extent = 0
    let ok := fun (o : Op) (step : Option SyncStep) (cmds : List Nat) => Ready s e o f →
      Issues s e o f fun fl => fl.writes = [] ∧ fl.accs = [] ∧ fl.stores = [] ∧ fl.sync = step ∧ fl.cmds = cmds ∧ fl.binds = e.c.binds
    (Ready s e .bind f → e.check [(f.s0, u), (f.s1, u), (f.s2, u)] f.dst {} = none →
      Issues s e .bind f fun fl => fl.accs = [] ∧ fl.stores = [] ∧ fl.sync = none ∧ fl.writes =
        if act = 0 then [] else [.bind i { kind := f.sub.toNat, obj := e.uni f f.s0, base := e.uni f f.s1, extent := e.uni f f.s2 }])
    ∧ ok .acq (if act = 0 ∨ empty then none else some (.acq i f.scope)) []
    ∧ ok .rel (if act = 0 ∨ empty then none else some (.rel i f.scope)) []
    ∧ ok .fenceAll (if act = 0 then none else some (.fence f.scope)) []
    ∧ (e.check [(f.s0, u), (f.s1, u)] f.dst {} = none →
        let base := e.uni f f.s0
        let ext := e.uni f f.s1
        let idle := act = 0 ∨ ext = 0
        ok .fenceBank (if idle then none else some (.fenceBank base ext))
          (if idle then [] else (s.coh.bank.filter fun c => c.queued
            && (s.footQueues e.ctx e.core [(base.toNat / 128, (base.toNat + ext.toNat - 1) / 128 + 1)]).contains (s.queueOf c.key)).map
              fun c => c.num))

/-! ### Matrix engine, batches and launch -/

/-- The gang instructions mma, mmv and drain (R249 to R251, R255, R259, R266). With a GANG value that no latch holds and
that names other members, the group claims a latch with its word and its path waits there; a later member joins it and
waits, until the last one completes the rendezvous: when its checks pass and its tile is bound the word enters the
engine's queue once, with the lowest member's operands, and every member goes on. With GANG = 0 the rendezvous is complete
at once. A member whose word or opcode differs from the latch's traps 0x08 in every member and empties the latch; an arm,
a side path or an open dual path traps 0x08; with no active lane the instruction only issues (R104). -/
def Obligations.GangRowsComplete : Prop :=
  ∀ (s : State) (e : Env) (f : Form) (o : Op) (srcs : List Src),
    let ops := srcs.map fun x => e.uni f x
    let n := s.clk.serial
    let fl := { e.flight o f with fin := .engine, ops := ops }
    let latch : GangLatch := { gang := e.g.gang, op := o, form := f, members := [(e.g.gidx, n)], since := s.clk.cycle }
    let stands := ({ s.bump with flights := s.flights ++ [fl] }.loseOthers e.core e.gslot e.ref).modPath e.ref fun p =>
        { p with lastIssue := some s.clk.cycle, unchosen := 0, boosted := false, slot := e.k, wait := .gang
                 endAfter := e.b.fin && e.b.lastValid e.k }
    let joined := stands.modComb e.c.id fun c => { c with gangs := c.gangs ++ [latch] }
    let add := fun (l : GangLatch) => { l with members := l.members ++ [(e.g.gidx, n)] }
    let joins := fun (l : GangLatch) => stands.modComb e.c.id fun c => { c with gangs := c.gangs.map fun x => if x == l then add l else x }
    let want := ((List.range 16).filter fun i => e.g.gang.getLsbD i).length
    let sorted := fun (l : GangLatch) => (List.range 16).filterMap fun i => (add l).members.find? fun m => m.1 == i
    (o, srcs) ∈ [(Op.mma, [f.s0, f.s1]), (.mmv, [f.s0, f.s1, f.s2]), (.drain, [f.s1, f.s2])] →
    Ready s e o f → e.check (srcs.map fun x => (x, { uniform := true })) f.dst {} = none →
      (e.active f.pred = 0 → ∃ x, Computes e o f x ∧ x.writes = [] ∧ exec (Op.mk o f) s = .next (e.issue x).rested)
      ∧ (e.active f.pred ≠ 0 → e.p.kind = .main → e.g.dual = none → e.g.gang ≠ 0 → (∀ l ∈ e.c.gangs, l.gang ≠ e.g.gang) →
        2 ≤ want → exec (Op.mk o f) s = .next joined.rested)
      ∧ (∀ (l : GangLatch), e.active f.pred ≠ 0 → e.p.kind = .main → e.g.dual = none → e.g.gang ≠ 0 →
        e.c.gangs.find? (fun x => x.gang == e.g.gang) = some l →
        ((l.op ≠ o ∨ l.form ≠ f) → exec (Op.mk o f) s = .next
          ((((add l).members.map fun m => (joins l).memberRef e.c.id m).foldl
            (fun (s : State) r => match s.path? r with
              | none => s
              | some p => (s.modPath r fun p => { p with wait := .run, endAfter := false }).takeTrap r
                  { code := 0x08, lanes := p.exm, info := 0, open_ := true })
            ({ joins l with flights := (joins l).flights.filter fun x => !((add l).members.map fun (m : Nat × Nat) => m.2).contains x.fid }.modComb
              e.c.id fun c => { c with gangs := c.gangs.filter fun x => x != add l })).rested))
        ∧ (l.op = o → l.form = f → l.gang = e.g.gang → (sorted l).length < want → exec (Op.mk o f) s = .next (joins l).rested)
        ∧ (∀ (m : Nat × Nat) (f0 : Flight) (keys : List (Nat × Nat)) (s2 : State) (c2 : Comb), l.op = o → l.form = f → l.gang = e.g.gang → want ≤ (sorted l).length → (sorted l).head? = some m →
            (joins l).flight? m.2 = some f0 → (joins l).comb? e.c.id = some c2 → (joins l).queueFull c2.core = false →
            (joins l).gangWaits c2 o f f0.ops ((sorted l).map fun (m : Nat × Nat) => m.2) = false → (joins l).gangCheck c2 o f f0.ops = .ok keys → (joins l).bindTiles e.c.id (State.gangTiles f) = .ok s2 →
            ∃ q, q.core = c2.core ∧ q.comb = e.c.id ∧ q.op = o ∧ q.form = f ∧ q.fids = (sorted l).map (fun (m : Nat × Nat) => m.2)
              ∧ q.ops = f0.ops ∧ q.keys = keys ∧ q.frm = f0.frm ∧ q.satf = f0.satf ∧ q.kdone = 0 ∧ q.todo = none
              ∧ ∃ s3, s3 = (s2.modComb e.c.id fun c => { c with gangs := c.gangs.filter fun x => x != add l }).enqueue q
                ∧ exec (Op.mk o f) s = .next ((sorted l).foldl
                  (fun (s : State) m => s.proceed (s.memberRef e.c.id m) m.2 (s3.asid (s3.ctxOf c2)) c2.core) s3).rested))
      ∧ (∀ keys s2 c2, e.active f.pred ≠ 0 → e.p.kind = .main → e.g.dual = none → e.g.gang = 0 → e.g.gidx < 16 → (∀ x ∈ s.flights, x.fid ≠ n) →
          joined.comb? e.c.id = some c2 → joined.queueFull c2.core = false →
          joined.gangWaits c2 o f ops [n] = false → joined.gangCheck c2 o f ops = .ok keys →
          joined.bindTiles e.c.id (State.gangTiles f) = .ok s2 →
          ∃ q, q.core = c2.core ∧ q.comb = e.c.id ∧ q.op = o ∧ q.form = f ∧ q.fids = [n] ∧ q.ops = ops ∧ q.keys = keys
            ∧ q.frm = e.g.frm ∧ q.satf = e.g.satf ∧ q.kdone = 0
            ∧ ∃ s3, s3 = (s2.modComb e.c.id fun c => { c with gangs := c.gangs.filter fun x => x != latch }).enqueue q
              ∧ exec (Op.mk o f) s = .next (s3.proceed (s3.memberRef e.c.id (e.g.gidx, n)) n (s3.asid (s3.ctxOf c2)) c2.core).rested)
      ∧ (e.active f.pred ≠ 0 → (e.p.kind ≠ .main ∨ e.g.dual.isSome) → e.fork = none → ∃ tr : Trap, tr.code = 0x08 ∧ tr.lanes = e.p.exm ∧
          exec (Op.mk o f) s = .next (((s.modPath e.ref fun p => { p with slot := e.k }).takeTrap e.ref tr).rested))

/-- The acc rows and epld (R251, R262, R263): with no active lane nothing but the issue; else, with room in the queue and
the named tiles bound, the instruction issues and enters the queue once. acc.free binds no tile. -/
def Obligations.AccRowsComplete : Prop :=
  ∀ (s : State) (e : Env) (f : Form),
    let act := e.active f.pred
    let u : Env.Need := { uniform := true }
    let d := match f.dst with | .acc n => n.toNat | _ => 0
    let a := match f.s0 with | .acc n => n.toNat | _ => 0
    let sel := e.uni f f.s1
    let num : W64 := BitVec.ofNat 64 ((e.dstNum f.dst).getD 0)
    let row := fun (o : Op) (srcs : List (Src × Env.Need)) (names : List Nat) (ops : List W64) =>
      Ready s e o f → e.check srcs f.dst {} = none →
        (act = 0 → ∃ fl, Computes e o f fl ∧ fl.writes = [] ∧ exec (Op.mk o f) s = .next (e.issue fl).rested)
        ∧ (∀ s2, act ≠ 0 → s.queueFull e.core = false → s.bindTiles e.c.id names = .ok s2 → ∃ fl q,
            exec (Op.mk o f) s = .next (({ e with s := s2 }.issue fl).enqueue q).rested
            ∧ RecordOf e o f fl ∧ fl.fin = .engine ∧ fl.writes = [] ∧ fl.accs = [] ∧ fl.ops = ops
            ∧ q.core = e.core ∧ q.comb = e.c.id ∧ q.op = o ∧ q.form = f ∧ q.fids = [fl.fid] ∧ q.ops = ops)
    row .accZero [] [d] [] ∧ row .accFree [] [] [] ∧ row .accCopy [] [d, a] [] ∧ row .accAdd [] [d, a] []
    ∧ row .accRdr [(f.s1, u)] [a] [sel, num] ∧ row .accRdc [(f.s1, u)] [a] [sel, num]
    ∧ row .accWrr [(f.s0, { vecLatch := true }), (f.s1, u)] [d] (sel :: (List.range 32).map fun l => e.val f f.s0 l)
    ∧ (∀ ps, Ready s e .epld f → e.check [(f.s0, u)] f.dst {} = none → act ≠ 0 →
        let vas := (List.range (f.imm.toNat / 64 % 64 + 1)).map fun i => (i, e.uni f f.s0 + BitVec.ofNat 64 (4 * i))
        (∀ x ∈ vas, e.outsideWindow x.2 = false) → e.resolveAll 4 .read (fun k => k ≤ 4 || k == 7) vas = (ps, []) →
        s.queueFull e.core = false → ∃ t fl q, exec (.epld f) s = .next t
          ∧ (e.g.ended = false → t.flights = s.flights ++ [fl] ∧ t.mem = s.mem ∧ t.coh.mq = s.coh.mq ++ [q])
          ∧ RecordOf e .epld f fl ∧ fl.fin = .engine
          ∧ fl.accs = ps.map (fun p => { lane := p.lane, va := p.va, tt := p.tt, key := p.key, size := 4 })
          ∧ q.core = e.core ∧ q.comb = e.c.id ∧ q.op = .epld ∧ q.form = f ∧ q.fids = [fl.fid])

/-- bclose, bwait and launch (R162, R276, R277): with an active lane each issues with the step that it will perform once
the rules let it; bwait of batch 0 gives 0 at once, and stalls while DONE has not reached its batch; launch of a record
address that is no multiple of 128 gives 0x17 and reads nothing. -/
def Obligations.BatchRowsComplete : Prop :=
  ∀ (s : State) (e : Env) (f : Form),
    let act := e.active f.pred
    let a := e.uni f f.s0
    let n := if 2 ^ 31 ≤ (e.g.closed - a.setWidth 32).toNat then e.g.closed else a.setWidth 32
    let ok := fun (o : Op) (step : Option SyncStep) (ws : List RegWrite) => Issues s e o f fun fl =>
      fl.writes = ws ∧ fl.accs = [] ∧ fl.stores = [] ∧ fl.sync = step
    let pre := fun (o : Op) => Ready s e o f ∧ e.check [(f.s0, { uniform := true })] f.dst {} = none
    (∀ o ∈ [Op.bclose, .bwait, .launch], pre o → act = 0 → ok o none [])
    ∧ (pre .bclose → act ≠ 0 → a = 0 → ok .bclose (some (.bclose 0 f.dst)) [])
    ∧ (∀ p, pre .bclose → act ≠ 0 → a ≠ 0 → e.resolve 8 .write (fun t => t != 4 && t != 5 && t != 6) 0 a = .inl p →
        ok .bclose (some (.bclose a f.dst)) [])
    ∧ (pre .bwait → act ≠ 0 → a.setWidth 32 = (0 : W32) → ok .bwait none (e.scalarWrites f 0))
    ∧ (pre .bwait → act ≠ 0 → a.setWidth 32 ≠ (0 : W32) → (e.g.done - n).toNat < 2 ^ 31 → ok .bwait (some (.bwait n)) [])
    ∧ (pre .bwait → act ≠ 0 → a.setWidth 32 ≠ (0 : W32) → 2 ^ 31 ≤ (e.g.done - n).toNat → exec (.bwait f) s = .next s.rested)
    ∧ (pre .launch → act ≠ 0 → a.toNat % 128 ≠ 0 → ok .launch none (e.scalarWrites f 0x17))
    ∧ (∀ p, pre .launch → act ≠ 0 → a.toNat % 128 = 0 → e.resolve 128 .read (fun t => t != 5 && t != 6) 0 a = .inl p →
        ok .launch (some (.launchRec a f.dst)) [])

/-! ### Issue, completion and steps -/

/-- The frame of issuing, for every instruction that issues on a group that has not ended: one record joins the flights;
no byte of memory, no cache, buffer, job, launch, page, device or context register changes; no register, flag or mode of
any group changes; and where the bundle has no END, other paths only lose latches, and the issuing path keeps its lanes,
EXM and stacks, with the flag that SETF names pending. -/
def Obligations.IssueFrame : Prop :=
  ∀ (s : State) (e : Env) (o : Op) (f : Form) (fl : Flight) (srcs : List (Src × Env.Need)) (cross : Bool),
    let t := e.issuedWith f srcs cross fl
    let regs := fun (g : Group) => ((g.s, g.x, g.q, g.v, g.logw, g.prio, g.gang, g.seed, g.nf, g.satf, g.frm, g.trapvec),
      (g.closed, g.done, g.card, g.batches, g.openJobs, g.prevWait, g.stack, g.launched))
    let bare := fun (p : Path) => { p with latches := [], epoch := 0 }
    s.env? = some e → e.g.ended = false → RecordOf e o f fl →
      t.flights = s.flights ++ [fl] ∧ t.mem = s.mem ∧ t.full = s.full ∧ t.pages = s.pages ∧ t.coh = s.coh ∧ t.jobs = s.jobs
      ∧ t.launches = s.launches ∧ t.dists = s.dists ∧ t.snaps = s.snaps ∧ t.spire = s.spire ∧ t.dev = s.dev ∧ t.ctxs = s.ctxs
      ∧ t.cores = s.cores ∧ t.clk.cycle = s.clk.cycle ∧ t.clk.serial = s.clk.serial + 1 ∧ t.clk.cur = none
      ∧ (∀ c, (t.comb? c).map (fun x => (x.binds, x.bars, x.eprog, x.tiles)) = (s.comb? c).map fun x => (x.binds, x.bars, x.eprog, x.tiles))
      ∧ (∀ c g, (t.group? c g).map regs = (s.group? c g).map regs)
      ∧ (e.b.fin = false →
          (∀ r, r ≠ e.ref → (t.path? r).map bare = (s.path? r).map bare)
          ∧ ∃ q, t.path? e.ref = some q ∧ q.exm = e.p.exm ∧ q.pl = e.p.pl ∧ q.rstack = e.p.rstack ∧ q.cstack = e.p.cstack
            ∧ q.depth = e.p.depth ∧ q.lastIssue = some s.clk.cycle ∧ q.inHandler = e.p.inHandler
            ∧ q.pend = (match e.setf with | some i => (i, s.clk.serial) :: e.p.pend | none => e.p.pend)
            ∧ (∀ j, e.b.nextValid (e.k + 1) = some j → q.pc = e.p.pc ∧ q.slot = j)
            ∧ (e.b.nextValid (e.k + 1) = none → q.pc = (e.p.pc + 64) % 2 ^ 64 ∧ q.slot = 0))

/-- INSTRUCTION_COMPLETE (R93, R107, R72, R108, R214): a completable flight that no continuation issued writes its
registers, in its lanes and nowhere else; ORs its flags into NF; fills its slot's latch; puts its stores into the store
buffer; makes its flag done in every path of its group; and is gone. Nothing else of its group changes, and memory does
not. -/
def Obligations.InstructionCompletes : Prop :=
  ∀ (s : State) (fl : Flight) (c : Comb) (g : Group),
    let res := resultOf fl
    let ws := res.1
    s.flight? fl.fid = some fl → s.completable fl = true → fl.cont = none → s.comb? fl.comb = some c → c.group? fl.group = some g →
      g.ended = false → g.paths ≠ [] →
      ∃ t d h, exec (.instructionComplete fl.fid) s = .next t ∧ t.comb? fl.comb = some d ∧ d.group? fl.group = some h
        ∧ t.flights = s.flights.filter (fun x => x.fid != fl.fid) ∧ t.mem = s.mem ∧ t.jobs = s.jobs ∧ t.launches = s.launches
        ∧ t.dev = s.dev ∧ t.ctxs = s.ctxs ∧ t.spire = s.spire ∧ t.clk.cycle = s.clk.cycle
        ∧ (∀ n, (∀ v, RegWrite.s n v ∉ ws) → getAt h.s n = getAt g.s n)
        ∧ (∀ n, (∀ v, RegWrite.x n v ∉ ws) → getAt h.x n = getAt g.x n)
        ∧ (∀ n l, l < 32 → (∀ m v, RegWrite.q n m v ∈ ws → lane m l = false) → lane (getAt h.q n) l = lane (getAt g.q n) l)
        ∧ (∀ n l, l < 32 → (∀ m v, RegWrite.v n m v ∈ ws → lane m l = false) → vlane (getAt h.v n) l = vlane (getAt g.v n) l)
        ∧ (∀ n v, ws = [.s n v] → n < g.s.length → getAt h.s n = v)
        ∧ (∀ n v, ws = [.x n v] → n < g.x.length → getAt h.x n = v)
        ∧ (∀ n m v l, ws = [.q n m v] → n < g.q.length → l < 32 → lane m l = true → lane (getAt h.q n) l = lane v l)
        ∧ (∀ n m v l, RegWrite.v n m v ∈ ws → (∀ m' v', RegWrite.v n m' v' ∈ ws → m' = m ∧ v' = v) → n < g.v.length → l < 32 →
            lane m l = true → vlane (getAt h.v n) l = vlane v l)
        ∧ (∀ n b, ws = [.bind n b] → n < c.binds.length → getAt d.binds n = b)
        ∧ ((∀ n b, RegWrite.bind n b ∉ ws) → d.binds = c.binds)
        ∧ ((∀ r v, RegWrite.sreg r v ∉ ws) → h.nf = (g.nf ||| res.2.2) ∧ h.seed = g.seed ∧ h.frm = g.frm ∧ h.satf = g.satf
            ∧ h.logw = g.logw ∧ h.prio = g.prio ∧ h.gang = g.gang ∧ h.trapvec = g.trapvec ∧ t.cores = s.cores
            ∧ h.paths.map (fun p => p.exm) = g.paths.map fun p => p.exm)
        ∧ h.closed = g.closed ∧ h.done = g.done ∧ h.card = g.card ∧ h.batches = g.batches ∧ h.stack = g.stack ∧ h.exited = g.exited
        ∧ h.paths.map (fun p => (p.pix, p.pc, p.slot, p.pl, p.rstack, p.depth, p.wait))
            = g.paths.map (fun p => (p.pix, p.pc, p.slot, p.pl, p.rstack, p.depth, p.wait))
        ∧ (∀ p ∈ h.paths, ∀ x ∈ p.pend, x.2 ≠ fl.fid)
        ∧ (∀ x p, res.2.1 = some x → g.path? fl.path = some p → p.epoch = fl.epoch → p.sid = fl.ord.sid →
            ∃ q, h.path? fl.path = some q ∧ q.latches = setAt p.latches fl.slot x)
        ∧ (fl.fin ≠ .store → t.coh = s.coh)
        ∧ (fl.fin = .store → ∃ es, t.coh.sb = s.coh.sb ++ es ∧ t.coh.bank = s.coh.bank ∧ t.coh.lines = s.coh.lines
            ∧ es.map (fun x => (x.core, x.comb, x.group, x.ord, x.va, x.tt, x.data, x.side, x.reps))
                = fl.stores.map fun x => (c.core, fl.comb, fl.group, x.ord, x.va, x.tt, x.data, x.side, x.reps))

/-- What a special register holds after an mts or setseed to it has completed (R158, R159, R25, R71 to R74, R248, R319):
EXM the value AND PL; PART, FMODE.RM and GANG a legal value or the one R159, R73 and R248 name instead; of PRIO the old value
and the cycle too, whose choices still use it (R25). -/
def Obligations.SpecialRegisterWrites : Prop :=
  ∀ (s : State) (fl : Flight) (c : Comb) (g : Group) (l : Launch) (r : SReg) (v : W64),
    let low := fun (n : Nat) => v.toNat % 2 ^ n
    s.flight? fl.fid = some fl → s.completable fl = true → fl.cont = none → s.comb? fl.comb = some c → c.group? fl.group = some g →
      s.launch? c.launch = some l → g.ended = false → g.paths ≠ [] → fl.fin = .regs → fl.writes = [.sreg r v] → fl.nf = 0 →
      ∃ t h, exec (.instructionComplete fl.fid) s = .next t ∧ t.group? fl.comb fl.group = some h
        ∧ (r = .exm → ∀ p, g.path? fl.path = some p → p.sid = fl.ord.sid →
            ∃ q, h.path? fl.path = some q ∧ q.exm = (v.setWidth 32 &&& p.pl))
        ∧ h.logw.toNat = (if r = .part then (if 1 ≤ low 3 ∧ low 3 ≤ 5 then low 3 else 5) else g.logw.toNat)
        ∧ h.prio.toNat = (if r = .prio then low 4 else g.prio.toNat)
        ∧ (r = .prio → h.prioAt = s.clk.cycle + 1 ∧ h.prioOld = if g.prioAt = s.clk.cycle + 1 then g.prioOld else g.prio)
        ∧ h.seed = (if r = .seed then v else g.seed)
        ∧ h.nf.toNat = (if r = .nf then low 7 else g.nf.toNat)
        ∧ h.frm.toNat = (if r = .fmode then (if low 3 ≤ 4 then low 3 else 0) else g.frm.toNat)
        ∧ h.satf = (if r = .fmode then v.getLsbD 3 else g.satf)
        ∧ h.trapvec = (if r = .trapvec then v &&& 0x00FFFFFFFFFFFFC1#64 else g.trapvec)
        ∧ (t.fstat c.core = if r = .fstat then v else s.fstat c.core)
        ∧ h.gang.toNat = (if r = .gang then
            (let bits := (List.range 16).filter fun i => v.getLsbD i
             if v.getLsbD g.gidx = true ∧ g.gidx < 16 ∧ (∀ i ∈ bits, i < c.g) ∧ 2 ≤ bits.length ∧ bits.length ≤ l.desc.gangw then low 16
             else 0) else g.gang.toNat)
        ∧ h.s = g.s ∧ h.v = g.v ∧ h.x = g.x ∧ h.q = g.q

/-- A step runs the decoded instruction: with a path chosen whose bundle holds an instruction in its next valid slot, step
is exec of that instruction on the state with the path taken from the choice; with nothing chosen, the next event already
decided, and then the next free event, is performed, but no move of the device's own parts in A1 and A2 (R347), except that
gates are evaluated and that a launch with work to do ends them (log 107, DEDUCED); after a free number of free events every pending move has its turn (the order of moves is the model's choice: logs 1 and 49). -/
def Obligations.StepRunsDecoded : Prop :=
  ∀ (s : State),
    let works := ∃ l ∈ s.launches, l.gated = false ∨ l.aborted = true
    let goes := fun (i : Instr) (s1 : State) =>
      (s.dev.astate = 0 ∨ inside i = false → step s = exec i s1)
      ∧ (s.dev.astate ≠ 0 → inside i = true → works → step s = exec i s1.roused)
      ∧ (s.dev.astate ≠ 0 → inside i = true → ¬ works → (∀ n, i = .gateEvaluation n → step s = exec i s1)
          ∧ ((∀ n, i ≠ .gateEvaluation n) → step s = .next s1))
    (∀ r rest e o f, s.clk.issuing = r :: rest →
      let s1 := { s with clk := { s.clk with issuing := rest, cur := some r } }
      s1.envOf r = some e → e.b.slotOp e.k = some (o, f) →
        s1.env? = some e ∧ step s = exec (Op.mk o f) s1 ∧ decodeWord (e.b.word e.k) = some (Op.mk o f))
    ∧ (∀ r rest e, s.clk.issuing = r :: rest →
      let s1 := { s with clk := { s.clk with issuing := rest, cur := some r } }
      s1.envOf r = some e → e.b.slotOp e.k = none →
        step s = .next (e.raise { code := 0x01, lanes := e.p.exm, open_ := true }).rested)
    ∧ (∀ i is, s.clk.issuing = [] → s.clk.agenda = i :: is →
        let s1 := { s with clk := { s.clk with agenda := is, cur := none } }
        goes i s1)
    ∧ (s.clk.issuing = [] → s.clk.agenda = [] → s.clk.calm ≠ 0 →
        let i := Config.freeEvent s.clk.tick
        let s1 := { s with clk := { s.clk with tick := s.clk.tick + 1, calm := s.clk.calm - 1, cur := none } }
        goes i s1)
    ∧ (s.clk.issuing = [] → s.clk.agenda = [] → s.clk.calm = 0 → step s = .next { s with clk := { s.clk with
        agenda := s.pending, calm := Config.patience s.clk.tick + 1, tick := s.clk.tick + 1, cur := none } })

/-- Words of the spec's worked encodings decode to the instructions they stand for. -/
def Obligations.WorkedEncodingsDecode : Prop :=
  decodeTableWord 96 0x0100070260000000FFFFFFFD = some (.br { pred := 1, dst := .none 2, s0 := .immS, imm := 0xFFFFFFFD })
  ∧ decodeTableWord 96 0x31025C090200400000000000
      = some (.fmul { ty := .f32, pred := 7, dst := .vec 9, s0 := .vec 16, s1 := .vec 8 })
  ∧ decodeTableWord 96 0x60015C042040000000000010
      = some (.ld { ty := .b128, pred := 7, dst := .vec 4, s0 := .scal 2, imm := 16 })

/-- Encoding and decoding agree: every legal form of every row, at every value of every field, is what the decoder reads
from its word, and the word of what the decoder reads is the word itself. -/
def Obligations.EncodeDecodeAgree : Prop :=
  (∀ (o : Op) (f : Form), o.legal f = true → decodeTableWord 96 (encodeOp o f).toNat = some (Op.mk o f))
  ∧ (∀ (w : BitVec 96) (i : Instr), decodeWord w = some i → encode i = [w] ∧ i.wellFormed = true)

/-- The memory keeps its canonical form in every step. -/
def Obligations.StepKeepsMemoryForm : Prop :=
  ∀ (s t : State), s.MemOk → step s = .next t → t.MemOk

/-- The state after reset (R349, and the reset values of R323, R324, R27, R28, R168, R353, R331): only the device page
with the values that the spec gives, no context enabled, no launch, and the boot ROM waiting for firmware. -/
def Obligations.ResetValues : Prop :=
  let d := State.reset.dev
  State.reset.MemOk ∧ d.fwstat = 0 ∧ d.poden = false ∧ d.devid = 0 ∧ d.ltol = 0 ∧ d.astate = 0 ∧ d.pwrlim = 2900 ∧ d.tmodef = 1000
  ∧ d.lcthr = 48 ∧ d.rwsplit = 0x5555 ∧ d.latecnt = 0 ∧ d.retired = List.replicate 8 0 ∧ d.rebuild = List.replicate 8 0
  ∧ d.fwaddr = 0 ∧ d.fwlen = 0 ∧ d.arpt = 0 ∧ d.astat = 0 ∧ d.measure = List.replicate 64 0
  ∧ State.reset.launches = [] ∧ State.reset.combs = [] ∧ State.reset.jobs = [] ∧ State.reset.ctxs.length = 64
  ∧ ∀ c < 64, let x := State.reset.ctx c
    x.en = false ∧ x.asid = 0 ∧ x.ptroot = 0 ∧ x.poolused = 0 ∧ x.lqprod = 0 ∧ x.lqcons = 0 ∧ x.frprod = 0 ∧ x.frcons = 0
    ∧ x.frdrop = 0 ∧ x.pstate = 0 ∧ x.lstatus = 0 ∧ x.spap = 0xFFFFFFF ∧ x.stkap = 0x3FFFFFE
/-! ### Memory moves -/

/-- The bank commands (R282, R299): the next command of its path in its bank's queue makes the dword at T what its BOP
says, changes no other byte of memory, and leaves the queue. Each bank has a queue of its own, and which bank holds a line
is open (log 51). -/
def Obligations.BankCommandsPerform : Prop :=
  ∀ (s : State) (n : Nat) (c : BankCmd),
    let o := s.natAt c.key 8
    let a := c.a.toNat
    let pair := fun (op : Nat → Nat → Nat) => op (o % 2 ^ 32) (a % 2 ^ 32) + 2 ^ 32 * op (o / 2 ^ 32 % 2 ^ 32) (a / 2 ^ 32)
    let sum := fun (x y : Nat) => (roundTo (Machine.Num.add false (decodeNum .f32 x) (decodeNum .f32 y)).1 .f32 { mode := 0 } 0).1
    let ok := fun (i : Instr) (v : Nat) => ∃ t, exec i s = .next t ∧ t.wordAt c.key = BitVec.ofNat 64 v
      ∧ (∀ k, k < c.key ∨ c.key + 8 ≤ k → t.mem.get k = s.mem.get k)
      ∧ t.coh.bank = s.coh.bank.filter (fun b => b.num != n) ∧ t.coh.sb = s.coh.sb ∧ t.coh.lines = s.coh.lines
      ∧ t.flights = s.flights ∧ t.jobs = s.jobs ∧ t.launches = s.launches ∧ t.ctxs = s.ctxs
    s.cmd? n = some c → c.queued = true → c.atom = none → s.cmdFirst c = true → s.snaps = [] → s.MemOk →
      keyRegion c.key = 0 → c.key % 8 = 0 → (∀ i < 8, s.Plain (c.key + i)) →
      (c.bop = 0 → ok (.bankFadd2 n) (pair sum))
      ∧ (c.bop = 1 → ok (.bankIadd2 n) (pair fun x y => (x + y) % 2 ^ 32))
      ∧ (c.bop = 2 → ok (.bankIadd64 n) ((o + a) % 2 ^ 64))
      ∧ (c.bop = 3 → ok (.bankFmax2 n) (pair fun x y => (fmmOp 1 .f32 x y).1))
      ∧ (c.bop = 4 → ok (.bankWrite n) a)

/-- Drain (R290, R291, R267, R282, R301): an entry that may drain writes exactly its bytes, at its place, at the replica of
the move, or, of another device's memory, into its hive's RDC, where they are dirty; a card word goes to the group's card and a window store becomes a bank command, and neither changes memory. The
entry is gone when no replica is left. -/
def Obligations.StoreBufferDrains : Prop :=
  ∀ (s : State) (e : SBEntry) (r : Nat),
    let data := e.data ++ e.side
    let sure := fun (d : Nat × Byte) => d ∈ data ∧ ∀ x ∈ data, x.1 = d.1 → x.2 = d.2
    let left := e.reps.filter fun x => x != r
    let sb := if left = [] then s.coh.sb.filter fun x => x.eid != e.eid
      else s.coh.sb.map fun x => if x.eid = e.eid then { x with reps := left } else x
    let writes := fun (at_ : Nat → Nat) => ∃ t, exec (.sbDrain e.eid r) s = .next t ∧ t.coh.sb = sb ∧ t.coh.bank = s.coh.bank
      ∧ t.flights = s.flights ∧ t.jobs = s.jobs
      ∧ (∀ d, sure d → t.mem.get (at_ d.1) = some d.2)
      ∧ (∀ k, (∀ d ∈ data, at_ d.1 ≠ k) → t.mem.get k = s.mem.get k)
      ∧ (∀ l ∈ s.coh.lines, l.cache = .l1 e.core → l.line % 128 = 0 → l.data.length = 128 → l.side.length = 32 →
          ∃ m ∈ t.coh.lines, m.cache = l.cache ∧ m.line = l.line ∧ ∀ d, sure d → lineKey (at_ d.1) = l.line → m.byte (lineIdx (at_ d.1)) = d.2)
    s.coh.sb.find? (fun x => x.eid == e.eid) = some e → r ∈ e.reps → State.isGo e = false → s.mayDrain e = true → s.snaps = [] → s.MemOk →
      (e.tt ∉ [4, 5, 6] → (∀ d ∈ data, keyRegion d.1 < 7 ∧ s.Plain d.1) → writes id)
      ∧ (e.tt ∉ [4, 5, 6] → (∀ d ∈ data, keyRegion d.1 = 7 ∨ keyRegion d.1 = 8) → (∀ d ∈ data, keyRegion (lineKey d.1) = 7) →
          (∀ l ∈ s.coh.lines, l.data.length = 128 ∧ l.side.length = 32) →
          ∃ t, exec (.sbDrain e.eid r) s = .next t ∧ t.coh.sb = sb ∧ t.mem = s.mem ∧ t.coh.bank = s.coh.bank ∧ t.flights = s.flights
            ∧ ∀ d, sure d → ∃ m, t.copy? (.rdc (hiveOf e.core)) (lineKey d.1) = some m ∧ m.byte (lineIdx d.1) = d.2
              ∧ lineIdx d.1 ∈ m.dirty)
      ∧ (e.tt = 4 → r < 4 → (∀ d ∈ data, (keyRegion d.1 = 0 ∧ keyAddr d.1 < 2 ^ 36) ∨ (keyRegion d.1 = 1 ∧ keyAddr d.1 < 2 ^ 34)) →
          (∀ d ∈ data, s.Plain (State.replicaKey r d.1)) → writes fun k => if keyRegion k = 1 then key 1 (2 * r * 2 ^ 34 + keyAddr k) else key 0 (2 * r * 2 ^ 36 + keyAddr k))
      ∧ (∀ k b rest g, e.tt = 5 → e.data = (k, b) :: rest → s.group? e.comb e.group = some g →
          ∃ t h, exec (.sbDrain e.eid r) s = .next t ∧ t.coh.sb = sb ∧ t.mem = s.mem ∧ t.group? e.comb e.group = some h
            ∧ h.card = setAt g.card (keyAddr k / 8) (some (BitVec.ofNat 64 (leNat (e.data.map fun d => d.2)))))
      ∧ (∀ k b rest, e.tt = 6 → e.data = (k, b) :: rest →
          ∃ t m, exec (.sbDrain e.eid r) s = .next t ∧ t.coh.sb = sb ∧ t.mem = s.mem ∧ t.coh.bank = s.coh.bank ++ [m]
            ∧ m.comb = e.comb ∧ m.group = e.group ∧ m.ord = e.ord ∧ m.key = k ∧ m.bop = r ∧ m.queued = false ∧ m.atom = none
            ∧ m.a = BitVec.ofNat 64 (leNat (e.data.map fun d => d.2)))

/-- rcn's line copies (R301) and Forward (R299): a copy that nothing holds back writes hive h's replica bytes of the line,
as they stand, into the other replica, and no other payload byte; Forward puts a command into its queue and changes
nothing else. -/
def Obligations.ReplicaCopiesAndForwards : Prop :=
  ∀ (s : State),
    (∀ (f : Flight) (line r : Nat),
      let h := f.form.imm.toNat % 4
      let at_ := fun (q i : Nat) => key 0 (2 * q * 2 ^ 36 + line % 2 ^ 36 + i)
      s.flight? f.fid = some f → (line, r) ∈ f.rcn → line % 128 = 0 → line < 2 ^ 36 → r < 4 → s.snaps = [] → s.MemOk →
      s.rcnWaits f line = false → (∀ i < 128, s.Plain (at_ r i)) →
        ∃ t f', exec (.rcnLineCopy f.fid line r) s = .next t
          ∧ (∀ i < 128, t.mem.get (at_ r i) = some (s.byteAt (at_ h i)))
          ∧ (∀ k, keyRegion k = 0 → (k < at_ r 0 ∨ at_ r 128 ≤ k) → t.mem.get k = s.mem.get k)
          ∧ t.flight? f.fid = some f' ∧ f'.rcn = f.rcn.filter (fun x => x != (line, r)) ∧ f'.writes = f.writes)
    ∧ (∀ (c : BankCmd), s.cmd? c.num = some c → c.queued = false →
      (s.coh.bank.any fun b => b.comb == c.comb && b.group == c.group && !b.queued && s.queueOf b.key == s.queueOf c.key && b.ord.before c.ord) = false →
        exec (.bankForward c.num) s = .next { s with coh := { s.coh with
          bank := s.coh.bank.map fun b => if b.num = c.num then { b with queued := true } else b } })

/-- Fill, Drop, Write-back and Invalidate (R290, R291): a filled copy holds the bytes that its route gives; a clean copy
goes without a trace; a dirty RDC line writes its dirty bytes to its place, with a transaction on the station of R330, and
becomes clean, and is dropped only so (that its bytes stand in the model's own region of other devices' memory at once is log 9,
the model's choice); an L1 copy that differs from its home slice goes. No fill, clean drop or invalidation changes a byte of memory. -/
def Obligations.CacheMovesComplete : Prop :=
  ∀ (s : State) (line : Nat), line % 128 = 0 →
    (∀ core, core < 256 → (keyRegion line = 0 ∨ keyRegion line = 4 ∨ keyRegion line = 7) → s.copy? (.l1 core) line = none →
        s.canRead core line = true →
      ∃ t c, exec (.cacheFill (.l1 core) line) s = .next t ∧ t.mem = s.mem ∧ t.copy? (.l1 core) line = some c ∧ c.dirty = []
        ∧ (∀ i < 128, c.byte i = s.routeByte core (line + i)) ∧ ∀ x ∈ s.coh.lines, x ∈ t.coh.lines)
    ∧ (∀ hive, hive < 4 → (keyRegion line = 4 ∨ keyRegion line = 7 ∨ (keyRegion line = 0 ∧ homeHive line ≠ hive)) →
        s.copy? (.rdc hive) line = none → s.reaches line = true →
      ∃ t c, exec (.cacheFill (.rdc hive) line) s = .next t ∧ t.mem = s.mem ∧ t.coh.lines = c :: s.coh.lines
        ∧ c.cache = .rdc hive ∧ c.line = line ∧ c.dirty = [] ∧ ∀ i < 128, c.byte i = s.byteAt (line + i))
    ∧ (∀ k, (∀ h c, k = .rdc h → s.copy? k line = some c → c.dirty = []) →
      exec (.cacheDrop k line) s = .next { s with coh := { s.coh with
        lines := s.coh.lines.filter fun c => !(c.cache == k && c.line == line && c.dirty.isEmpty) } })
    ∧ (∀ hive c, keyRegion line = 7 → s.copy? (.rdc hive) line = some c → c.dirty ≠ [] → (∀ i ∈ c.dirty, i < 160) → s.dev.poden = true →
        s.snaps = [] → s.MemOk →
      ∃ t tx, exec (.rdcWriteBack hive line) s = .next t
        ∧ (∀ i ∈ c.dirty, i < 128 → t.mem.get (line + i) = some (c.byte i))
        ∧ (∀ i < 128, i ∉ c.dirty → t.mem.get (line + i) = s.mem.get (line + i))
        ∧ (∀ k, keyRegion k ≠ 7 → keyRegion k ≠ 8 → t.mem.get k = s.mem.get k)
        ∧ (∀ x ∈ t.coh.lines, x.cache = .rdc hive → x.line = line → x.dirty = [])
        ∧ t.spire.remoteOut = tx :: s.spire.remoteOut ∧ tx.kind = .writeBack ∧ tx.va = keyAddr line % 2 ^ 56
        ∧ tx.src = s.dev.devid.toNat ∧ tx.station = (keyAddr line / 2 ^ 72 + keyAddr line / 128 % 16) % 18
        ∧ tx.cuts = s.spire.contributed ∧ tx.side = c.dirty.map (fun i => (i, c.byte i))
        ∧ (s.dev.lcthr = 64 → tx.bytes = c.data ∧ tx.coded = false)
        ∧ exec (.cacheDrop (.rdc hive) line) s = .next { t with coh := { t.coh with
            lines := t.coh.lines.filter fun c => !(c.cache == .rdc hive && c.line == line) } })
    ∧ (∀ core c, s.copy? (.l1 core) line = some c → keyRegion line = 0 → homeHive line = hiveOf core →
        (c.data ≠ s.bytesAt line 128 ∨ c.side ≠ s.sideAt line) →
      exec (.l1Invalidate core line) s = .next { s with coh := { s.coh with
        lines := s.coh.lines.filter fun c => !(c.cache == .l1 core && c.line == line && c.dirty.isEmpty) } })

/-- Read (R291): a load lane's next access, with nothing before it that it must wait for, returns for each byte the newest
older buffered store of its group, else what its route gives; it changes no byte of memory and no register. With hint nc
(R220) copies older than the launch are dropped before the read, and each byte may be the one that stands at the place: both are
log 18, the model's reading. -/
def Obligations.LoadReadReturns : Prop :=
  ∀ (s : State) (f : Flight) (a : Acc) (c : Comb),
    let older := (s.olderEntries f.comb f.group f.ord).filter fun e => e.tt != 5 && e.tt != 6
    let nc := f.op = .ld ∧ f.form.sub.toNat % 8 = 1
    let s1 := if nc then s.freshen c.core (lineKey a.key) c.launch else s
    let byte := fun (i : Nat) => (State.newest (a.key + i) older).getD (s1.routeByte c.core (a.key + i))
    let ks := (List.range a.size).map fun i => a.key + i
    s.flight? f.fid = some f → f.accs.find? (fun x => x.lane == a.lane && x.val.isNone) = some a → a.kind = .load → a.side = [] →
      f.cont = none → f.sync = none → s.comb? f.comb = some c → a.key % 128 + a.size ≤ 128 →
      s.heldBack f.comb f.group f.ord a.va.toNat a.size = false → Env.storeAhead s f.comb f.group f.ord ks = false →
      s.accessAhead f.comb f.group f.ord a.key a.size (State.betweenHives (hiveOf c.core) a.key) false = false → s.canRead c.core a.key = true →
        ∃ t f' bs, exec (.loadRead f.fid a.lane) s = .next t ∧ t.mem = s1.mem ∧ t.combs = s1.combs ∧ t.jobs = s.jobs ∧ t.coh.sb = s.coh.sb
          ∧ (¬ nc → s1 = s ∧ bs = (List.range a.size).map byte)
          ∧ bs.length = a.size ∧ (∀ i < a.size, getAt bs i = byte i ∨ (nc ∧ getAt bs i = s1.byteAt (a.key + i)))
          ∧ t.flight? f.fid = some f' ∧ f'.writes = f.writes
          ∧ f'.accs = f.accs.map fun x => if x = a then { x with val := some (leNat bs) } else x

/-- Atomic (R229 to R232, R245, R290, R291, R294 to R297): an atomic lane, with nothing before it that it must wait for, reads
the old value and leaves the new one in one move; cas leaves the location alone when it differs from the comparand. At COMB and
CLUSTER scope it reads its tower line through the hive's route; at BANK scope it is performed when its command is the next of
its queue, which it leaves; one that releases waits for what its release orders, and one that acquires drops the copies of its
region. No other byte of memory changes; with ORD the state has no dirty RDC line here, whose write-back would. -/
def Obligations.AtomicPerforms : Prop :=
  ∀ (s : State) (f : Flight) (a : Acc) (c : Comb),
    let w := 8 * a.size
    let region := State.lockRegion f a
    let near := f.scope ≤ 1 ∧ a.tt = 0
    let old := if near then leNat ((List.range a.size).map fun i => s.hiveByte (hiveOf c.core) (a.key + i)) else s.natAt a.key a.size
    let arg := a.a.toNat % 2 ^ w
    let ks := (List.range a.size).map fun i => a.key + i
    let int := fun (n : Nat) => (BitVec.ofNat w n).toInt
    let sum := (roundTo (Machine.Num.add false (decodeNum .f32 old) (decodeNum .f32 arg)).1 .f32 { mode := 0 } 0).1
    let new := match a.kind with
      | .atom op => some (match op with
        | 0 => (old + arg) % 2 ^ w
        | 1 => if int old ≤ int arg then old else arg
        | 2 => if int old ≤ int arg then arg else old
        | 3 => min old arg | 4 => max old arg | 5 => old &&& arg | 6 => old ||| arg | 7 => old ^^^ arg | 8 => arg | _ => sum)
      | .cas => if old = arg then some (a.b.toNat % 2 ^ w) else none
      | .load => none
    s.flight? f.fid = some f → f.accs.find? (fun x => x.lane == a.lane && x.val.isNone && x.kind != .load) = some a → a.side = [] →
      (a.size = 4 ∨ a.size = 8) → keyRegion a.key < 7 → s.comb? f.comb = some c →
      (f.scope = 6 → ∃ b, s.atomCmd f.fid a.lane = some b ∧ b.queued = true ∧ s.cmdFirst b = true) →
      (f.orde ≠ 0 → s.syncAhead f = false ∧ ∀ y ∈ s.coh.lines, y.dirty = []) →
      (f.orde = 2 ∨ f.orde = 3 → new ≠ none → s.mayRelease f.comb f.group f.fid f.ord false region = true) →
      s.heldBack f.comb f.group f.ord a.va.toNat a.size = false →
      ((s.olderEntries f.comb f.group f.ord).any fun e => e.tt != 5 && e.tt != 6 && (e.data ++ e.side).any fun d => ks.contains d.1) = false →
      Env.storeAhead s f.comb f.group f.ord ks = false → s.accessAhead f.comb f.group f.ord a.key a.size false = false →
      s.reaches a.key = true → (∀ i < a.size, s.Plain (a.key + i)) → s.snaps = [] → s.MemOk →
        ∃ t f', exec (.atomicPerform f.fid a.lane) s = .next t
          ∧ (∀ v, new = some v → ∀ i < a.size, t.mem.get (a.key + i) = (leBytes a.size v)[i]?)
          ∧ (∀ k, (new = none ∨ k < a.key ∨ a.key + a.size ≤ k) → t.mem.get k = s.mem.get k)
          ∧ (f.orde = 1 ∨ f.orde = 3 → ∀ y ∈ t.coh.lines, y.cache = .l1 c.core ∨ (2 ≤ scopeOf f.scope ∧ y.cache = .rdc (hiveOf c.core)) →
              t.lineIn (s.ctxOf c) c.core y.line region = false)
          ∧ (∀ b, f.scope = 6 → s.atomCmd f.fid a.lane = some b → t.coh.bank = s.coh.bank.filter fun x => x.num != b.num)
          ∧ t.flight? f.fid = some f' ∧ f'.writes = f.writes
          ∧ f'.accs = f.accs.map fun x => if x = a then { x with val := some old } else x

/-- Release moves (R294 to R297, R235, R236, R233, R241 to R244, R276, R277, R162): with what must come before it
performed, a step is performed once. bar.post adds its bytes and its count to a comb barrier, tests it and returns the
phase it joined; bar.set sets EXPECT, clears BROKEN and tests; acq and a bar.hold that is over drop the copies of their
region, fence.all every copy and fence.bank those of its range, of the core's L1 and at HIVE and wider of its hive's RDC;
rel at POD or SYSTEM writes the region's dirty RDC lines back and else changes no copy; ldfe and stfe read or write their
words and set their full/empty bits in one step; bclose closes the open jobs into batch CLOSED + 1 and writes the batch's
record; bwait counts the failures since the previous bwait; launch acquires its record's line, reads the record and returns
the STATUS, 0x18 when the record can no longer be read (DEDUCED, log 63). That an arrival at a barrier broken since the issue
counts is the model's inference (DEDUCED, log 72). -/
def Obligations.ReleaseMovesPerform : Prop :=
  ∀ (s : State) (f : Flight) (c : Comb) (g : Group) (l : Launch),
    let test := fun (b : Barrier) => if b.expect ≤ b.arrived ∧ b.pending = 0 then { b with arrived := b.arrived - b.expect, phase := b.phase + 1 } else b
    let ok := fun (P : State → Flight → Prop) => ∃ t f', exec (.release f.fid) s = .next t ∧ t.flight? f.fid = some f' ∧ f'.sync = none
      ∧ f'.stores = [] ∧ P t f'
    let scalar := fun (v : W64) => match f.form.dst with | .scal n => if f.form.nwb then [] else [RegWrite.s n.toNat v] | _ => []
    s.flight? f.fid = some f → s.comb? f.comb = some c → c.group? f.group = some g → s.launch? c.launch = some l →
      let h := hiveOf c.core
      let x := s.ctxOf c
      let clean := ∀ x ∈ s.coh.lines, x.dirty = []
      let drops := fun (scope : Nat) (p : Nat → Bool) => clean → ok fun t f' => t.mem = s.mem ∧ f'.writes = f.writes
        ∧ ∀ y, y ∈ t.coh.lines ↔ y ∈ s.coh.lines ∧ ¬ ((y.cache = .l1 c.core ∨ (2 ≤ scope ∧ y.cache = .rdc h)) ∧ p y.line = true)
      let may := fun (all : Bool) (r : List (Nat × Nat)) => s.mayRelease f.comb f.group f.fid f.ord all r = true
      let entry := fun (i : Nat) => (State.linesOf (getAt f.binds i).base (getAt f.binds i).extent).toList
      let inR := fun (r : List (Nat × Nat)) (k : Nat) => s.lineIn x c.core k r
      let recLine := fun (a : W64) => (State.linesOf a 128).toList
      (∀ i scope, f.sync = some (.acq i scope) → s.syncAhead f = false → drops scope (inR (entry i)))
      ∧ (∀ n r, f.sync = some (.hold n) → s.syncAhead f = false → s.barRef c n = some r →
          drops (State.barScope r) (inR (State.boundRegion f.binds 0 (BitVec.ofNat 64 n))))
      ∧ (∀ scope, f.sync = some (.fence scope) → may true [] → (∀ y ∈ s.olderFlights f.comb f.group f.ord, y.rcn = [] ∧ y.fin ≠ .engine) →
          drops scope fun _ => true)
      ∧ (∀ base extent, f.sync = some (.fenceBank base extent) → s.fenceWaits f = false → drops 3 (inR (State.linesOf base extent).toList))
      ∧ (∀ i scope, f.sync = some (.rel i scope) → may false (entry i) →
          (scope < 4 → ok fun t f' => t.mem = s.mem ∧ t.coh = s.coh ∧ f'.writes = f.writes)
          ∧ (4 ≤ scope → s.stuck h (fun k => inR (entry i) k) = false → ok fun t f' => f'.writes = f.writes
              ∧ (∀ k y, t.copy? (.rdc h) k = some y → inR (entry i) k = true → y.dirty = [])
              ∧ ((∀ y ∈ s.coh.lines, y.cache = .rdc h → inR (entry i) y.line = false) → t.mem = s.mem ∧ t.coh.lines = s.coh.lines)))
      ∧ (∀ a dst bs s1 code s2, f.sync = some (.launchRec a dst) → may true [] → s.stuck h (fun k => inR (recLine a) k) = false →
          (s.acquireFor c f 3 (recLine a)).devRead x a.toNat 128 = .ok (bs, s1) →
          s1.deviceLaunch x a (dwordsOf bs 16) = some (code, s2) →
          let r := (default : Env).outS f.form f.lanes (BitVec.ofNat 64 code)
          exec (.release f.fid) s = .next (s2.modFlight f.fid fun f0 => { s2.later f0 with
            sync := none, stores := [], writes := f0.writes ++ r.1, latch := (match r.2 with | some y => some y | none => f0.latch) }))
      ∧ (∀ a dst e va, f.sync = some (.launchRec a dst) → may true [] → (∀ y ∈ s.coh.lines, y.dirty = []) →
          (s.acquireFor c f 3 (recLine a)).devRead x a.toNat 128 = .error (e, va) → e ≠ 0 →
          ok fun t f' => t.mem = s.mem ∧ f'.writes = f.writes ++ ((default : Env).outS f.form f.lanes 0x18).1)
      ∧ (∀ a dst tt k, a ≠ 0 → f.sync = some (.bclose a dst) → State.goAhead s f = false → s.xlate x 0 a .write = .ok tt k →
          tt ≠ 4 → tt ≠ 5 → tt ≠ 6 → keyRegion k < 7 → s.dev.lost = [] → s.devWaits x = false → s.snaps = [] → s.MemOk →
          (∀ j ∈ g.openJobs, j.status = none) → a.toNat % 65536 + 8 + 8 * g.openJobs.length ≤ 65536 → a.toNat < 2 ^ 56 →
          (∀ i < 8 + 8 * g.openJobs.length, s.Plain (k + i)) → g.batches = [] → g.done = g.closed → g.openJobs ≠ [] →
        ok fun t f' => f'.writes = f.writes ++ ((default : Env).outS f.form f.lanes ((g.closed + 1).setWidth 64)).1
          ∧ (∀ i < 8, t.mem.get (k + i) = (leBytes 8 ((g.closed + 1).toNat * 2 ^ 32 + g.openJobs.length % 65536 * 65536))[i]?)
          ∧ (∀ i < 8 * g.openJobs.length, t.mem.get (k + 8 + i) = some 0)
          ∧ ∀ q, (q < k ∨ k + 8 + 8 * g.openJobs.length ≤ q) → t.mem.get q = s.mem.get q)
      ∧ (∀ n count bytes dst, n < 16 → f.sync = some (.post n count bytes dst) → f.form.dst.isPred = false → (∀ k, f.form.dst ≠ .idx k) →
          s.mayRelease f.comb f.group f.fid f.ord false (State.boundRegion f.binds 0 (BitVec.ofNat 64 n)) = true →
        ok fun t f' => t.mem = s.mem ∧ f'.writes = f.writes ++ scalar ((getAt c.bars n).phase.setWidth 64) ∧ ∃ d, t.comb? f.comb = some d
          ∧ d.bars = setAt c.bars n (test { (getAt c.bars n) with
              pending := (getAt c.bars n).pending + bytes, arrived := (getAt c.bars n).arrived + count }))
      ∧ (∀ n expect, n < 16 → f.sync = some (.set n expect) → s.syncAhead f = false →
        ok fun t f' => t.mem = s.mem ∧ f'.writes = f.writes ∧ ∃ d, t.comb? f.comb = some d
          ∧ d.bars = setAt c.bars n (test { (getAt c.bars n) with expect := expect, broken := false }))
      ∧ (∀ take set ws scope, f.sync = some (.fe take set ws scope) → scope < 4 → s.snaps = [] → s.MemOk →
          (∀ b ∈ f.binds, b.kind ≠ 1) → (∀ x ∈ f.stores, ∀ d ∈ x.data, keyRegion d.1 = 2) →
          (∀ x ∈ f.stores, ∀ y ∈ f.stores, ∀ d ∈ x.data, ∀ b ∈ y.data, d.1 = b.1 → d = b) →
          s.mayRelease f.comb f.group f.fid f.ord false (f.accs.map (fun a => (a.va.toNat / 128, a.va.toNat / 128 + 1))
            ++ f.stores.map fun x => (x.va.toNat / 128, x.va.toNat / 128 + 1)) = true →
        ok fun t f' => f'.accs = f.accs.map (fun a => { a with val := some (s.natAt a.key a.size) })
          ∧ (∀ x ∈ f.stores, ∀ d ∈ x.data, t.mem.get d.1 = some d.2)
          ∧ (∀ k, (∀ x ∈ f.stores, ∀ d ∈ x.data, d.1 ≠ k) → t.mem.get k = s.mem.get k)
          ∧ ∀ w, w ∈ t.full ↔ (if w ∈ ws then (if set then True else if take then False else w ∈ s.full) else w ∈ s.full))
      ∧ (∀ dst, f.sync = some (.bclose 0 dst) → State.goAhead s f = false → g.openJobs ≠ [] → (∀ j ∈ g.openJobs, j.status = none) →
          (∀ b ∈ g.batches, b.num ≠ g.done + 1) → g.done = g.closed →
        ok fun t f' => t.mem = s.mem ∧ f'.writes = f.writes ++ ((default : Env).outS f.form f.lanes ((g.closed + 1).setWidth 64)).1
          ∧ ∃ h, t.group? f.comb f.group = some h ∧ h.closed = g.closed + 1 ∧ h.done = g.done ∧ h.openJobs = []
            ∧ h.batches = g.batches ++ [{ num := g.closed + 1, record := 0, jobs := g.openJobs }])
      ∧ (∀ n, f.sync = some (.bwait n) → s.syncAhead f = false → (n - g.prevWait).toNat < 2 ^ 31 → (∀ x ∈ s.coh.lines, ∀ h, x.cache = .rdc h → x.dirty = []) →
        ok fun t f' => t.mem = s.mem
          ∧ f'.writes = f.writes ++ ((default : Env).outS f.form f.lanes (BitVec.ofNat 64
              (((g.batches.filter fun b => 1 ≤ (b.num - g.prevWait).toNat ∧ (b.num - g.prevWait).toNat ≤ (n - g.prevWait).toNat).map fun b =>
                (b.jobs.filter fun j => match j.status with | some w => decide (0x10 ≤ w.toNat % 256) | none => false).length).sum))).1
          ∧ ∃ h, t.group? f.comb f.group = some h ∧ h.prevWait = n ∧ h.closed = g.closed ∧ h.done = g.done)

/-- bar.meet's arrival step (R215, R236): when bar.meet is the path's next instruction and may arrive, the arrival is
counted at the comb barrier and tested, the joined phase stays with the path, and nothing issues. -/
def Obligations.MeetArrives : Prop :=
  ∀ (s : State) (r : PathRef) (e e1 : Env) (f : Form) (n : Nat),
    let u : Env.Need := { uniform := true }
    let act := e.active f.pred
    let srcs := (if f.sub.getLsbD 4 then [(f.s0, u)] else []) ++ (if f.sub.getLsbD 3 then [(f.s1, u)] else [])
    let count := if f.sub.getLsbD 4 then (e.uni f f.s0).setWidth 32 else BitVec.ofNat 32 (lanesOf act).length
    let bytes : W64 := if f.sub.getLsbD 3 then e.uni f f.s1 else 0
    let b := getAt e.c.bars n
    let b1 := { b with pending := b.pending + bytes, arrived := b.arrived + count }
    s.envOf r = some e → s.nextCycle.runnable r = some e1 → e1.timely = true → (s.ctx e.ctx).pstate = 0 →
      e.b.slotOp e.k = some (.barMeet, f) → f.mod = false → f.imm.toNat = n → n < 16 →
      e.fork = none → act ≠ 0 → e.p.joined = none → (e.g.paths.any (fun x => x.origin == some e.p.pix) = false ∨ e.p.freedBar = true) →
      e.check srcs f.dst {} = none → b.broken = false →
      s.mayRelease e.ref.comb e.ref.group 0 e.order false (State.boundRegion e.c.binds 0 (BitVec.ofNat 64 n)) = true →
        ∃ t d q, exec (.barMeetArrival r) s = .next t ∧ t.mem = s.mem ∧ t.flights = s.flights ∧ t.comb? r.comb = some d
          ∧ d.bars = setAt e.c.bars n (if b1.expect ≤ b1.arrived ∧ b1.pending = 0
              then { b1 with arrived := b1.arrived - b1.expect, phase := b1.phase + 1 } else b1)
          ∧ t.path? r = some q ∧ q.joined = some b.phase ∧ q.pc = e.p.pc ∧ q.slot = e.p.slot ∧ q.pend = e.p.pend
/-! ### Launches, paths and forks -/

/-- The launch queue, gates and the ends of launches (R28, R30, R31, R33, R167): a write of LQPROD that the ring can hold is
only stored, one beyond it stops the queue with a record of code 0x20; validation gives the STATUS of the first failing
check of R30; the next record is read, validated and answered with its STATUS, and LQCONS moves on; an unreadable one keeps
LQCONS and is recorded as 0x23; gates are met when every counter holds its value, which makes the launch dispatchable, and
a failing read of one discards it with 0x19; a finished launch gets STATUS 2 and raises its counter, an aborted one STATUS 3 and its combs are gone. -/
def Obligations.LaunchQueueEvents : Prop :=
  ∀ (s : State) (c : Nat), c < 64 → s.ctxs.length = 64 →
    let x := s.ctx c
    let ring := fun (y : Ctx) => 2 ^ y.lqlog.toNat
    let beyond := fun (y : Ctx) => ring y < (y.lqprod - y.lqcons).toNat
    let logOk := 4 ≤ x.lqlog.toNat ∧ x.lqlog.toNat ≤ 16
    (∀ v, s.dev.fwstat = 2 → s.dev.astate.toNat < 3 → logOk → x.lqstop = .run →
      let y := { x with lqprod := v.setWidth 32 }
      let t := { s with dev := { s.dev with astate := 0 } }.modCtx c fun _ => y
      (¬ beyond y → exec (.lqprodWrite c v) s = .next t)
      ∧ (beyond y → exec (.lqprodWrite c v) s = .next ((t.modCtx c fun y => { y with lqstop := .overflow false false }).hostRecord c { code := 0x20 })))
    ∧ (∀ ra lid dev d,
      let w := fun (i : Nat) => getAt d i
      let V := s.validate c ra lid dev d
      let fine := w 0 < 2 ^ 56 ∧ w 1 < 2 ^ 57 ∧ w 2 < 2 ^ 46 ∧ w 3 < 2 ^ 56 ∧ (∀ i ∈ [4, 5, 6, 7], w i / 2 ^ 12 % 16 = 0) ∧ w 8 < 2 ^ 13
        ∧ w 9 < 2 ^ 8 ∧ (∀ i ∈ [10, 11, 12, 13, 14, 15], w i = 0) ∧ w 2 / 2 ^ 43 % 8 ≤ 4
      let axis := fun (o n : Nat) => n ∈ [1, 2, 4, 8, 12, 16] ∧ o + n ≤ 16 ∧ (n ≤ 2 → o % n = 0) ∧ (2 < n → o % 4 = 0)
      (¬ fine → V = some (.inl 0x13, s))
      ∧ (fine → (∀ o ∈ x.objs, o.unloaded = true ∨ w 0 ∉ o.kernels) → V = some (.inl 0x12, s))
      ∧ (∀ o, fine → x.objs.find? (fun o => !o.unloaded && o.kernels.contains (w 0)) = some o →
        (∀ e va, s.devRead c (w 0) 128 = .error (e, va) → V = if e = 0 then none else some (.inl 0x18, s))
        ∧ (∀ kb s1, s.devRead c (w 0) 128 = .ok (kb, s1) →
          let k := descOf (dwordsOf kb 16)
          (∀ e va, k.nbind ≠ 0 → s1.devRead c k.bindtab (32 * k.nbind) = .error (e, va) → V = if e = 0 then none else some (.inl 0x18, s1))
          ∧ (∀ bb s2, ((k.nbind = 0 ∧ bb = [] ∧ s2 = s1) ∨ (k.nbind ≠ 0 ∧ s1.devRead c k.bindtab (32 * k.nbind) = .ok (bb, s2))) →
            let l := launchOf c ra lid dev d k ((entries bb 32 k.nbind).map bindOf) o.obj
            let rect := axis l.x0 l.w ∧ axis l.y0 l.h
            let size := l.shadow ≤ 16 ∧ l.scratch ≤ 192 * 4096 ∧ l.g + l.shadow ≤ 64 ∧ l.g * l.regs ≤ 4096
            let gang := l.desc.gangw ≤ l.g ∧ (0 < l.shadow → l.desc.forken = true)
            (¬ rect → V = some (.inl 0x10, s2)) ∧ (rect → ¬ size → V = some (.inl 0x11, s2))
            ∧ (rect → size → 32 * l.g < l.lanes → V = some (.inl 0x14, s2))
            ∧ (rect → size → l.lanes ≤ 32 * l.g → ¬ gang → V = some (.inl 0x15, s2))
            ∧ (rect → size → l.lanes ≤ 32 * l.g → gang → V = some (.inr l, s2))))))
    ∧ (x.en = true → x.reviving = false → x.pstate = 0 → logOk → x.lqstop = .run → ¬ beyond x → x.lqprod ≠ x.lqcons →
      let va := x.lqbase.toNat % 2 ^ 56 / 128 * 128 + 128 * (x.lqcons.toNat % ring x)
      let lid : W64 := x.lqcons.setWidth 64
      let ra : W64 := BitVec.ofNat 64 va
      let next := fun (s1 : State) => s1.modCtx c fun y => { y with lqcons := y.lqcons + 1 }
      (∀ bs s1 l s2, s.devRead c va 128 = .ok (bs, s1) → (next s1).validate c ra lid false (dwordsOf bs 16) = some (.inr l, s2) →
        exec (.launchRecordRead c) s = .next ((s2.accept l).writeStatus l 1) ∧ l.recAddr = ra ∧ l.lid = lid ∧ l.ctx = c
          ∧ (s2.accept l).launches = s2.launches ++ [{ l with num := s2.clk.serial, began := s2.clk.serial }])
      ∧ (∀ bs s1 st s2, s.devRead c va 128 = .ok (bs, s1) → (next s1).validate c ra lid false (dwordsOf bs 16) = some (.inl st, s2) →
        exec (.launchRecordRead c) s = .next (s2.writeStatus (State.recordStub c ra lid) st))
      ∧ (∀ bs s1, s.devRead c va 128 = .ok (bs, s1) → (next s1).validate c ra lid false (dwordsOf bs 16) = none →
        exec (.launchRecordRead c) s = .next s)
      ∧ (∀ e at_, s.devRead c va 128 = .error (e, at_) → exec (.launchRecordRead c) s = .next (if e = 0 then s else
          (s.modCtx c fun y => { y with lqstop := .unreadable }).hostRecord c { code := 0x23, info := ra, launch := lid })))
    ∧ (s.gatesMet c [] = some (true, s))
    ∧ (∀ i v r,
      let va := x.ccbase.toNat % 2 ^ 56 / 2 ^ 15 * 2 ^ 15 + 8 * i
      (∀ bs s1 m s2, s.devRead c va 8 = .ok (bs, s1) → s1.gatesMet c r = some (m, s2) →
        s.gatesMet c ((i, v) :: r) = some (m && decide (v.toNat ≤ leNat bs), s2))
      ∧ (∀ at_ m s2, s.devRead c va 8 = .error (0, at_) → s.gatesMet c r = some (m, s2) → s.gatesMet c ((i, v) :: r) = some (false, s2))
      ∧ (∀ e at_, s.devRead c va 8 = .error (e, at_) → e ≠ 0 → s.gatesMet c ((i, v) :: r) = none))
    ∧ (∀ l, s.launch? l.num = some l → l.gated = true → l.aborted = false →
      let s0 := s.modLaunch l.num fun y => { y with looked := s.clk.cycle }
      (∀ s1, s0.gatesMet l.ctx l.gates = some (false, s1) → exec (.gateEvaluation l.num) s = .next s1)
      ∧ (∀ s1, s0.gatesMet l.ctx l.gates = some (true, s1) →
          exec (.gateEvaluation l.num) s = .next ((s1.awake.dropCounters l).modLaunch l.num fun y => { y with gated := false, began := s1.clk.serial }))
      ∧ (s0.gatesMet l.ctx l.gates = none → exec (.gateEvaluation l.num) s = .next
          (({ s0.awake with launches := s0.launches.filter fun y => y.num != l.num }.writeStatus l 0x19).sweepObjs l.ctx)))
    ∧ (∀ l, s.launch? l.num = some l → l.aborted = false → l.started.length = l.gx * l.gy * l.gz → l.ended = l.gx * l.gy * l.gz →
      (∀ j ∈ s.jobs, j.launch ≠ l.num) → (∀ e ∈ s.coh.sb, e.launch ≠ l.num) → (∀ b ∈ s.coh.bank, b.launch ≠ l.num) →
      (∀ y ∈ s.coh.lines, ∀ h, y.cache = .rdc h → y.dirty = []) →
      let s1 := { s with launches := s.launches.filter fun y => y.num != l.num }.writeStatus l 2
      exec (.launchComplete l.num) s = .next ((if l.doneEn then s1.bumpCounter l l.didx else s1).sweepObjs l.ctx))
    ∧ (∀ l, s.launch? l.num = some l → l.aborted = true → (∀ f ∈ s.flights, ∀ d ∈ s.combs, d.launch = l.num → f.comb ≠ d.id) →
      (∀ j ∈ s.jobs, j.launch ≠ l.num) → (∀ e ∈ s.coh.sb, e.launch = l.num → State.isGo e = false) →
      ∃ s1 : State, exec (.abortComplete l.num) s = .next (((s1.writeStatus l 3).sweepObjs l.ctx).freeCtx l.ctx)
        ∧ s1.launches = s.launches.filter (fun y => y.num != l.num) ∧ ∀ d ∈ s1.combs, d ∈ s.combs ∧ d.launch ≠ l.num)

/-- Dispatch, comb start and stealing (R18 to R20, R34, R38 to R40): the comb that a distributor's choice names starts on
its core with its groups, lanes, registers, barriers and window as R13 to R20 say; a dry distributor asks the one with
the most queued combs, gets a comb that leaves the victim's queue or is silent for 512 cycles, and places a stolen comb
off-home, counting it. -/
def Obligations.DispatchAndSteal : Prop :=
  ∀ (s : State) (h : Nat), h < 4 → s.dists.length = 4 →
    let d := s.dist h
    let others := [0, 1, 2, 3].filter fun v => v != h
    let started := fun (l : Launch) (i k : Nat) (off : Bool) (t : State) => ∃ c, t.combs = s.combs ++ [c] ∧ c.launch = l.num ∧ c.core = k ∧ c.offh = off
      ∧ c.cx = i % l.gx ∧ c.cy = i / l.gx % l.gy ∧ c.cz = i / (l.gx * l.gy) ∧ c.regs = l.regs ∧ c.scratch = l.scratch ∧ c.lanes = l.lanes
      ∧ c.slots.length = l.g + l.shadow ∧ (∀ y ∈ c.slots, y ∈ s.freeSlots k) ∧ c.shadow.length = l.shadow
      ∧ s.runFree k c.spOff l.scratch = true
      ∧ c.bars = List.replicate 16 { expect := BitVec.ofNat 32 l.lanes } ∧ c.eprog = List.replicate 64 0 ∧ c.tiles = []
      ∧ (∀ j g, c.group? j = some g → j < l.g ∧ 32 * j < l.lanes ∧ (∀ i < 32, lane g.launched i = decide (32 * j + i < l.lanes))
          ∧ g.s = List.replicate 64 0 ∧ g.x = List.replicate 4 0 ∧ g.q = List.replicate 8 0 ∧ g.logw = 5 ∧ g.nf = 0 ∧ g.seed = 0
          ∧ g.gang = 0 ∧ g.prio = l.desc.prio ∧ g.closed = 0 ∧ g.done = 0
          ∧ ∃ p, g.paths = [p] ∧ p.pc = l.desc.entry ∧ p.pl = g.launched ∧ p.exm = g.launched ∧ p.arrived = false ∧ p.depth = 0
            ∧ p.rstack = [] ∧ p.pend = [])
      ∧ (∀ j, j < l.g → 32 * j < l.lanes → (c.group? j).isSome)
      ∧ (∀ w, k * 2 ^ 18 + c.spOff / 4 ≤ w → w < k * 2 ^ 18 + (c.spOff + l.scratch) / 4 → w ∉ t.full)
    (∀ l i k, let hs := s.headsAt h
      (hs.filter fun x => x.1.pclass == State.topClass hs).findSome? (fun x => (s.bestCore x.1 (s.candidates x.1 x.2).2).map fun k => (x, k))
        = some ((l, i), k) → s.launch? l.num = some l →
        ∃ t m, exec (.distributorDispatch h) s = .next t ∧ started l i k false t ∧ t.launch? l.num = some m ∧ i ∈ m.started
          ∧ t.dev.astate = 0)
    ∧ (∀ v, d.victim = none → d.silent = none → s.headsAt h = [] → (∃ c < 256, hiveOf c = h ∧ s.freeSlots c ≠ []) → v ∈ others →
        s.queuedAt v ≠ 0 → (∀ w ∈ others, s.queuedAt w ≤ s.queuedAt v ∧ (s.queuedAt w = s.queuedAt v → v ≤ w)) →
        exec (.stealRequest h) s = .next (s.modDist h fun d => { d with victim := some v }))
    ∧ (∀ v, d.victim = some v → d.answer = none →
        let fit := (s.headsAt v).filter fun x => (State.rectCores x.1).any fun c => hiveOf c == h && s.fitsLaunch x.1 c
        (fit = [] → exec (.stealAnswer h) s = .next (s.modDist h fun d => { d with victim := none, silent := some (s.clk.cycle + 512) }))
        ∧ (∀ l i, fit.find? (fun x => x.1.pclass == State.topClass fit) = some (l, i) → exec (.stealAnswer h) s = .next
            ((s.modLaunch l.num fun l => { l with started := l.started ++ [i] }).modDist h fun d => { d with answer := some (some (l.num, i)) })))
    ∧ (∀ l i k, d.answer = some (some (l.num, i)) → s.launch? l.num = some l → l.aborted = false → (s.ctx l.ctx).pstate = 0 →
        s.bestCore l ((State.rectCores l).filter fun c => hiveOf c == h) = some k → s.dev.offhome.length = 4 →
        ∃ t, exec (.stolenCombPlace h) s = .next t ∧ started l i k true t ∧ t.dist h = {}
          ∧ getAt t.dev.offhome h = getAt s.dev.offhome h + 1)
    ∧ (∀ n, d.silent = some n → n ≤ s.clk.cycle → exec (.stealSilenceExpiry h) s = .next (s.modDist h fun d => { d with silent := none }))

/-- The schedule of paths (R42 to R44, R95, R98, R153, R154, R157, R166, R169): a cycle's choice is in each issue slot of
each core an eligible path of least rank (of arms born in one cycle the taken one: log 110), and changes nothing but what a
stall notes; a path unchosen for 1,024 cycles is boosted; a path arrives at a bundle of its code, or traps 0x04 outside
it; at a JOIN bundle of its top part the pending part runs, and the held part merges; an arm there waits for the other
one, merges with it, or, where that one has waited longer at another JOIN bundle, releases it (log 36, DEDUCED); at an END bundle with no valid slot the running part ends and the part below it runs;
a waiting arm is released when the other waits at a bar; a side path merges into the origin that waits where it stands; a
requested line arrives in the instruction cache. -/
def Obligations.PathEventsComplete : Prop :=
  ∀ (s : State) (r : PathRef),
    (s.clk.issuing = [] → (∀ f ∈ s.flights, s.ripe f = false) → s.owesBoost = false → s.overdue = [] →
      let n := (s.combs.map fun c => c.core).eraseDups.foldl State.noteStalls s.nextCycle
      ∃ t, exec .issueChoice s = .next t ∧ t.clk.cycle = n.clk.cycle ∧ t.mem = n.mem ∧ t.flights = n.flights ∧ t.launches = n.launches
        ∧ ((∀ c ∈ s.combs, ∀ q ∈ s.pathsOn c.core, (s.nextCycle.look q).1 = s.nextCycle) → n = s.nextCycle)
        ∧ ∀ q, q ∈ t.clk.issuing ↔ ∃ c ∈ s.combs, ∃ k < 4, ∃ e, chooseSlot (s.nextCycle.eligibleOn c.core) k = some e ∧ e.ref = q
          ∧ e ∈ s.nextCycle.eligibleOn c.core ∧ e.gslot % 4 = k
          ∧ ∀ x ∈ s.nextCycle.eligibleOn c.core, x.gslot % 4 = k → givesWay ((s.nextCycle.eligibleOn c.core).filter fun y => y.gslot % 4 == k) x = false →
              rankLt x.rank e.rank = false)
    ∧ (∀ p, s.path? r = some p → 1024 ≤ p.unchosen →
      ∃ t q, exec (.pathBoost r) s = .next t ∧ t.mem = s.mem ∧ t.path? r = some q ∧ q = { p with boosted := true })
    ∧ (∀ c l g p b, s.comb? r.comb = some c → s.launch? c.launch = some l → c.group? r.group = some g → g.path? r.path = some p →
      p.wait = .run → p.arrived = false → p.goOn = false → l.aborted = false → (s.ctx l.ctx).pstate = 0 → s.bundleAt c.core (s.asid l.ctx) p.pc = some b →
        (l.desc.codebase ≤ p.pc → p.pc < l.desc.codebase + l.desc.codelen → b.join = false → b.fin = false → p.kind = .main →
          (∀ k, b.nextValid 0 = some k → ∃ t q, exec (.bundleArrival r) s = .next t ∧ t.mem = s.mem ∧ t.flights = s.flights
            ∧ t.path? r = some q ∧ q.arrived = true ∧ q.slot = k ∧ q.pc = p.pc ∧ q.exm = p.exm ∧ q.pl = p.pl ∧ q.pend = p.pend)
          ∧ (b.nextValid 0 = none → b.clean = true → ∃ t q, exec (.bundleArrival r) s = .next t ∧ t.mem = s.mem ∧ t.path? r = some q
            ∧ q.arrived = false ∧ q.pc = (p.pc + 64) % 2 ^ 64 ∧ q.exm = p.exm))
        ∧ (∀ e rest, l.desc.codebase ≤ p.pc → p.pc < l.desc.codebase + l.desc.codelen → b.join = true → p.kind = .main →
          g.hasSide p = false → p.cstack = e :: rest → e.jid = b.joinId → e.depth = p.depth →
          (e.held = false → ∃ t q w, exec (.bundleArrival r) s = .next t ∧ t.mem = s.mem ∧ t.path? r = some q ∧ q.pc = e.pc ∧ q.slot = 0
            ∧ q.arrived = false ∧ q.pl = e.pl ∧ q.exm = e.exm ∧ q.pend = e.pend ∧ q.rstack = e.rstack ∧ q.latches = noLatches
            ∧ q.cstack = w :: rest ∧ w.pc = p.pc ∧ w.pl = p.pl ∧ w.exm = p.exm ∧ w.pend = p.pend ∧ w.rstack = p.rstack ∧ w.depth = p.depth
            ∧ w.jid = e.jid ∧ w.held = true)
          ∧ (e.held = true → e.pc = p.pc → ∃ t q, exec (.bundleArrival r) s = .next t ∧ t.mem = s.mem ∧ t.path? r = some q ∧ q.pc = p.pc
            ∧ q.pl = (p.pl ||| e.pl) ∧ q.exm = (p.exm ||| e.exm) ∧ (∀ y, y ∈ q.pend ↔ y ∈ p.pend ∨ y ∈ e.pend) ∧ q.cstack = rest
            ∧ q.rstack = p.rstack ∧ q.depth = p.depth ∧ q.latches = noLatches))
        ∧ (∀ d q, l.desc.codebase ≤ p.pc → p.pc < l.desc.codebase + l.desc.codelen → b.join = true → p.kind = .arm →
          g.hasSide p = false → p.cstack = [] → g.dual = some (b.joinId, d) → p.depth = d → g.otherArm p = some q →
          let stands := q.wait = .point ∧ q.cstack = [] ∧ q.depth = d
          (stands → q.pc = p.pc → ∃ t h m, exec (.bundleArrival r) s = .next t ∧ t.mem = s.mem ∧ t.group? r.comb r.group = some h
            ∧ h.dual = none ∧ h.path? (min p.pix q.pix) = some m ∧ h.path? (max p.pix q.pix) = none ∧ m.kind = .main ∧ m.pc = p.pc
            ∧ m.pl = (if q.pix < p.pix then q.pl ||| p.pl else p.pl ||| q.pl) ∧ m.wait = .run
            ∧ (∀ y, y ∈ m.pend ↔ y ∈ p.pend ∨ y ∈ q.pend) ∧ m.latches = noLatches)
          ∧ (¬ stands → p.freedArm = false → (∀ k, q.wait ≠ .returned k) →
              exec (.bundleArrival r) s = .next (s.modPath r fun p => { p with wait := .point }))
          ∧ (stands → q.pc ≠ p.pc → p.freedArm = false → ∃ t q', exec (.bundleArrival r) s = .next t ∧ t.mem = s.mem
            ∧ t.path? { r with path := q.pix } = some q' ∧ q'.wait = .run ∧ q'.pc = q.pc))
        ∧ (l.desc.codebase ≤ p.pc → p.pc < l.desc.codebase + l.desc.codelen → b.join = false → b.fin = true → p.kind = .main →
          g.hasSide p = false →
          (∀ k, b.nextValid 0 = some k → ∃ t q, exec (.bundleArrival r) s = .next t ∧ t.mem = s.mem ∧ t.path? r = some q ∧ q.arrived = true
            ∧ q.slot = k ∧ q.pc = p.pc ∧ q.exm = p.exm)
          ∧ (b.nextValid 0 = none → b.clean = true → exec (.bundleArrival r) s = .next (s.endPath r)
            ∧ (∀ e rest, p.cstack = e :: rest → e.returned = none → g.ended = false → ∃ t h q, exec (.bundleArrival r) s = .next t
              ∧ t.group? r.comb r.group = some h ∧ h.exited = (g.exited ||| p.pl) ∧ h.path? r.path = some q ∧ q.pc = e.pc ∧ q.pl = e.pl
              ∧ q.exm = e.exm ∧ q.pend = e.pend ∧ q.rstack = e.rstack ∧ q.cstack = rest ∧ q.arrived = false)))
        ∧ (p.kind = .main → (p.pc < l.desc.codebase ∨ l.desc.codebase + l.desc.codelen ≤ p.pc) →
            exec (.bundleArrival r) s = .next (s.takeTrap r { code := 0x04, lanes := p.exm, open_ := true, arrival := true })))
    ∧ (∀ g p q e o f, s.group? r.comb r.group = some g → g.path? r.path = some p → p.kind = .arm → p.wait = .point →
      g.paths.find? (fun x => x.kind == .arm && x.pix != p.pix) = some q → s.envOf { r with path := q.pix } = some e → e.p.arrived = true →
      e.p.wait = .run → e.b.slotOp e.k = some (o, f) → o ∈ [Op.barPost, .barHold, .ldfeTake, .ldfePeek, .stfe, .stfeForce, .bwait] →
      s.stallsAt e o f = true →
        ∃ t p', exec (.armRelease r) s = .next t ∧ t.mem = s.mem ∧ t.path? r = some p' ∧ p'.wait = .run ∧ p'.pc = p.pc ∧ p'.exm = p.exm
          ∧ p'.pl = p.pl)
    ∧ (∀ g p o, s.group? r.comb r.group = some g → g.path? r.path = some p → p.kind = .side → p.origin = some o.pix → g.path? o.pix = some o →
      o.pix ≠ p.pix → o.wait = .point → p.wait = .run → p.arrived = false → p.pc = o.pc → p.depth = o.depth → p.rstack = o.rstack →
      p.inHandler = o.inHandler → p.cstack = [] → o.endAfter = false →
        ∃ t h q, exec (.sidePathMerge r) s = .next t ∧ t.mem = s.mem ∧ t.group? r.comb r.group = some h ∧ h.path? p.pix = none
          ∧ h.path? o.pix = some q ∧ q.pl = (o.pl ||| p.pl) ∧ q.exm = (o.exm ||| p.exm) ∧ q.wait = .run ∧ q.pc = o.pc
          ∧ (∀ x, x ∈ q.pend ↔ x ∈ o.pend ∨ x ∈ p.pend) ∧ q.latches = noLatches ∧ h.s = g.s ∧ h.v = g.v)
    ∧ (∀ core asid line c tt k, (core, asid, line) ∈ s.coh.ireq → (∀ x ∈ s.coh.il, ¬ (x.core = core ∧ x.asid = asid ∧ x.line = line)) →
      s.ctxOfAsid asid = some c → s.xlate c core (BitVec.ofNat 64 (line * 256)) .exec = .ok tt k →
        ∃ t l, exec (.icacheLineFill core asid line) s = .next t ∧ t.mem = s.mem ∧ t.combs = s.combs
          ∧ t.coh.il.head? = some l ∧ l.core = core ∧ l.asid = asid ∧ l.line = line ∧ l.data = s.bytesAt k 256
          ∧ (core, asid, line) ∉ t.coh.ireq)

/-- Fork resolution (R313 to R315, R317, R319): with every lane returned in an enabled lane that predicted right, the
continuation becomes the main path, its register writes and its stores stand, and FULL counts; where some lanes only did,
those do, the mismatched lanes go on after the call as a side path of it, and REPLAY counts; a squashed continuation
leaves no trace in a register or the store buffer, the returned paths go on together, and SQUASH counts. A site's mark
ends after its 4,096 fcalls. (Paths of the callee with lanes outside the fork only are log 111.) -/
def Obligations.ForksResolve : Prop :=
  ∀ (s : State) (cb : Comb) (g : Group) (k : Fork) (cont : Path) (l : Launch),
    let half := cb.regs / 2
    let rets := g.paths.filter fun p => p.wait == .returned k.num
    let pl := rets.foldl (fun m p => m ||| p.pl) 0
    let exm := rets.foldl (fun m p => m ||| p.exm) 0
    let right := fun (i : Nat) => ∀ r < 8, lane (getAt k.reads r) i = true →
      ∃ v, getAt k.pred r = some v ∧ vlane v i = vlane (getAt g.v (half + r)) i
    let run := exec (.forkResolution cb.id g.gidx k.num) s
    (s.comb? cb.id = some cb → cb.group? g.gidx = some g → g.fork? k.num = some k → g.path? k.pix = some cont →
      s.launch? cb.launch = some l → l.aborted = false → s.resolvable cb.id g k = true →
      (∀ p ∈ g.paths, State.stray k p = false) →
        (k.squash = false → k.lanes ≠ 0 → k.lanes &&& ~~~(pl &&& exm) = 0 →
          cont.pl &&& k.lanes ≠ 0 → (∀ i < 32, right i) →
          ∃ t h q, run = .next t ∧ t.mem = s.mem ∧ t.group? cb.id g.gidx = some h ∧ h.dual = none ∧ (∀ f ∈ h.forks, f.num ≠ k.num)
            ∧ h.paths.head? = some q ∧ q.kind = .main ∧ q.pc = cont.pc ∧ q.slot = cont.slot
            ∧ q.pl = ((cont.pl &&& k.lanes) ||| (pl &&& ~~~k.lanes)) ∧ q.exm = (cont.exm &&& k.lanes) ∧ q.rstack = cont.rstack
            ∧ (∀ o, k.wrote = [o] → o.file = 0 → o.num < g.v.length → o.lane < 32 → lane k.lanes o.lane = true →
                vlane (getAt h.v o.num) o.lane = o.val.setWidth 32)
            ∧ (∀ n i, i < 32 → (∀ o ∈ k.wrote, ¬ (o.file = 0 ∧ o.num = n ∧ o.lane = i)) → vlane (getAt h.v n) i = vlane (getAt g.v n) i)
            ∧ (∃ es, t.coh.sb = s.coh.sb ++ es ∧ es.map (fun e => (e.comb, e.group, e.va, e.data))
                = (State.inOrder (k.specSB.filter fun e => lane k.lanes e.lane)).map fun e => (cb.id, g.gidx, e.va, e.data))
            ∧ t.fstat cb.core = (s.countFstat cb.core 2).fstat cb.core)
        ∧ (∀ m p0, k.squash = false → k.crossL = false → k.scalarW = false → (g.paths.filter fun p => p.kind == .side).length < 4 →
          (∀ i < 32, lane m i = true ↔ lane (k.lanes &&& pl &&& exm) i = true ∧ right i) → m ≠ 0 → k.lanes &&& pl &&& ~~~m ≠ 0 →
          cont.pl &&& m ≠ 0 → (∀ i < 32, lane k.lanes i = false → right i) → rets.head? = some p0 →
          ∃ t h q y, run = .next t ∧ t.mem = s.mem ∧ t.group? cb.id g.gidx = some h ∧ h.dual = none ∧ (∀ f ∈ h.forks, f.num ≠ k.num)
            ∧ h.paths.take 2 = [q, y] ∧ q.kind = .main ∧ q.pc = cont.pc ∧ q.slot = cont.slot ∧ q.exm = (cont.exm &&& m)
            ∧ q.pl = ((cont.pl &&& m) ||| (pl &&& ~~~k.lanes))
            ∧ y.kind = .side ∧ y.origin = some q.pix ∧ y.wait = .run ∧ y.pl = (k.lanes &&& pl &&& ~~~m) ∧ y.exm = (exm &&& (k.lanes &&& pl &&& ~~~m))
            ∧ y.pc = p0.pc ∧ y.fdepth = cont.fdepth
            ∧ (∀ n i, i < 32 → (lane m i = false ∨ ∀ o ∈ k.wrote, ¬ (o.file = 0 ∧ o.num = n ∧ o.lane = i)) →
                vlane (getAt h.v n) i = vlane (getAt g.v n) i)
            ∧ (∃ es, t.coh.sb = s.coh.sb ++ es ∧ es.map (fun e => (e.comb, e.group, e.va, e.data))
                = (State.inOrder (k.specSB.filter fun e => lane m e.lane)).map fun e => (cb.id, g.gidx, e.va, e.data))
            ∧ t.fstat cb.core = (s.countFstat cb.core 0).fstat cb.core)
        ∧ (k.squash = true → ∀ p, rets = [p] → p.pl ≠ 0 → g.ended = false →
          ∃ t h q, run = .next t ∧ t.mem = s.mem ∧ t.coh = s.coh ∧ t.group? cb.id g.gidx = some h ∧ h.v = g.v ∧ h.s = g.s ∧ h.x = g.x
            ∧ h.q = g.q ∧ h.nf = g.nf ∧ (∀ f ∈ h.forks, f.num ≠ k.num) ∧ h.paths.head? = some q ∧ q.kind = .main ∧ q.wait = .run
            ∧ q.pl = p.pl ∧ q.exm = p.exm ∧ q.pc = p.pc ∧ q.fdepth = p.fdepth - 1
            ∧ t.fstat cb.core = (s.countFstat cb.core 1).fstat cb.core))
    ∧ (∀ core site, 3 ≤ (s.siteMark core site).rowN → (s.siteMark core site).left = 0 →
        ∃ t, exec (.noforkClear core site) s = .next t ∧ (t.siteMark core site).rowN = 0 ∧ (t.siteMark core site).noFork = false)
/-! ### The pager, the loader and pre-emption -/

/-- The pager (R165, R166, R326): a path whose pages are all there now runs on and replays, and nothing else changes; a
fatal fault is recorded for the host, breaks the comb's barriers and is trapped, on arrival with code 0x03 for a fetch; a
managed page that a path waits for is made present by a first touch: its entry gets P and ADDR and keeps every other bit, its
hint among them (log 58, DEDUCED), the page reads as zeros,
POOLUSED counts it, and no other byte of memory changes. -/
def Obligations.PagerEvents : Prop :=
  ∀ (s : State),
    (∀ r c p fs fetch side, s.comb? r.comb = some c → s.path? r = some p → p.wait = .parked fs fetch side →
      (∀ f ∈ fs, f.code = none ∧ ∃ tt k, s.xlate (s.ctxOf c) c.core f.va f.need = .ok tt k) →
        ∃ t q, exec (.pageResolved r) s = .next t ∧ t.path? r = some q ∧ q.wait = .run ∧ q.arrived = (p.arrived || !fetch) ∧ q.pc = p.pc
          ∧ q.slot = p.slot ∧ q.pl = p.pl ∧ q.exm = p.exm ∧ q.latches = noLatches ∧ t.mem = s.mem ∧ t.flights = s.flights
          ∧ t.ctxs = s.ctxs ∧ ∀ r', r' ≠ r → t.path? r' = s.path? r')
    ∧ (∀ r c g p f fetch side code l, s.comb? r.comb = some c → s.group? r.comb r.group = some g → s.path? r = some p →
      s.launch? c.launch = some l → l.aborted = false → p.wait = .parked [f] fetch side → f.code = some code →
        let n := if fetch then 0x03 else code
        let lanes := if fetch then p.exm else maskOf fun i => i == f.lane
        exec (.pageFaultFatal r) s = .next ((((s.hostRecord l.ctx (s.recOf c g n lanes p.pc p.slot f.va)).breakFor c).modPath r
          fun q => { q with wait := .run }).takeTrap r { code := n, lanes := lanes, info := f.va, arrival := fetch && !p.arrived, recorded := true }))
    ∧ (∀ x page va e at_ p s1, s.MemOk → s.snaps = [] → x < s.ctxs.length → (s.wanted x).head? = some va → va / 65536 = page →
      s.walkCtx x va = .leaf e false at_ → leafPresent e = false → leafManaged e = true → leafTT e = 0 → leafAddr e = 0 →
      (s.ctx x).poolused.toNat < (s.ctx x).poolmax.toNat →
      s.takeRun (s.emptier (s.pageHive x page e (s.wantHive x va))) 1 = some (p, s1) → p < 2 ^ 23 → s.devWaits x = false →
      (∀ j < 8, s.Plain (kTower (at_ + j))) →
        ∃ t, exec (.managedPageResolve x page) s = .next t
          ∧ t.wordAt (kTower at_) = ((e &&& 0xFF0000000000FFFB#64) ||| BitVec.ofNat 64 (p * 65536) ||| 4#64)
          ∧ (∀ i < 65536, (∀ j < 8, p * 65536 + i ≠ at_ + j) → t.byteAt (kTower (p * 65536 + i)) = 0)
          ∧ (∀ k, (∀ i < 65536, k ≠ kTower (p * 65536 + i)) → (∀ i < 16384, k ≠ key 1 (p * 16384 + i)) →
              (∀ j < 8, k ≠ kTower (at_ + j)) → t.mem.get k = s.mem.get k)
          ∧ (t.ctx x).poolused = (s.ctx x).poolused + 1
          ∧ (t.ctx x).held = { page := page, tower := p, used := s.clk.cycle } :: (s.ctx x).held
          ∧ p ∈ t.pages ∧ t.jobs = s.jobs ∧ t.launches = s.launches ∧ t.flights = s.flights)

/-- The loader (R134, R135, R137): OP 1 copies the loader registers and STATUS is 1 until the load ends; it ends with what
the checks and the mapping give, with 0x39 in a disabled context (log 68, DEDUCED), for a file beyond the address space and for
a page of it that cannot be read, with 0x30 for a file shorter than its header or without the magic; it waits while the pager
has to make room, or while a former life of the context is not freed (logs 66 and 67, DEDUCED); OP 2 unloads a live handle with STATUS 4, and gives 0x38
for any other. -/
def Obligations.LoaderEvents : Prop :=
  ∀ (s : State) (c : Nat),
    let x := s.ctx c
    let done := fun (st : Nat) (t : State) => t.modCtx c fun x => { x with lstatus := BitVec.ofNat 8 st, loading := none }
    (∀ v : W64, s.Exposes c → v.toNat % 4 = 1 →
      (x.lstatus = 1 → exec (.loaderLoad c v) s = .next s.roused)
      ∧ (x.lstatus ≠ 1 → exec (.loaderLoad c v) s = .next (s.roused.modCtx c fun x => { x with
          lstatus := 1
          loading := some { addr := x.objaddr, len := x.objlen, base := x.imgbase, sigreq := x.sigreq, polkey := x.polkey } })))
    ∧ (∀ cmd, x.loading = some cmd →
      let a := cmd.addr.toNat % 2 ^ 56
      let n := cmd.len.toNat
      let l : LoadCtx := { c := c, cmd := cmd }
      let pages := (testPages l (a / 65536 * 65536) (if n = 0 then 0 else (a + n - 1) / 65536 + 1 - a / 65536) s : Except Nat Unit × State)
      let ends := fun (st : Nat) (t : State) => exec (.loadFinish c) s = .next (done st t)
      (x.en = false → ends 0x39 s)
      ∧ (x.en = true → x.reviving = true → exec (.loadFinish c) s = .next s)
      ∧ (x.en = true → x.reviving = false →
        (2 ^ 56 < a + n → ends 0x39 s)
        ∧ (∀ e t, a + n ≤ 2 ^ 56 → pages = (.error e, t) → e ≠ 0 → ends e t)
        ∧ (∀ t, a + n ≤ 2 ^ 56 → pages = (.ok (), t) →
          (n < 256 → ends 0x30 t)
          ∧ (∀ h t1, 256 ≤ n → t.devRead c a 256 = .ok (h, t1) → fieldAt h 0 4 ≠ 0x464F4E4C → ends 0x30 t1))
        ∧ (∀ st t, (runLoad l s : Except Nat Nat × State) = (.ok st, t) → ends st t)
        ∧ (∀ st t, (runLoad l s : Except Nat Nat × State) = (.error st, t) →
            (st ≠ 0 → ends st t) ∧ (st = 0 → exec (.loadFinish c) s = .next t))))
    ∧ (∀ v : W64, s.Exposes c → v.toNat % 4 = 2 → x.lstatus ≠ 1 →
      let h : W32 := v.extractLsb' 32 32
      ((∃ o ∈ x.objs, o.handle = h ∧ o.unloaded = false) → exec (.loaderUnload c v) s = .next ((s.roused.modCtx c fun x => { x with
          lstatus := 4, objs := x.objs.map fun o => { o with unloaded := o.unloaded || o.handle == h } }).sweepObjs c))
      ∧ ((∀ o ∈ x.objs, o.handle = h → o.unloaded = true) →
          exec (.loaderUnload c v) s = .next (s.roused.modCtx c fun x => { x with lstatus := 0x38 })))

/-- Pre-emption (R171 to R173, R303, R318): a save makes PSTATE 1 and discards every continuation of the context; when all
has settled the area is written from SAVEBASE on, header first and then the comb records one behind the other, PSTATE is 2
and the context's combs are in the save area and on no core. The header holds 0x31 and the count of combs; a comb record
holds the comb's identity, its core and its LID, from 4,096 on its groups' records, each with the scalar, index and
predicate registers, the path entries and the vector registers at the offsets of R173, and then the window's bytes; the
bytes of a part of the area in one page go to where SAVEBASE translates. A restore with nothing saved ends at once, and
else PSTATE is 3; a saved comb that fits comes back on its core with the registers that its record holds, when the
device-private fields are as they were written (what those hold is log 17). -/
def Obligations.PreemptEvents : Prop :=
  ∀ (s : State) (c : Nat), s.ctxs.length = 64 → c < 64 →
    let x := s.ctx c
    let mine := fun (t : State) (d : Comb) => t.ctxOf d == c
    let bytes := fun (l : List AreaByte) (at_ n : Nat) => ((l.drop at_).take n).map fun b => b.1
    (s.Exposes c → x.pstate = 0 → (∀ j ∈ s.jobs, j.ctx = c → j.phase = .waiting) →
      ∃ t, exec (.preemptSave c) s = .next t ∧ t.ctxs = (s.modCtx c fun x => { x with pstate := 1 }).ctxs ∧ t.mem = s.mem ∧ t.jobs = s.jobs
        ∧ (∀ d ∈ t.combs, mine t d = true → ∀ g ∈ d.groups, g.forks = []) ∧ t.combs.map (fun d => d.id) = s.combs.map (fun d => d.id)
        ∧ ∀ f ∈ t.flights, f.cont ≠ none → ∀ d ∈ t.combs, mine t d = true → d.id ≠ f.comb)
    ∧ (x.pstate = 1 → s.saveReady c = true → (s.combs.map fun d => d.id).Nodup →
      let cs := s.combs.filter (mine s)
      let s2 := cs.foldl State.withdrawForSave ((s.coh.mq.filter fun q => cs.any fun d => d.id == q.comb).foldl State.cutMma s)
      let salt := s2.clk.serial
      (∀ s3 s4 n, s2.bump.writeArea c x.savebase.toNat (headArea salt cs.length) = some s3 → s3.saveCombs c salt cs 4096 = some (s4, n) →
        ∃ t, exec (.saveComplete c) s = .next t ∧ (t.ctx c).pstate = 2 ∧ (t.ctx c).saveSalt = salt ∧ (t.ctx c).savelen = BitVec.ofNat 64 n
          ∧ t.mem = s4.mem ∧ (∀ d ∈ t.combs, mine t d = false)
          ∧ (t.ctx c).saved.map (fun v => v.comb.id) = x.saved.map (fun v => v.comb.id) ++ cs.map fun d => d.id)
      ∧ ((s2.bump.writeArea c x.savebase.toNat (headArea salt cs.length) = none) → exec (.saveComplete c) s = .next s))
    ∧ (∀ salt d ds off e s1, s.comb? d.id = some e →
      let area := combArea salt off s e
      s.writeArea c (x.savebase.toNat + off) area = some s1 →
        ∃ t : State, s.saveCombs c salt (d :: ds) off = t.saveCombs c salt ds (off + area.length) ∧ t.mem = (s1.liftComb e).mem
          ∧ ∃ v, (t.ctx c).saved = ((s1.liftComb e).ctx c).saved ++ [v] ∧ v.comb = e ∧ v.base = off ∧ v.back = false)
    ∧ (∀ va (bs : List AreaByte) tt k, s.xlate c 0 (BitVec.ofNat 64 va) .write = .ok tt k → tt ≠ 4 → tt ≠ 5 → tt ≠ 6 → keyRegion k < 7 →
      s.dev.lost = [] → s.snaps = [] → s.MemOk → bs ≠ [] → va % 65536 + bs.length ≤ 65536 → va < 2 ^ 56 → (∀ i < bs.length, s.Plain (k + i)) →
        ∃ t, s.writeArea c va bs = some t ∧ (∀ i (h : i < bs.length), t.mem.get (k + i) = some bs[i].1)
          ∧ ∀ q, (q < k ∨ k + bs.length ≤ q) → t.mem.get q = s.mem.get q)
    ∧ (∀ salt n, bytes (headArea salt n) 0 16 = leBytes 8 0x31 ++ leBytes 8 n)
    ∧ (∀ salt off (d : Comb) l, s.launch? d.launch = some l → (∀ g ∈ d.groups, g.s.length = 64 ∧ g.x.length = 4 ∧ g.q.length = 8) →
      let area := combArea salt off s d
      let size := 8192 + 128 * d.regs
      bytes area 0 24 = leBytes 8 (combId d).toNat ++ leBytes 8 (coreReg d.core).toNat ++ leBytes 8 l.lid.toNat
      ∧ bytes area (4096 + size * d.g) d.scratch = s.bytesAt (kScratch d.core d.spOff) d.scratch
      ∧ (∀ i g, i < d.g → d.group? i = some g →
        let at_ := 4096 + size * i
        (∀ n < 64, bytes area (at_ + 8 * n) 8 = leBytes 8 (getAt g.s n).toNat) ∧ (∀ n < 4, bytes area (at_ + 0x200 + 8 * n) 8 = leBytes 8 (getAt g.x n).toNat)
        ∧ (∀ n < 8, bytes area (at_ + 0x600 + 4 * n) 4 = leBytes 4 (getAt g.q n).toNat)
        ∧ (∀ n < d.regs, ∀ m < 32, bytes area (at_ + 0x2000 + 128 * n + 4 * m) 4 = leBytes 4 (vlane (getAt g.v n) m).toNat)
        ∧ (∀ j p, j < 6 → g.path? j = some p → bytes area (at_ + 0x300 + 128 * j) 24
            = leBytes 8 p.pc ++ leBytes 8 (kindCode p + if p.inHandler then 256 else 0) ++ leBytes 8 (p.pl.toNat + p.exm.toNat * 2 ^ 32))
        ∧ (∀ j, j < 6 → g.path? j = none → bytes area (at_ + 0x300 + 128 * j) 32 = List.replicate 32 0)))
    ∧ (s.Exposes c → x.pstate = 2 →
      (x.saved = [] → ∃ t, exec (.preemptRestore c) s = .next t ∧ (t.ctx c).pstate = 0)
      ∧ ((∃ v ∈ x.saved, v.back = false) → ∃ t, exec (.preemptRestore c) s = .next t ∧ (t.ctx c).pstate = 3 ∧ (t.ctx c).saved = x.saved))
    ∧ (∀ k v hs s0,
      let area := combArea x.saveSalt v.base { s with mem := {}, full := [] } v.comb
      x.pstate = 3 → x.saved[k]? = some v → v.back = false → s.fitsBack v.comb = true → s.devRead c x.savebase.toNat 4096 = .ok (hs, s0) →
      (intact (headArea x.saveSalt x.saved.length) hs = false →
        exec (.restoredCombPlace c k) s = .next ((s0.dropAllSaved c).restoreDone c))
      ∧ (∀ bs s1 s2, intact (headArea x.saveSalt x.saved.length) hs = true →
        s0.devRead c (x.savebase.toNat + v.base) area.length = .ok (bs, s1) →
        (intact area bs = false → exec (.restoredCombPlace c k) s = .next ((s1.dropSaved c v.comb.launch).restoreDone c))
        ∧ (intact area bs = true → s1.roomForTiles v.comb 17 = some s2 →
        ∃ t d, exec (.restoredCombPlace c k) s = .next t ∧ d ∈ t.combs ∧ t.combs.map (fun d => d.id) = s2.combs.map (fun d => d.id) ++ [v.comb.id]
          ∧ d.id = v.comb.id ∧ d.core = v.comb.core
          ∧ d.slots = v.comb.slots ∧ d.bars = v.comb.bars ∧ d.binds = v.comb.binds ∧ d.groups.map (fun g => g.gidx) = v.comb.groups.map (fun g => g.gidx)
          ∧ (∀ g ∈ d.groups, let at_ := 4096 + (8192 + 128 * v.comb.regs) * g.gidx
              (∀ n < 64, getAt g.s n = BitVec.ofNat 64 (State.areaNat bs (at_ + 8 * n) 8))
              ∧ (∀ n < 8, getAt g.q n = BitVec.ofNat 32 (State.areaNat bs (at_ + 0x600 + 4 * n) 4))
              ∧ (∀ n < v.comb.regs, ∀ l < 32, vlane (getAt g.v n) l = BitVec.ofNat 32 (State.areaNat bs (at_ + 0x2000 + 128 * n + 4 * l) 4)))
          ∧ t.coh.mq = s2.coh.mq ++ v.queue ∧ t.flights = s2.flights ++ v.flights
          ∧ ((∀ i w, x.saved[i]? = some w → i = k ∨ w.back = true) → (t.ctx c).pstate = 0))))

/-! ### Gangs, jobs and the engines -/

/-- The matrix engine (R246, R250 to R252, R255 to R257, R259, R260, R262 to R266): a latch that is incomplete 65,536 cycles
after its first issue is given up, and every member takes trap 0x09 in its EXM. The engine takes up the entry at the head
of a core's queue, reads its operands unit by unit, computes, and performs its line writes one by one; then the entry
leaves the queue and its members complete two cycles later at the earliest (log 134, the model's choice). mma adds to each element of the tile, +0 or
what it holds in the pair's type, the block products of its row of A and of B in ascending order, or for i8 the products (of a
block product, zeros and NaNs are logs 28, DEDUCED, and 103, DESIGN CHOICE);
mmv gives each row the sum over channels of the sums of its block products, and puts or adds it; drain writes what the
epilogue program gives for each element, in panel layout; epld writes the epilogue words; acc does to its tile what its
row says. -/
def Obligations.MatrixEvents : Prop :=
  ∀ (s : State) (c : Comb), s.comb? c.id = some c →
    (∀ gang l, c.gangs.find? (fun l => l.gang == gang) = some l → gang ≠ 0 →
      let late := l.members.length < ((List.range 16).filter fun i => gang.getLsbD i).length ∧ l.since + 65536 ≤ s.clk.cycle
      let fids := l.members.map fun m => m.2
      (late → exec (.gangTimeout c.id gang) s = .next ((l.members.map fun m => s.memberRef c.id m).foldl
          (fun (s : State) r => match s.path? r with
            | none => s
            | some p => (s.modPath r fun q => { q with wait := .run, endAfter := false }).takeTrap r { code := 0x09, lanes := p.exm, open_ := true })
          ({ s with flights := s.flights.filter fun x => !fids.contains x.fid }.modComb c.id fun d => { d with
            gangs := d.gangs.filter fun x => x != l })))
      ∧ (¬ late → exec (.gangTimeout c.id gang) s = .next s))
    ∧ (∀ q, s.coh.mq.find? (fun x => x.core == c.core) = some q → q.comb = c.id →
      let adv := exec (.matrixQueueAdvance c.core) s
      (q.out = none → q.todo = none → s.engineReady c q = false → adv = .next s)
      ∧ (q.out = none → q.todo = none → s.engineReady c q = true → s.engineUnits c q ≠ [] →
          adv = .next (s.modHead q fun x => { x with todo := some (s.engineUnits c q) }))
      ∧ (∀ us, q.out = none → q.todo = some us → us ≠ [] → (∀ u ∈ us, ∀ k ∈ u, s.isStale (lineKey k) = false) → ∃ u ∈ us,
          adv = .next (s.spend.modHead q fun x => { x with todo := some (us.erase u), got := u.map (fun k => (k, s.byteAt k)) ++ x.got }))
      ∧ (∀ ws nf v, q.out = some (ws, nf, v) → ws ≠ [] → ∃ w ∈ ws, adv = .next
          (if ws.erase w = [] then (s.spend.perform w).engineEnd c.core q nf v
           else (s.spend.perform w).modHead q fun x => { x with out := some (ws.erase w, nf, v) })))
    ∧ (∀ q f, s.coh.mq.find? (fun x => x.core == c.core) = some q → q.comb = c.id → q.fids = [f.fid] → s.flight? f.fid = some f →
      q.out = none → (q.todo = some [] ∨ (q.todo = none ∧ s.engineReady c q = true ∧ s.engineUnits c q = [])) →
      (∀ d ∈ s.combs, d.core = c.core → d.gangs = []) →
      let n := dstTile q.form
      let a := s.tileOf c.id (srcTile q.form)
      let d := s.tileOf c.id n
      let w := (getAt q.ops 0).toNat
      let adv := exec (.matrixQueueAdvance c.core) s
      let runs := fun (P : State → Flight → Prop) => ∃ t h, adv = .next t ∧ t.coh.mq = s.coh.mq.erase q
        ∧ t.flight? f.fid = some h ∧ h.fin = .regs ∧ h.due = s.clk.cycle + 2 ∧ h.lanes = f.lanes ∧ h.setf = f.setf ∧ P t h
      let gives := fun (P : Tile → Prop) => runs fun t _ => t.mem = s.mem ∧ P (t.tileOf c.id n)
      let writes := fun (s1 : State) (cells : List (List (Nat × Byte))) =>
        ∃ nf, adv = .next (s1.modHead q fun x => { x with out := some (cells, nf, none) })
      let row := fun (l : Nat) => 64 * (w / 2 % 64) + 32 * (w % 2) + l
      let col := fun (l : Nat) => 64 * (32 * (w % 2) + l) + w / 2 % 64
      let reads := fun (at_ : Nat → Nat) => q.form.dst.isVec = true → runs fun t h => t.mem = s.mem ∧ t.combs = s.combs
        ∧ h.writes = (if q.form.nwb then []
            else [.v (getAt f.ops 1).toNat f.lanes (vreg fun l => if lane f.lanes l then getAt a.el (at_ l) else 0)])
        ∧ h.latch = some (.vec (vreg fun l => if lane f.lanes l then getAt a.el (at_ l) else 0))
      let read := s.withRead q.got
      let kA := 32 * (q.form.immBits 17 11 + 1)
      let panels := read.mmaPanels c q
      let blkA := fun (i b : Nat) => (panels.1.block i b).getD {}
      let blkB := fun (j b : Nat) => (panels.2.block j b).getD {}
      let sum := fun (x y : Nat) => (addF32 x y).1
      let int8 := q.form.immBits 0 5 = 0 ∧ q.form.immBits 5 5 = 0 ∧ q.form.immBits 10 2 = 0
      let asF := fun (k : Nat) => if d.isInt then (toF32 (Num.ofInt (getAt d.el k).toInt)).1 else (getAt d.el k).toNat
      let asI := fun (k : Nat) => if d.isInt then (getAt d.el k).toInt
        else (BitVec.ofNat 32 (roundTo (f32 (getAt d.el k)) .i32 {} 0).1).toInt
      let byte := fun (p : Panel) (i k : Nat) => (BitVec.ofNat 8 (p.code i k)).toInt
      (q.op = .accZero → gives fun t => t.isInt = false ∧ t.el = List.replicate 4096 0)
      ∧ (q.op = .accCopy → gives fun t => t.isInt = a.isInt ∧ t.el = a.el)
      ∧ (q.op = .accAdd → d.isInt = true → a.isInt = true → gives fun t => t.isInt = true ∧ ∀ i < 4096, getAt t.el i = getAt d.el i + getAt a.el i)
      ∧ (q.op = .accAdd → d.isInt = false → a.isInt = false → gives fun t => t.isInt = false
          ∧ ∀ i < 4096, getAt t.el i = BitVec.ofNat 32 (addF32 (getAt d.el i).toNat (getAt a.el i).toNat).1)
      ∧ (q.op = .accFree → runs fun t _ => t.mem = s.mem ∧ t.tile? c.id n = none)
      ∧ (q.op = .accRdr → reads row)
      ∧ (q.op = .accRdc → reads col)
      ∧ (q.op = .accWrr → d.el.length = 4096 → gives fun t => t.isInt = d.isInt
          ∧ (∀ l < 32, lane f.lanes l = true → getAt t.el (row l) = (getAt q.ops (l + 1)).setWidth 32)
          ∧ ∀ i, (∀ l < 32, lane f.lanes l = true → i ≠ row l) → getAt t.el i = getAt d.el i)
      ∧ (q.op = .epld → (f.accs.map fun x => x.lane).Nodup → c.eprog.length = 64 → runs fun t _ => t.mem = s.mem ∧ ∃ e, t.comb? c.id = some e
          ∧ (∀ x ∈ f.accs, q.form.immBits 0 6 + x.lane < 64 → getAt e.eprog (q.form.immBits 0 6 + x.lane) = BitVec.ofNat 32 (x.val.getD 0))
          ∧ ∀ i, (∀ x ∈ f.accs, i ≠ q.form.immBits 0 6 + x.lane) → getAt e.eprog i = getAt c.eprog i)
      ∧ (q.op = .mma → q.kdone = 0 → q.form.imm.getLsbD 14 = false → q.form.imm.getLsbD 15 = false → d.el.length = 4096 →
          (¬ int8 → gives fun t => t.isInt = false ∧ ∀ i < 64, ∀ j < 64, getAt t.el (64 * i + j) = BitVec.ofNat 32
            ((List.range (kA / 16)).foldl (fun acc b => sum acc (blockTerm panels.1.t panels.2.t (blkA i b) (blkB j b)).1)
              (if q.form.imm.getLsbD 16 then 0 else asF (64 * i + j))))
          ∧ (int8 → gives fun t => t.isInt = true ∧ ∀ i < 64, ∀ j < 64, getAt t.el (64 * i + j) = BitVec.ofInt 32
            ((if q.form.imm.getLsbD 16 then 0 else asI (64 * i + j))
              + ((List.range kA).map fun k => byte panels.1 i k * byte panels.2 j k).sum)))
      ∧ (∀ kv, q.op = .mmv → s.windowKey c w 8 = some kv → d.el.length = 4096 →
          let m := q.form.immBits 26 6 + 1
          let k := 32 * (q.form.immBits 15 11 + 1)
          let tw := (Fmt.ofCode (q.form.immBits 7 5)).getD .e4m3
          let tv := (Fmt.ofCode (q.form.immBits 0 5)).getD .bf16
          let e := lineElems tw
          let nl := (k + e - 1) / e
          let v := read.operand c tv (q.form.immBits 5 2) 1 0 false kv
          let t0 := towerOf (State.weightAt q.keys 0)
          let chan := fun (l : Nat) => channelOf (getAt s.dev.retired t0) (keyAddr (State.weightAt q.keys l) % 2 ^ 36)
          let wblk := fun (l b : Nat) => match read.weightLine q.keys l with
            | some x => ((lineBlocks tw x.1 x.2)[b]?).getD {}
            | none => {}
          let part := fun (i p : Nat) => ((List.range nl).filter fun l => chan (i * nl + l) == p).foldl (fun acc l =>
            ((List.range (e / 16)).filter fun b => e * l + 16 * b < k).foldl (fun acc b =>
              sum acc (blockTerm tv tw ((v.block 0 ((e * l + 16 * b) / 16)).getD {}) (wblk (i * nl + l) b)).1) acc) 0
          let y := fun (i : Nat) => ((List.range 64).filter fun p => (List.range nl).any fun l => chan (i * nl + l) == p).foldl
            (fun acc p => sum acc (part i p)) 0
          let put := fun (old i : Nat) => BitVec.ofNat 32 (if q.form.imm.getLsbD 14 then y i else sum old (y i))
          (∀ l < m * nl, (read.weightLine q.keys l).isSome) →
            (q.form.mod = false → gives fun t => t.isInt = false ∧ ∀ i < 64, ∀ j < 64, getAt t.el (64 * i + j)
              = if i < m ∧ j = (getAt q.ops 2).toNat % 64 then put (asF (64 * i + j)) i else BitVec.ofNat 32 (asF (64 * i + j)))
            ∧ (∀ kd, q.form.mod = true → s.windowKey c (getAt q.ops 2).toNat 4 = some kd →
              writes s ((List.range m).map fun i => cellsFrom (kd + 4 * i) (leBytes 4 (put (read.natAt (kd + 4 * i) 4) i).toNat))))
      ∧ (∀ es kd, q.op = .drain → State.drainProg c q.form = .inl es → s.windowKey c w 128 = some kd →
          let t := (Fmt.ofCode (q.form.immBits 0 5)).getD .f32
          let p := (getAt q.ops 1).toNat
          let param := fun (k i : Nat) => match s.windowKey c (p + 256 * k + 4 * i) 4 with
            | some at_ => decodeNum .f32 (read.natAt at_ 4)
            | none => .nan false
          let e0 := fun (k : Nat) => decodeNum .f32 (if a.isInt then (toF32 (Num.ofInt (getAt a.el k).toInt)).1 else (getAt a.el k).toNat)
          let val := fun (i j : Nat) => (epiRun (fun k => param k j) (fun k => param k i) es (e0 (64 * i + j) :: List.replicate 15 (.fin false 0 0)) {}).1
          let rm := q.form.immBits 7 3
          let rnd : Rnd := { mode := if rm = 7 then q.frm.toNat else rm, satf := q.satf, seed := q.seed }
          let lines := (panelWrite t (q.form.immBits 5 2) rnd 64 64 val fun i j => 64 * i + j).1
          writes (if q.form.imm.getLsbD 16 then s.freeTile c.id (srcTile q.form) else s)
            ((List.range lines.length).map fun l =>
              cellsFrom (kd + 128 * l) (getAt lines l).1 ++ cellsFrom (sideKey (kd + 128 * l) 0) (getAt lines l).2)))
    ∧ (∀ (e : Epi) r ldc ldr,
      let x := getAt r e.a
      let y := getAt r e.b
      let z := getAt r e.c
      let near := fun (v : Machine.Num) => decodeNum .f32 (toF32 v).1
      let res := (epiOp e r ldc ldr).1
      (e.op = 1 → res = near (Machine.Num.add false x y).1) ∧ (e.op = 2 → res = near (Machine.Num.add false x y.negate).1)
      ∧ (e.op = 3 → res = near (Machine.Num.mul x y).1) ∧ (e.op = 5 → res = near (numMax x y)) ∧ (e.op = 6 → res = near (numMin x y))
      ∧ (e.op = 9 → res = if Machine.Num.cmpLt (.fin false 0 0) x then y else z)
      ∧ (e.op = 0x0B → res = decodeNum .f32 (e.imm * 65536)) ∧ (e.op = 0x0C → res = ldc e.a) ∧ (e.op = 0x0D → res = ldr e.a))

/-- Jobs at GO, while their writes land, and at their end (R268 to R273, R280, R286, R300): a complete card is rejected with
the first check that fails, in the order of R269, or its job joins the TDT behind the older jobs of its address space that
its footprints meet, or is done at once when it moves no row; an incomplete card gives 0x10; a write that lands leaves its
bytes and counts; a job whose result is decided and whose writes have landed gets its status, leaves the TDT and every
edge; a running job of an aborted launch may get 0x40 instead. -/
def Obligations.JobEvents : Prop :=
  ∀ (s : State),
    (∀ e c g l, s.coh.sb.find? (fun x => x.eid == e.eid) = some e → s.comb? e.comb = some c → s.group? e.comb e.group = some g →
      s.goReady e = true → s.acceptBusy e g = false → s.launch? e.launch = some l → l.aborted = false → g.openJobs.length < 4096 →
      let n := s.clk.serial
      let go : W64 := BitVec.ofNat 64 (leNat (e.data.map fun x => x.2))
      let pb := go.getLsbD 15
      let bar := wBits go 0 15
      let s1 := (s.bump.modSB fun l => l.filter fun x => x.eid != e.eid).modGroup e.comb e.group fun g => { g with
        card := List.replicate 4 none, openJobs := g.openJobs ++ [{ num := n }] }
      (none ∈ g.card → exec (.jobAccept e.eid) s = .next (s1.rejectJob e c n 0x10 pb bar))
      ∧ (∀ card : List W64, g.card = card.map some → acceptBlock card = none →
        let k := cardCheck s1 c card []
        let bad := wBits go 16 48 ≠ 0 ∨ (pb = true ∧ s1.barRef c bar = none)
        let rejected := fun (code : Nat) => exec (.jobAccept e.eid) s = .next (s1.rejectJob e c n code pb bar)
        let empty := jobEng card = 1 ∧ (gCard card).cnt = 0
        (jobOps (jobEng card) ≤ jobOp card → rejected 0x11)
        ∧ (jobOp card < jobOps (jobEng card) →
          (k.rsv = true ∨ bad → rejected 0x13)
          ∧ (k.rsv = false → ¬ bad → k.form = true → rejected 0x12)
          ∧ (k.rsv = false → ¬ bad → k.form = false → k.align = true → rejected 0x14)
          ∧ (k.rsv = false → ¬ bad → k.form = false → k.align = false → empty →
              exec (.jobAccept e.eid) s = .next (s1.recordStatus e.comb e.group n (State.statusEntry 1 0 0) e.ctx l.lid))
          ∧ (k.rsv = false → ¬ bad → k.form = false → k.align = false → ¬ empty →
            ∃ t j h, exec (.jobAccept e.eid) s = .next t ∧ t.jobs = s.jobs ++ [j] ∧ t.mem = s.mem ∧ t.coh.sb = s.coh.sb.filter (fun x => x.eid != e.eid)
              ∧ j.num = n ∧ j.card = card ∧ j.phase = .waiting ∧ j.ctx = e.ctx ∧ j.core = e.core ∧ j.pb = pb ∧ j.bar = bar ∧ j.owed = k.owed
              ∧ j.src = (k.src.map rangeLines).flatten ∧ j.dst = (k.dst.map rangeLines).flatten
              ∧ (∀ m, m ∈ j.edges ↔ ∃ o ∈ s.jobs, o.num = m ∧ o.core = e.core ∧ o.asid = e.asid
                  ∧ (footMeets j.src o.dst = true ∨ footMeets j.dst o.src = true ∨ footMeets j.dst o.dst = true))
              ∧ t.group? e.comb e.group = some h ∧ h.card = List.replicate 4 none ∧ h.openJobs.length = g.openJobs.length + 1
              ∧ h.openJobs.getLast? = some { num := n, dst := j.dst }))))
    ∧ (∀ n j w, s.job? n = some j → j.writes = [w] → w.add = none → w.copy = [] → s.snaps = [] → s.MemOk →
      (∀ d ∈ w.data, keyRegion d.1 < 7 ∧ s.Plain d.1) → j.pb = false → s.landReady j w = true →
        ∃ t q, exec (.jobWriteLand n) s = .next t ∧ t.job? n = some q ∧ q = { j with writes := [], owed := j.owed - w.count }
          ∧ (∀ d ∈ w.data, (∀ x ∈ w.data, x.1 = d.1 → x.2 = d.2) → t.mem.get d.1 = some d.2)
          ∧ (∀ k, (∀ d ∈ w.data, d.1 ≠ k) → t.mem.get k = s.mem.get k) ∧ t.flights = s.flights ∧ t.launches = s.launches ∧ t.ctxs = s.ctxs)
    ∧ (∀ n j c b, s.job? n = some j → j.writes = [{ count := b }] → j.pb = true → s.comb? j.comb = some c → s.snaps = [] → 0 < b →
      ∀ i, s.barRef c j.bar = some (.comb i) → i < c.bars.length → (getAt c.bars i).arrived < (getAt c.bars i).expect →
        ∃ t d, exec (.jobWriteLand n) s = .next t ∧ t.comb? c.id = some d
          ∧ getAt d.bars i = { getAt c.bars i with pending := (getAt c.bars i).pending - BitVec.ofNat 64 b })
    ∧ (∀ n j vs, s.job? n = some j →
      (∀ l, j.phase ≠ .waiting → s.launch? j.launch = some l → l.aborted = true →
        exec (.jobStatus n vs) s = .next ((s.spend.releaseSnap n).giveStatus n 0x40 0) ∨ s.lateCancel j = false)
      ∧ (s.lateCancel j = false →
        (∀ code detail c g, j.phase = .ending code detail → j.coll = none → j.writes = [] → s.comb? j.comb = some c →
          c.group? j.group = some g →
            ∃ t h, exec (.jobStatus n vs) s = .next t ∧ (∀ x ∈ t.jobs, x.num ≠ n ∧ n ∉ x.edges) ∧ t.group? j.comb j.group = some h
              ∧ (∀ b ∈ h.openJobs, b.num = n → b.status = some (State.statusEntry code j.flags detail))
              ∧ (∀ b ∈ h.batches, ∀ x ∈ b.jobs, x.num = n → x.status = some (State.statusEntry code j.flags detail)))
        ∧ (∀ code detail c, j.phase = .ending code detail → j.coll = some c → j.writes = [] →
            exec (.jobStatus n vs) s = .next (s.spend.endColl j c code detail))
        ∧ (∀ c, j.phase = .running → j.coll = some c →
            let d := if s.dev.poden then State.hear c vs else c
            let s1 := s.spend.modColl n fun _ => d
            (∀ e, s1.collStatus j d = some e → exec (.jobStatus n vs) s = .next (s1.endColl j d e.1 e.2))
            ∧ (s1.collStatus j d = none → exec (.jobStatus n vs) s = .next s1))))

/-- The engines (R270, R271, R278 to R283, R254, R290, R300): a ready job starts and reads the lines of its sources one by one,
each as it stands at its place then, or some of them only as its result is decided, and a write may be made as soon as the
lines that it needs have been read (how many and when is open, log 73); a job that fails has its failure's
status decided; one that does not has status 1 decided, its writes to land, its flags and its owed bytes. The writes of each
operation: a copy's are its source bytes; conv and convT write each element's value times 2^SHIFT, rounded, at (i, j) or
(j, i); gather and scatter move the rows that the list names; a chain writes the epilogue program's results, with e1 = +0 where
no stream B is given (log 35) and whatever BFMT says then (log 112); mv writes W times v; accm adds; amax writes the largest
magnitude; fill writes the pattern. -/
def Obligations.EngineJobs : Prop :=
  ∀ (s : State) (n : Nat) (j : Job),
    let c := j.card
    let t := tCard c
    let g := gCard c
    let bytes := wBits (jc c 0) 0 32
    let a := (jc c 1).toNat
    let b := (jc c 2).toNat
    let p := s.placeView (hiveOf j.core)
    (∀ x ∈ ([(.transformCopy n, 0, 0, copyWork), (.transformConv n, 0, 1, convWork false), (.transformConvt n, 0, 2, convWork true),
        (.gather n, 1, 0, rowsWork false), (.scatter n, 1, 1, rowsWork true), (.chain n, 2, 0, chainWork), (.bankMv n, 3, 0, mvWork),
        (.bankAccm n, 3, 1, accmWork), (.bankAmax n, 3, 2, amaxWork), (.bankFill n, 3, 3, fillWork), (.bankCopy n, 3, 4, bankCopyWork)] :
          List (Instr × Nat × Nat × (State → Job → Work))),
      let f := x.2.2.2
      let gives := fun (u : State) => exec x.1 s = .next u
      (s.startable n x.2.1 x.2.2.1 = some j →
        (State.waitsForPage (f s j) = true → gives s)
        ∧ (State.waitsForPage (f s j) = false → gives ((f s j).s.modJob n fun q => { q with phase := .reading ((f s j).s.sourceLines j) })))
      ∧ (∀ todo, s.readingJob n x.2.1 x.2.2.1 = some (j, todo) →
          (∀ k ∈ todo, s.isStale k = false ∧ s.reaches k = true ∧ s.bankHeld j k = false) →
        (todo = [] → (State.waitsForPage (f s j) = true → gives s.spend) ∧ (State.waitsForPage (f s j) = false → gives (s.spend.decideWork j f)))
        ∧ (todo ≠ [] → (∃ k ∈ todo, gives (s.spend.modJob n fun q => { q with
              phase := .reading (todo.erase k)
              got := cellsFrom k (p.bytesAt k 128) ++ cellsFrom (sideKey k 0) (p.sideAt k) ++ q.got }))
            ∨ (∃ i, gives (s.spend.spend.writeEarly j todo i f)) ∨ (State.waitsForPage (f s j) = true ∧ gives s.spend) ∨ (State.waitsForPage (f s j) = false ∧ gives (s.spend.decideWork j f)))))
    ∧ (∀ (f : State → Job → Work), j.num = n →
      let u := (f s j).s
      let w := f ((u.placeView (hiveOf j.core)).withRead j.got) j
      let ws := State.lateWrites j w.writes
      (j.early = [] → ws = w.writes)
      ∧ (w.fail = none → s.decideWork j f = u.modJob n fun q => { q with
        phase := .ending 1 0, writes := q.writes ++ ws, flags := q.flags ||| w.fl.bits
        owed := ((q.writes ++ ws).map fun x => x.count).sum })
      ∧ (∀ code detail, w.fail = some (code, detail) → (u.job? n).map (fun q => (q.card, q.edges, q.writes)) = some (c, j.edges, j.writes) →
          ∃ q, (s.decideWork j f).job? n = some q ∧ q.phase = .ending code detail ∧ q.card = c ∧ q.edges = j.edges
            ∧ (w.exact = true → q.writes = j.writes ++ ws)))
    ∧ (∀ (f : State → Job → Work) todo i, j.num = n →
      let w := f (p.withRead j.got) j
      ((∃ k ∈ w.needs i, k ∈ todo) ∨ i ∈ j.early ∨ w.writes[i]? = none → s.writeEarly j todo i f = s)
      ∧ (∀ x, w.writes[i]? = some x → w.early = true → w.fail = none → i ∉ j.early → (∀ k ∈ w.needs i, k ∉ todo) →
          (∀ m y, m < i → w.writes[m]? = some y → y.head ≠ x.head) →
            s.writeEarly j todo i f = s.modJob n fun q => { q with writes := q.writes ++ [x], early := i :: q.early }))
    ∧ (let p := s.range j .read t.side t.src t.len
       let q := p.s.range j .write t.side t.dst t.len
       t.sc = false → t.dc = false → (copyWork s j).fail = p.fail.orElse (fun _ => q.fail)
         ∧ (copyWork s j).writes = copyWrites p.ps q.ps t.src t.dst t.len t.side)
    ∧ (∀ tr sf df, panelFmt t.sf t.sblk = some sf → panelFmt t.df t.dblk = some df → t.sc = false → t.dc = false →
       let x := s.readPlain j (t.sblk != 0) t.src (128 * panelLines sf t.r t.c)
       let p := x.panel sf t.sblk t.r
       let el := fun (i k : Nat) => ((if tr then panelNum p k i else panelNum p i k).1).scale t.shift
       let r := if tr then t.c else t.r
       let w := if tr then t.r else t.c
       let out := panelWrite df t.dblk (jobRnd j t.rm t.seed) r w el fun i k => i * w + k
       x.fail = none →
         let y := x.s.sinkPlain j t.dst (out.1.map fun l => l.1).flatten (if t.dblk = 0 then [] else out.1.map fun l => l.2) {}
         (convWork tr s j).writes = y.writes ∧ (convWork tr s j).fail = y.fail)
    ∧ (∀ sc : Bool, g.cnt = 1 →
       let i := s.range j .read false g.idx 4
       let x := i.s.natAt (keyIn i.ps g.idx) 4
       let from_ := g.src + (if sc then 0 else x) * g.rs
       let dest := g.dst + (if sc then x else 0) * g.rs
       let p := i.s.range j .read false from_ g.rs
       let q := p.s.range j .write false dest g.rs
       i.fail = none →
         (2 ^ g.lim ≤ x → (rowsWork sc s j).fail = some (0x16, 0) ∧ (rowsWork sc s j).writes = [])
         ∧ (x < 2 ^ g.lim → p.fail = none → q.fail = none →
             (rowsWork sc s j).fail = none ∧ (rowsWork sc s j).writes = copyWrites p.ps q.ps from_ dest g.rs false))
    ∧ (let blk := s.readPlain j false (jc c 3).toNat 64
       let k := chainBlk blk.bytes
       (∀ code, blk.fail = none → chainProg k = .inr code → (chainWork s j).fail = some (code, 0) ∧ (chainWork s j).writes = [])
       ∧ (∀ es, blk.fail = none → chainProg k = .inl es → k.b = 0 →
          let x := blk.s.readPlain j false a (streamBytes k.af bytes)
          let rd := fun (i : Nat) => toF32 (panelNum (x.panel (fmtOr k.af) 0 1) 0 i).1
          let ys := (List.range bytes).map fun i => (epiRun (fun _ => .nan false) (fun _ => .nan false) es
            (epiStart (decodeNum .f32 (rd i).1) [.fin false 0 0]) ((panelNum (x.panel (fmtOr k.af) 0 1) 0 i).2.or (rd i).2)).1
          let out := panelWrite (fmtOr k.df) 0 (jobRnd j k.rm k.seed) 1 bytes (fun _ i => getAt ys i) fun _ i => i
          x.fail = none → (chainWork s j).writes = (x.s.sinkPlain j b (out.1.map fun l => l.1).flatten [] {}).writes))
    ∧ (∀ tv tw,
       let m := mvCard c
       let v := s.readPlain j (m.bv != 0) a (mvBytes m).1
       let w := v.s.range j .read true (jc c 3).toNat (mvBytes m).2
       let ys := w.s.mvRows (v.panel tv m.bv 1) tw m.bw m.k m.m (w.ps.map fun p => (p.key, p.len))
       mvFmts m = some (tv, tw) → v.fail = none → w.fail = none →
         (oneTower w.ps = false → (mvWork s j).fail = some (0x14, 0))
         ∧ (oneTower w.ps = true → (mvWork s j).writes = (w.s.sinkPlain j b (ys.map fun y => leBytes 4 y.1).flatten [] {}).writes))
    ∧ (let x := s.readPlain j false a (4 * bytes)
       let q := x.s.range j .write false b (4 * bytes)
       x.fail = none → q.fail = none →
         (oneTower q.ps = false → (accmWork s j).fail = some (0x14, 0))
         ∧ (oneTower q.ps = true → (accmWork s j).fail = none
             ∧ (accmWork s j).writes = (byteWrites q.ps b x.bytes []).map fun w => { w with add := some (wBits (jc c 0) 51 5 == 0x02) }))
    ∧ (let p := s.range j .read false a (4 * bytes)
       let x := (p.ps.map fun y => p.s.bytesAt y.key y.len).flatten
       let ws := (List.range bytes).map fun i => leNat ((x.drop (4 * i)).take 4)
       p.fail = none → oneTower p.ps = true →
         (amaxWork s j).writes = (p.s.sinkPlain j b (leBytes 4 (amaxOf ws)) [] {}).writes
         ∧ (amaxWork s j).fl = Fl.all (ws.map (readFl .f32)))
    ∧ (let q := s.range j .write false b bytes
       q.fail = none → oneTower q.ps = true → (fillWork s j).fail = none
         ∧ (fillWork s j).writes = byteWrites q.ps b ((List.range (bytes / 8)).map fun _ => leBytes 8 a).flatten [])
    ∧ (let p := s.range j .read true a bytes
       let q := p.s.range j .write true b bytes
       p.fail = none → q.fail = none →
         (oneTower (p.ps ++ q.ps) = false → (bankCopyWork s j).fail = some (0x14, 0))
         ∧ (oneTower (p.ps ++ q.ps) = true → (bankCopyWork s j).fail = none ∧ (bankCopyWork s j).writes = copyWrites p.ps q.ps a b bytes true))

/-! ### Collectives, snapshots, the pod and the host -/

/-- Collectives and hops (R284, R333 to R342): a job of a busy persistent instance gets 0x1B, one whose device is no
participant, or that names a device more than four times, 0x14, one whose route block breaks R338 0x13; equal ids that do
not stand in a row and a second job of a hive get 0x14 too (log 114, the model's choice); any other runs, gives the slots
their EXPECT, which they have from its acceptance on (R339; of OP 4 from the route block as it stands, log 133), and contributes: a
participant of OP 0 and 1 sends one packet to every device that needs the chunk, where it is reduced and delivered (log 15), and
an instance is busy for the jobs that log 83 names; a packet of this device that has come back over the wire is told to its jobs
(log 132). A packet at its hop goes on, enters its reduction slot, is late, is delivered, is delivered
and goes on, waits for a job that has not started, or is refused for an invalid HOPOP; a slot whose time is up gives its
partial result. -/
def Obligations.CollectivesAndHops : Prop :=
  ∀ (s : State),
    let me := s.dev.devid.toNat
    (∀ n j c op i, s.startable n 4 op = some j → j.coll = some c →
      (op, i) ∈ [(0, Instr.allReduce n), (1, .reduceScatter n), (2, .allGather n), (3, .broadcast n), (4, .inHopReduction n)] →
      let d := cDesc c.desc
      let ends := fun (t : State) (code : Nat) => exec i s = .next (t.modJob n fun q => { q with phase := .ending code 0 })
      let x := s.readPlain j false d.peers (2 * d.p)
      let y := if op = 4 then x.s.readPlain j false d.route 32 else { s := x.s }
      let v := y.s.placeView (hiveOf j.core)
      let xb := (v.readPlain j false d.peers (2 * d.p)).bytes
      let yb := if op = 4 then (v.readPlain j false d.route 32).bytes else []
      let peers := (List.range d.p).map fun i => leNat ((xb.drop (2 * i)).take 2)
      let times := fun (e : Nat) => (peers.filter fun x => x == e).length
      let hops := routeHops yb
      (s.persBusy j d = true → ends s 0x1B)
      ∧ (s.persBusy j d = false → x.fail = none → y.fail = none →
        (op = 4 → routeOk yb me = false → ends y.s 0x13)
        ∧ ((op = 4 → routeOk yb me = true) →
          (times me = 0 ∨ (∃ e ∈ peers, 4 < times e) → ends y.s 0x14)
          ∧ (State.inARow peers = false ∨ s.hiveTaken j d = true → ends y.s 0x14)
          ∧ (times me ≠ 0 → (∀ e ∈ peers, times e ≤ 4) → State.inARow peers = true → s.hiveTaken j d = false →
            let expect := if op = 4 then wBits (dwordAt yb 0) 16 16 else if op ≤ 1 then d.p else 0
            let want := op != 4 || hops.any fun h => (h.1 == 2 || h.1 == 3) && h.2 == me
            let route := if op = 4 then (if expect = 0 then hops else hops.tail) else if op ≤ 1 then [(2, me)] else []
            let j1 := { j with phase := .running, owed := if want then j.owed else 0
                               coll := some { c with peers := peers, expect := expect, chunks := collChunks j.card d, want := want, route := route } }
            exec i s = .next ((((y.s.modJob n fun _ => j1).armSlots j1).contribute j1).contributeLate n op)))))
    ∧ (∀ p o rest, p ∈ s.spire.loc → p.hops = (o, me) :: rest → p.nhop ≠ 0 →
      let q := { p with hops := rest, nhop := p.nhop - 1 }
      let s1 := s.modSpire fun x => { x with loc := x.loc.erase p }
      let late := s.spire.expired.contains (State.slotKey p.cid p.step p.chunk p.pers)
      (o = 0 → exec (.hopPass p) s = .next (s1.sendOn q)
        ∧ (rest = [] ∨ q.nhop = 0 → s1.sendOn q = s1.tell q .refused)
        ∧ (∀ o2 r2, rest = (o2, me) :: r2 → q.nhop ≠ 0 → s1.sendOn q = s1.modSpire fun x => { x with loc := x.loc ++ [q] }))
      ∧ (o = 1 → exec (.hopReduce p) s = .next (s1.enterSlot p q)
        ∧ (s.slotFor q = none → late = true →
            (s1.enterSlot p q).dev.latecnt = s.dev.latecnt + 1 ∧ (s1.enterSlot p q).spire.slots = s.spire.slots)
        ∧ (∀ z, s.slotFor q = some z → p.step < z.step →
            (s1.enterSlot p q).dev.latecnt = s.dev.latecnt + 1 ∧ (s1.enterSlot p q).spire.slots = s.spire.slots)
        ∧ (late = false → s.spire.slots = [] → s1.giver p.cid p.step = none →
            (s1.enterSlot p q).spire.slots = [{ num := s.clk.serial, cid := p.cid, step := p.step, chunk := p.chunk, pers := p.pers
                                                born := s.clk.cycle, held := [q] }]))
      ∧ (o = 2 → exec (.hopDeliver p) s = .next (s1.deliver p q false)
        ∧ (s1.jobsFor q = [] → s1.deliver p q false = s1.tell q .refused)
        ∧ (∀ js, s1.jobsFor q = js → js ≠ [] → s1.deliveryWaits q js = true →
            s1.deliver p q false = s1.modSpire fun x => { x with waiting := x.waiting ++ [p] })
        ∧ (∀ j, s1.jobsFor q = [j] → s1.deliveryWaits q [j] = false → j.phase = .running →
            s1.deliver p q false = (s1.deliverTo q j).tell q .delivered))
      ∧ (o = 3 → exec (.hopCopy p) s = .next (s1.deliver p q true)
        ∧ (∀ j, s1.jobsFor q = [j] → s1.deliveryWaits q [j] = false → j.phase = .running →
            s1.deliver p q true = (s1.deliverTo q j).sendOn q))
      ∧ (4 ≤ o → exec (.hopInvalid p) s = .next (s1.tell q .refused)))
    ∧ (∀ n x e m, s.spire.slots.find? (fun y => y.num == n) = some x → x.expect = some e → x.job = some m →
      x.born + 1500 * (if x.tmo = 0 then s.dev.tmodef.toNat else x.tmo) ≤ s.clk.cycle →
        exec (.slotExpiry n) s = .next ((((s.freeSlot x).expireKey x).writeMiss m (State.absentRanks x.ranks x.packs)).slotResult x true)
        ∧ ((s.freeSlot x).expireKey x).spire.expired = (State.slotKey x.cid x.step x.chunk x.pers :: s.spire.expired).take 512
        ∧ (x.next = none → ((s.freeSlot x).expireKey x).spire.slots = s.spire.slots.filter fun z => z.num != n))

/-- Snapshots (R285, R343 to R345): an arm whose destination is host memory and whose cut point has not passed runs until
its pages have drained, any other arm ends with 0x14; a cancel ends the arms of its descriptor as it is accepted, and later
itself with 0x01; a drained page is written to the destination and counts in DRAINED, and after the last one the arm ends
with 0x01. -/
def Obligations.SnapshotEvents : Prop :=
  ∀ (s : State) (n : Nat) (j : Job),
    let c := j.card
    let x := s.readPlain j false (jc c 3).toNat 32
    let cid := wBits (dwordAt x.bytes 0) 16 16
    let step := (dwordAt x.bytes 1).toNat
    let extent := (dwordAt x.bytes 2).toNat
    let g := x.s.range j .write false (jc c 1).toNat extent
    let snap : Snap := { job := n, ctx := j.ctx, desc := jc c 3, cid := cid, step := step, extent := extent, dest := jc c 1 }
    (s.startable n 5 0 = some j → x.fail = none → g.fail = none →
      ((x.s.spire.contributed.contains (cid, step) = true ∨ ∃ p ∈ g.ps, p.tt ≠ 2) →
        exec (.snapshotArm n) s = .next (g.s.modJob n fun q => { q with phase := .ending 0x14 0 }))
      ∧ (x.s.spire.contributed.contains (cid, step) = false → (∀ p ∈ g.ps, p.tt = 2) →
        exec (.snapshotArm n) s = .next ({ g.s with snaps := snap :: g.s.snaps }.modJob n fun q => { q with phase := .running })))
    ∧ (s.startable n 5 1 = some j → exec (.snapshotCancel n) s = .next (s.modJob n fun q => { q with phase := .ending 1 0 }))
    ∧ (∀ e d r l card bs s2, s.coh.sb.find? (fun x => x.eid == e.eid) = some e → s.comb? e.comb = some d → s.group? e.comb e.group = some r →
      s.goReady e = true → s.launch? e.launch = some l → l.aborted = false → r.openJobs.length < 4096 → r.card = card.map some →
      jobEng card = 5 → jobOp card = 1 →
      let m := s.clk.serial
      let s1 := (s.bump.modSB fun l => l.filter fun x => x.eid != e.eid).modGroup e.comb e.group fun g => { g with
        card := List.replicate 4 none, openJobs := g.openJobs ++ [{ num := m }] }
      s.acceptBusy e r = false → s1.devRead e.ctx (jc card 3).toNat 32 = .ok (bs, s2) →
      (cardCheck s2 d card bs).rsv = false → (cardCheck s2 d card bs).align = false →
      leNat (e.data.map fun x => x.2) % 2 ^ 64 / 2 ^ 15 = 0 →
        ∃ t, exec (.jobAccept e.eid) s = .next t ∧ (∃ k ∈ t.jobs, k.num = m ∧ k.card = card ∧ k.phase = .waiting)
          ∧ ∀ o ∈ armsOf s2 e.ctx (jc card 3), o.num ≠ m → ∀ k ∈ t.jobs, k.num ≠ o.num)
    ∧ (∀ v p,
      let off := snapBase 1 v.jobs.length
      let bs := s.snapBytes p
      let q := s.spend.range j .write false (v.dest.toNat + off) bs.length
      let d := q.s.range j .write false (v.desc.toNat + 24) 8
      let ws := byteWrites q.ps (v.dest.toNat + off) bs [] ++ byteWrites d.ps (v.desc.toNat + 24) (leBytes 8 (v.drained + 1)) []
      s.snaps = [v] → v.job = n → s.job? n = some j → v.cut = true → v.pages = [p] → p.done = false → s.snapLost p = false →
      q.fail = none → d.fail = none →
        ∃ t, exec (.snapshotPageDrain n) s = .next t ∧ (∀ y ∈ t.snaps, y.job ≠ n)
          ∧ ∃ u : State, u = ws.foldl (fun s w => s.landHome (hiveOf j.core) w.data) d.s ∧ t.mem = u.mem
            ∧ (u.snaps = [v] → (t.job? n).map (fun k => (k.phase, k.owed)) = (u.job? n).map fun k => (.ending 1 0, k.owed - (bs.length + 8))))

/-- What reaches the device from the pod and from the host's links (R298, R302, R321, R330 to R332): a member's message
about a pod barrier is performed at the barrier's home, where completion is tested, or answered when the context is disabled
there; the home's message is told to the member whose PHOME names the home (what a member learns of a barrier that is gone
or back is log 108, the model's choice); a remote access within a line is translated again and performed at its home; a host
access to tower memory reads or writes its bytes, none with both links down (log 92, DEDUCED); links go down and come back. The
message of a member that waits is log 70 (DESIGN CHOICE), and that an init clears a member's view of a break log 71 (DEDUCED).
 With PODEN = 0 no pod traffic is carried. -/
def Obligations.PodAndHostEvents : Prop :=
  ∀ (s : State),
    (∀ m, s.dev.astate.toNat < 3 → s.dev.poden = true → m.n < 16 →
      (∀ x, s.roused.ctxWith m.asid = some x →
        let told := fun (f : PodView → PodView) => (Host.Outcome.next (s.roused.modPodView x m.n fun v => { f v with told := true }) : Out State)
        let entry := getAt (s.ctx x).pods m.n
        (m.kind ≠ .wait → exec (.podArrivalMessage m) s = .next ((s.roused.noteUser x m.n m.dev true).podChange x m.n fun b =>
          { b with pending := b.pending + m.bytes, arrived := b.arrived + BitVec.ofNat 32 m.count }))
        ∧ (m.kind = .wait → exec (.podArrivalMessage m) s = .next (s.roused.podWaits m x))
        ∧ (m.kind ≠ .reset → exec (.podInitMessage m) s
            = .next (s.roused.podChange x m.n fun b => { b with expect := BitVec.ofNat 32 m.count, broken := false }))
        ∧ exec (.podPendingMessage m) s = .next (s.roused.podChange x m.n fun b => { b with pending := b.pending - m.bytes })
        ∧ exec (.podBreakMessage m) s = .next ((s.roused.noteUser x m.n m.dev false).podBreakHome x m.n)
        ∧ (entry.pv = true → entry.phome.toNat = m.dev →
          (m.kind = .reset → exec (.podInitMessage m) s = told fun v => { n := m.n, phase := m.phase, waited := v.waited })
          ∧ exec (.podCompletionMessage m) s = told (fun v => { v with phase := m.phase })
          ∧ (m.kind ≠ .gone → exec (.podBreakNotice m) s = told (fun v => { v with broken := true }))
          ∧ (m.kind = .gone → exec (.podBreakNotice m) s = told (fun v => { v with gone := true })))
        ∧ (¬ (entry.pv = true ∧ entry.phome.toNat = m.dev) →
          exec (.podCompletionMessage m) s = .next s.roused ∧ exec (.podBreakNotice m) s = .next s.roused))
      ∧ (s.roused.ctxWith m.asid = none → ∀ i ∈ [Instr.podArrivalMessage m, .podPendingMessage m, .podBreakMessage m],
          exec i s = .next (s.roused.podGone m.asid m.n m.dev)))
    ∧ (∀ m x p, s.dev.astate.toNat < 3 → s.dev.poden = true → m.n < 16 → m.kind ≠ .wait → s.roused.ctxWith m.asid = some x →
      x < s.ctxs.length → (s.ctx x).podBars.find? (fun y => y.n == m.n) = some p →
        let arrived := p.bar.arrived + BitVec.ofNat 32 m.count
        let pending := p.bar.pending + m.bytes
        ∃ t q, exec (.podArrivalMessage m) s = .next t ∧ (t.ctx x).podBars.find? (fun y => y.n == m.n) = some q
          ∧ (p.bar.expect ≤ arrived ∧ pending = 0 → q.bar.phase = p.bar.phase + 1 ∧ q.bar.arrived = arrived - p.bar.expect ∧ q.phased = []
              ∧ (∀ d ∈ m.dev :: p.phased, d ≠ s.dev.devid.toNat →
                  ∃ o, (d, o) ∈ t.spire.podOut ∧ o.kind = .completion ∧ o.n = m.n ∧ o.phase = p.bar.phase + 1))
          ∧ (¬ (p.bar.expect ≤ arrived ∧ pending = 0) → q.bar.phase = p.bar.phase ∧ q.bar.arrived = arrived ∧ q.bar.pending = pending))
    ∧ (∀ t x k s1, s.dev.astate.toNat < 3 → s.dev.poden = true → t.coded = false → 1 ≤ t.size → t.va % 128 + t.size ≤ 128 →
      t.va + t.size ≤ 2 ^ 56 → s.roused.ctxWith t.asid = some x →
      s.roused.keysVa x 0 (State.remoteNeed t.kind) s.freeHive 2 t.va t.size = .ok ([(k, t.size)], s1) →
      (keyRegion k = 0 ∨ keyRegion k = 4 ∨ keyRegion k = 5) → s1.snaps = [] → s1.MemOk → (∀ i < t.size, s1.Plain (k + i)) →
        ∃ u, exec (.remoteTransaction t) s = .next u
          ∧ (t.kind = .load → u.mem = s1.mem)
          ∧ (t.kind = .store → t.side = [] → t.bytes.length = t.size → u.bytesAt k t.size = t.bytes)
          ∧ (∀ op a, t.kind = .atomic op a → t.size = 8 → keyRegion k = 0 → u.natAt k 8 = atomNew op 64 (s1.natAt k 8) a.toNat)
          ∧ (∀ o v, t.kind = .cas o v → t.size = 8 → u.natAt k 8 = if s1.natAt k 8 = o.toNat then v.toNat else s1.natAt k 8)
          ∧ (∀ y, (y < k ∨ k + t.size ≤ y) → t.side = [] → u.mem.get y = s1.mem.get y))
    ∧ (∀ a, s.dev.astate.toNat < 3 → s.dev.link0 = true ∨ s.dev.link1 = true → s.dev.fwstat = 2 → a.addr < 2 ^ 39 →
      a.addr % 2 ^ 36 + a.size ≤ 60 * 2 ^ 30 →
        (a.write = false → exec (.hostMemAccess a) s = .next s.roused ∧ s.hostReads a = some (s.bytesAt (kTower a.addr) a.size))
        ∧ (a.write = true → a.bytes.length = a.size → s.snaps = [] → s.MemOk → (∀ i < a.size, s.Plain (kTower a.addr + i)) →
          ∃ u, exec (.hostMemAccess a) s = .next u ∧ u.bytesAt (kTower a.addr) a.size = a.bytes
            ∧ (∀ y, (y < a.addr ∨ a.addr + a.size ≤ y) → u.mem.get y = s.mem.get y) ∧ u.ctxs = s.ctxs ∧ u.jobs = s.jobs))
    ∧ (∀ a, s.dev.link0 = false → s.dev.link1 = false → exec (.hostMemAccess a) s = .next s ∧ s.hostReads a = none)
    ∧ (∀ k, keyRegion k = 4 → s.reaches k = (s.dev.link0 || s.dev.link1))
    ∧ exec (.linkDown 0) s = .next { s with dev := { s.dev with link0 := false } }
    ∧ exec (.linkDown 1) s = .next { s with dev := { s.dev with link1 := false } }
    ∧ exec (.linkUp 0) s = .next { s with dev := { s.dev with link0 := true } }
    ∧ exec (.linkUp 1) s = .next { s with dev := { s.dev with link1 := true } }
    ∧ (∀ m t, s.dev.astate.toNat < 3 → s.dev.poden = false → ∀ i ∈ [Instr.podArrivalMessage m, .podInitMessage m, .podPendingMessage m,
        .podCompletionMessage m, .podBreakMessage m, .podBreakNotice m, .remoteTransaction t], exec i s = .next s.roused)

/-! ### Registers, contexts, retirement, power and boot -/

/-- Registers and contexts (R6, R27, R134, R168, R171, R208, R322 to R324, R328, R329, R331, R350, R353): the device page
lies at 0x00000 of BAR0 and context c's at 0x10000 + 0x1000·c, and a write to a register with a behaviour of its own is that
event; an aligned 8-byte write to a register of the device page or of a context's page stores the bits that the register has, and nothing at an
offset that has no writable register (DEVID, RWSPLIT, FWCMD and ACMD have events of their own), nor at one of the five that
a context fixes while EN is 1; any other write is dropped and any other read gives all ones; a read gives a register's
value, zero in its reserved bits and for a write-only register; EN creates a context with a free ASID, and its end frees
its pages (the ASID that a refused enable stores, and the mark of a context enabled again, are log 67, DEDUCED); an invalidation
runs until it is complete; a retirement sets its RETIRED bit, names the lines to be rebuilt (those that R327's formula moves,
of other channels too: log 89, DEDUCED) and is recorded for every enabled context, and a rebuilt line counts off. -/
def Obligations.RegisterAndContextEvents : Prop :=
  ∀ (s : State) (c : Nat) (v : W64), s.ctxs.length = 64 →
    let n := v.toNat
    let w := s.roused
    let D := w.dev
    let X := s.ctx c
    let pod : PodReg := { pexp := BitVec.ofNat 32 (n / 2 ^ 32), pv := v.getLsbD 31, phome := v.setWidth 10 }
    let at_ := fun (off : Nat) => (⟨0x10000 + 0x1000 * c + off, 8⟩ : RegSpan)
    let host := fun (off : Nat) (d : Dev) => exec (.registerWrite off 8 v) s = .next { w with dev := d }
    let page := fun (i : Instr) (x : Ctx) => exec i s = .next (w.modCtx c fun _ => x)
    let reg := fun (off : Nat) (x : Ctx) => page (.registerWrite (at_ off).off 8 v) x
    (s.dev.astate.toNat < 3 →
      host 0x010 { D with ltol := v.setWidth 32 } ∧ host 0x020 { D with pwrlim := BitVec.ofNat 16 (min 2900 (n % 65536)) }
      ∧ host 0x028 { D with tmodef := if n % 2 ^ 32 = 0 then 1 else v.setWidth 32 }
      ∧ host 0x030 { D with lcthr := BitVec.ofNat 7 (min 64 (n % 128)) }
      ∧ host 0x100 { D with fwaddr := v } ∧ host 0x108 { D with fwlen := v.setWidth 32 }
      ∧ (∀ i < 4, host (0x120 + 8 * i) { D with anonce := setAt D.anonce i v })
      ∧ host 0x140 { D with arpt := v }
      ∧ (∀ off < 0x1000, off ∉ [0x010, 0x020, 0x028, 0x030, 0x100, 0x108, 0x120, 0x128, 0x130, 0x138, 0x140] → host off D)
      ∧ (∀ off, (0x1000 ≤ off ∧ off < 0x10000) ∨ 0x50000 ≤ off → host off D)
      ∧ (∀ off size, size ≠ 8 ∨ off % 8 ≠ 0 → exec (.registerWrite off size v) s = .next w
          ∧ s.readReg ⟨off, size⟩ = some (BitVec.allOnes 64))
      ∧ s.readReg ⟨0x000, 8⟩ = some 3
      ∧ s.readReg ⟨0x008, 8⟩ = some (BitVec.ofNat 64 ((if s.dev.poden then 65536 else 0) + s.dev.devid.toNat))
      ∧ (∀ x ∈ [(0x010, 0xFFFFFFFF), (0x100, 0xFFFFFFFFFFFFFFFF), (0x108, 0xFFFFFFFF), (0x140, 0xFFFFFFFFFFFFFFFF)],
          ∃ t, exec (.registerWrite x.1 8 v) s = .next t ∧ t.readReg ⟨x.1, 8⟩ = some (v &&& BitVec.ofNat 64 x.2))
      ∧ exec (.devidWrite v) s = .next { w with
          dev := { D with poden := v.getLsbD 16, devid := if s.dev.poden then s.dev.devid else v.setWidth 10 }
          spire := if v.getLsbD 16 then { s.spire with
              podOut := s.spire.podHeld.reverse ++ s.spire.podOut, podHeld := []
              sent := s.spire.packHeld.reverse ++ s.spire.sent, packHeld := []
              verdicts := s.spire.verdHeld.reverse ++ s.spire.verdicts, verdHeld := [] } else s.spire }
      ∧ exec (.rwsplitWrite v) s = .next { w with dev := { D with rwsplit := v.setWidth 16 } })
    ∧ (c < 64 →
      let low := n % 4
      regEvent ⟨0x008, 8⟩ v = .devidWrite v ∧ regEvent ⟨0x038, 8⟩ v = .rwsplitWrite v ∧ regEvent ⟨0x110, 8⟩ v = .firmwareVerifyRun v
      ∧ regEvent ⟨0x148, 8⟩ v = .writeReport v
      ∧ regEvent (at_ 0x000) v = (if v.getLsbD 63 then .contextEnable c v else .contextDisable c v)
      ∧ regEvent (at_ 0x028) v = (if v.getLsbD 0 then .invalidateAll c else .invalidatePage c v)
      ∧ regEvent (at_ 0x110) v = .lqprodWrite c v
      ∧ (low = 1 → regEvent (at_ 0x158) v = .loaderLoad c v ∧ regEvent (at_ 0x1F0) v = .preemptSave c)
      ∧ (low = 2 → regEvent (at_ 0x158) v = .loaderUnload c v ∧ regEvent (at_ 0x1F0) v = .preemptRestore c)
      ∧ (∀ k < 4, regEvent (at_ (0x170 + 8 * k)) v = .polkeyWrite c k v))
    ∧ (s.Exposes c →
      (X.en = true → ∀ off ∈ [0x008, 0x010, 0x018, 0x038, 0x040], reg off X)
      ∧ (X.en = false → reg 0x008 { X with ptroot := BitVec.ofNat 64 (n % 2 ^ 39 / 4096 * 4096) }
        ∧ reg 0x010 { X with poolmax := v.setWidth 32 } ∧ reg 0x018 { X with resmax := v.setWidth 32 }
        ∧ reg 0x038 { X with swapbase := BitVec.ofNat 64 (n % 2 ^ 56 / 65536 * 65536) } ∧ reg 0x040 { X with swaplen := v.setWidth 32 })
      ∧ reg 0x100 { X with lqbase := BitVec.ofNat 64 (n % 2 ^ 56 / 128 * 128) }
      ∧ reg 0x120 { X with ccbase := BitVec.ofNat 64 (n % 2 ^ 56 / 2 ^ 15 * 2 ^ 15) }
      ∧ reg 0x140 { X with objaddr := BitVec.ofNat 64 (n % 2 ^ 56) } ∧ reg 0x148 { X with objlen := v.setWidth 32 }
      ∧ reg 0x150 { X with imgbase := BitVec.ofNat 64 (n % 2 ^ 56 / 65536 * 65536) } ∧ reg 0x168 { X with sigreq := v.getLsbD 0 }
      ∧ reg 0x1A0 { X with ctxtv := v } ∧ reg 0x1C0 { X with frbase := BitVec.ofNat 64 (n % 2 ^ 56 / 64 * 64) }
      ∧ reg 0x1C8 { X with frlog := v.setWidth 5 } ∧ reg 0x1D8 { X with frcons := v.setWidth 32 }
      ∧ reg 0x200 { X with savebase := BitVec.ofNat 64 (n % 2 ^ 56 / 65536 * 65536) }
      ∧ reg 0x220 { X with spap := BitVec.ofNat 28 (n / 2 ^ 28) } ∧ reg 0x228 { X with stkap := BitVec.ofNat 26 (n / 2 ^ 30) }
      ∧ (∀ i < 16, reg (0x240 + 8 * i) { X with
          pods := setAt X.pods i pod
          podViews := if (getAt X.pods i).phome == pod.phome then X.podViews else X.podViews.filter fun v => v.n != i })
      ∧ (X.lqstop = .run → (n % 32 < 4 ∨ 16 < n % 32 ∨ (X.lqprod - X.lqcons).toNat ≤ 2 ^ (n % 32)) → reg 0x108 { X with lqlog := v.setWidth 5 })
      ∧ (∀ x ∈ [(0x100, 0x00FFFFFFFFFFFF80), (0x120, 0x00FFFFFFFFFF8000), (0x140, 0x00FFFFFFFFFFFFFF), (0x148, 0xFFFFFFFF),
            (0x150, 0x00FFFFFFFFFF0000), (0x168, 1), (0x1A0, 0xFFFFFFFFFFFFFFFF), (0x1C0, 0x00FFFFFFFFFFFFC0), (0x1C8, 0x1F),
            (0x1D8, 0xFFFFFFFF), (0x200, 0x00FFFFFFFFFF0000), (0x220, 0x00FFFFFFF0000000), (0x228, 0x00FFFFFFC0000000)],
          ∃ t, exec (.registerWrite (at_ x.1).off 8 v) s = .next t ∧ t.readReg (at_ x.1) = some (v &&& BitVec.ofNat 64 x.2))
      ∧ (∀ off ∈ [0x028, 0x158, 0x1F0], s.readReg (at_ off) = some 0)
      ∧ (∀ k < 4, ∃ t e, exec (.polkeyWrite c k v) s = .next t ∧ getAt (t.ctx c).polkey k = (if k < X.polkey.length then v else 0)
          ∧ t.dev.events = s.dev.events ++ [e] ∧ e.take 16 = leBytes 8 4 ++ leBytes 8 X.asid.toNat
          ∧ t.dev.measure = sha512 (s.dev.measure ++ sha512 e))
      ∧ (v.getLsbD 63 = true → X.en = false →
        let a := n % 65536
        let taken := ∃ k < 64, k ≠ c ∧ (s.ctx k).en = true ∧ (s.ctx k).asid.toNat = a
        (taken → ∃ t, exec (.contextEnable c v) s = .next t ∧ t.ctxs = (s.modCtx c fun x => { x with asid := v.setWidth 16 }).ctxs ∧ t.mem = s.mem)
        ∧ (¬ taken → ∃ t e, exec (.contextEnable c v) s = .next t ∧ (t.ctx c).en = true ∧ (t.ctx c).asid = v.setWidth 16
            ∧ (∀ i < 16, (t.ctx c).podBars.find? (fun y => y.n == i) = some { n := i, bar := { expect := (getAt X.pods i).pexp } })
            ∧ ((t.ctx c).reviving = true ↔ ∃ l ∈ s.launches, l.ctx = c)
            ∧ (∀ k, k ≠ c → t.ctx k = s.ctx k) ∧ t.mem = s.mem ∧ t.dev.events = s.dev.events ++ [e]
            ∧ e.take 16 = leBytes 8 2 ++ leBytes 8 a ∧ t.dev.measure = sha512 (s.dev.measure ++ sha512 e)))
      ∧ (v.getLsbD 63 = false → X.en = true → (∀ l ∈ s.launches, l.ctx ≠ c) →
        ∃ t, exec (.contextDisable c v) s = .next t ∧ (t.ctx c).en = false ∧ (t.ctx c).podBars = [] ∧ (t.ctx c).held = []
          ∧ (t.ctx c).poolused = 0 ∧ ∀ h ∈ X.held, h.tower ∉ t.pages)
      ∧ (v.getLsbD 63 = false → X.en = false → page (.contextDisable c v) { X with asid := v.setWidth 16 })
      ∧ (v.getLsbD 0 = false → X.inval = none → page (.invalidatePage c v) { X with inval := some (some (n / 2 ^ 16 % 2 ^ 40)) })
      ∧ page (.invalidateAll c) { X with inval := some none })
    ∧ (∀ p, X.inval = some (some p) → ∃ t, exec (.invalidationComplete c) s = .next t ∧ (c < 64 → (t.ctx c).inval = none) ∧ t.mem = s.mem
        ∧ (∀ y ∈ t.coh.tlb, ¬ (y.asid = X.asid.toNat ∧ y.page = p)) ∧ ∀ y ∈ t.coh.tlb, y ∈ s.coh.tlb)
    ∧ (X.inval = some none → ∃ t, exec (.invalidationComplete c) s = .next t ∧ (c < 64 → (t.ctx c).inval = none) ∧ t.mem = s.mem
        ∧ t.coh.tlb = s.coh.tlb.filter fun y => y.asid != X.asid.toNat)
    ∧ (∀ t p,
      let old := getAt s.dev.retired t
      let new := old ||| BitVec.ofNat 64 (2 ^ p)
      let moves := fun (l : Nat) => l < 60 * 2 ^ 23 ∧ channelOf old (128 * l) ≠ channelOf new (128 * l)
      let rec_ : FaultRec := { code := 0x21, info := BitVec.ofNat 64 (64 * t + p) }
      t < 8 → p < 64 → old.getLsbD p = false →
        (∃ u, exec (.channelRetire t p) s = .next (((List.range 64).filter fun k => (s.ctx k).en).foldl (fun u k => u.hostRecord k rec_) u)
          ∧ u.dev.retired = setAt s.dev.retired t new ∧ u.mem = s.mem ∧ u.ctxs = s.ctxs
          ∧ (∀ x l, (x, l) ∈ u.dev.stale ↔ (x = t ∧ moves l) ∨ (x, l) ∈ s.dev.stale)
          ∧ ∀ x < 8, getAt u.dev.rebuild x = BitVec.ofNat 32 (u.dev.stale.filter fun y => y.1 == x).length)
        ∧ (∀ tt k, (∀ i < 64, (s.ctx i).en = true ↔ i = c) → 4 ≤ X.frlog.toNat → X.frlog.toNat ≤ 12 → s.devWaits c = false →
          (X.frprod - X.frcons).toNat ≠ 2 ^ X.frlog.toNat → s.xlate c 0 (BitVec.ofNat 64 (s.recordVa c)) .write = .ok tt k →
          tt ≠ 4 → tt ≠ 5 → tt ≠ 6 → keyRegion k < 7 → s.recordVa c + 64 ≤ 2 ^ 56 → s.dev.lost = [] → s.dev.stale = [] → s.snaps = [] →
          s.MemOk → (∀ i < 64, s.Plain (k + i)) → c < 64 →
            ∃ u, exec (.channelRetire t p) s = .next u ∧ u.bytesAt k 64 = State.recordBytes rec_ ∧ (u.ctx c).frprod = X.frprod + 1))
    ∧ (∀ t l, (t, l) ∈ s.dev.stale → t < 8 → s.heldIn t ≤ s.capacity t →
        ∃ u, exec (.lineRebuild t l) s = .next u ∧ u.mem = s.mem ∧ (t, l) ∉ u.dev.stale ∧ (∀ y, y ≠ (t, l) → (y ∈ u.dev.stale ↔ y ∈ s.dev.stale))
          ∧ getAt u.dev.rebuild t = BitVec.ofNat 32 (u.dev.stale.filter fun y => y.1 == t).length)

/-- Retirement and rebuild, power, boot and attestation (R328, R329, R347, R349 to R351): a second failure in a parity group
that still has a line to rebuild makes the group uncorrectable (which lines form one is log 16), and a line waits to be
rebuilt while its tower holds more pages than it now has room for; an idle device goes to the deepest state that LTOL
allows (A4, whose wake time the spec does not give, by a free value: log 97), and in A3 keeps its towers alone; A1 and A2
end with anything from outside; a power-on ends A3 and A4; a reset leaves the reset values; FWCMD starts the verification
of the image, whose outcome is FWSTAT; ACMD asks for a report, which is written at ARPT. The model's own here are also what A3
loses (log 95), what a reset keeps (logs 96 and 3), FWCMD at FWSTAT 1 and 2 (log 91), ARPT's rounding (log 93), ACMD while ASTAT
is 1 (log 94), the digest that event 1 measures (log 98) and the host's commands among the pending accesses (log 107). -/
def Obligations.PowerAndFirmwareEvents : Prop :=
  ∀ (s : State),
    let l := s.dev.ltol.toNat
    let off := s.dev.poden = false ∧ ∃ w, Config.offWake = some w ∧ w ≤ l
    let lost := fun (t : State) (towers : Bool) => t.ctxs = State.reset.ctxs ∧ t.launches = [] ∧ t.combs = [] ∧ t.jobs = [] ∧ t.pages = []
      ∧ t.coh = {} ∧ t.spire = {} ∧ t.cores = {} ∧ t.flights = [] ∧ t.snaps = []
      ∧ (∀ k, keyRegion k = 4 → t.mem.get k = s.mem.get k)
      ∧ (∀ k, keyRegion k ≤ 1 → t.mem.get k = if towers then s.mem.get k else Memory.dflt k)
    (∀ t p, t < 8 → p < 64 → (getAt s.dev.retired t).getLsbD p = false → (∀ c < 64, (s.ctx c).en = false) →
      ∃ u, exec (.channelRetire t p) s = .next u
        ∧ ∀ x g, (x, g) ∈ u.dev.lost ↔ (x, g) ∈ s.dev.lost ∨ (x = t ∧ Config.groupOn t g p = true
            ∧ ∃ k, (t, k) ∈ s.dev.stale ∧ Config.parityGroup t k = g))
    ∧ (∀ t k, s.uncorrectable k = true → keyRegion k = 0 → t = towerOf k → (t, Config.parityGroup t (keyAddr k % 2 ^ 36 / 128)) ∈ s.dev.lost)
    ∧ (∀ t k,
      let u := s.shrink t ((s.ctxs.map fun x => x.held.length).sum)
      (t, k) ∈ s.dev.stale → u.dev = s.dev → u.capacity t < u.heldIn t → exec (.lineRebuild t k) s = .next u)
    ∧ (∀ t k, (t, k) ∉ s.dev.stale → exec (.lineRebuild t k) s = .next s)
    ∧ (s.idle = true ↔ s.combs = [] ∧ s.jobs = [] ∧ s.spire.slots = [] ∧ (∀ n ∈ s.snaps, n.cut = false) ∧ s.hostPending = false)
    ∧ (s.idle = true → s.dev.astate = 0 →
      (¬ off → 2 ≤ l → l < 80 → exec .idleEntry s = .next { s with dev := { s.dev with astate := 1 } })
      ∧ (¬ off → 80 ≤ l → (l < 6000 ∨ s.dev.poden = true) → exec .idleEntry s = .next { s with dev := { s.dev with astate := 2 } })
      ∧ (¬ off → 6000 ≤ l → s.dev.poden = false → s.MemOk → ∃ t, exec .idleEntry s = .next t ∧ lost t true
          ∧ t.dev = { Dev.reset with astate := 3, link0 := s.dev.link0, link1 := s.dev.link1 })
      ∧ (off → s.MemOk → ∃ t, exec .idleEntry s = .next t ∧ lost t false
          ∧ t.dev = { Dev.reset with astate := 4, link0 := s.dev.link0, link1 := s.dev.link1 }))
    ∧ (s.dev.astate.toNat < 3 → exec .wake s = .next s.roused) ∧ (3 ≤ s.dev.astate.toNat → exec .wake s = .next s)
    ∧ (s.dev.astate = 3 → exec .powerOn s = .next s.roused)
    ∧ (s.dev.astate = 4 → s.MemOk → ∃ t, exec .powerOn s = .next t ∧ lost t false ∧ t.dev.astate = 0 ∧ t.dev.fwstat = 0)
    ∧ (s.MemOk → ∃ t, exec .deviceReset s = .next t ∧ lost t false ∧ t.dev = { Dev.reset with link0 := s.dev.link0, link1 := s.dev.link1 })
    ∧ (∀ v : W64, s.dev.astate.toNat < 3 →
      let D := { s.roused.dev with fwcmd := v.setWidth 8 }
      (v.toNat % 256 = 1 → s.dev.fwstat ≠ 1 → s.dev.fwstat ≠ 2 →
        exec (.firmwareVerifyRun v) s = .next { s with dev := { D with fwstat := 1, fwRun := some (s.dev.fwaddr, s.dev.fwlen) } })
      ∧ (v.toNat % 256 ≠ 1 ∨ s.dev.fwstat = 1 ∨ s.dev.fwstat = 2 → exec (.firmwareVerifyRun v) s = .next { s with dev := D }))
    ∧ (∀ a n, s.dev.fwRun = some (a, n) →
      let img := s.bytesAt (kHost a.toNat) n.toNat
      let pub := (img.drop 32).take 32
      let ends := fun (st : Byte) => exec .firmwareVerifyDone s = .next { s with dev := { s.dev with fwstat := st, fwRun := none } }
      let good := sha512 pub = (List.range 64).map Config.fwKeyDigest
      (n.toNat < 128 ∨ img.take 4 ≠ [0x46, 0x57, 0x4E, 0x33] → ends 0x40)
      ∧ (128 ≤ n.toNat → img.take 4 = [0x46, 0x57, 0x4E, 0x33] →
        (¬ good → ends 0x41)
        ∧ (good → edVerify pub (sha512 (img.drop 128)) ((img.drop 64).take 64) = false → ends 0x42)
        ∧ (good → edVerify pub (sha512 (img.drop 128)) ((img.drop 64).take 64) = true →
          ∃ t e, exec .firmwareVerifyDone s = .next t ∧ t.dev.fwstat = 2 ∧ t.dev.fwRun = none ∧ t.mem = s.mem ∧ t.dev.events = s.dev.events ++ [e]
            ∧ t.dev.measure = sha512 (s.dev.measure ++ sha512 e) ∧ e.take 8 = leBytes 8 1 ∧ (e.drop 16).take 64 = sha512 (img.drop 128))))
    ∧ (∀ v : W64, s.dev.astate.toNat < 3 →
        exec (.writeReport v) s = .next { s with dev := { s.roused.dev with
          acmd := v.setWidth 8, astat := if v.toNat % 256 = 1 then 1 else s.dev.astat } })
    ∧ (s.dev.astat = 1 → s.snaps = [] → s.MemOk →
      let body := leBytes 8 1 ++ leBytes 8 s.dev.devid.toNat ++ (List.range 16).map Config.serial ++ s.dev.measure
        ++ leBytes 8 s.dev.events.length ++ (s.dev.anonce.map fun w => leBytes 8 w.toNat).flatten
      let report := body ++ edSign State.idSeed (sha512 body) ++ s.dev.events.flatten
      let at_ := kHost (s.dev.arpt.toNat / 64 * 64)
      ∃ t, exec .reportWritten s = .next t ∧ t.dev.astat = 2 ∧ t.bytesAt at_ report.length = report
        ∧ (∀ k, (k < at_ ∨ at_ + report.length ≤ k) → t.mem.get k = s.mem.get k))
end

