-- ==== Sys2Proof/Laws/Memory.lean ====
section
/-! SUPPORT. The canonical form of memory: every operation keeps it, and what a read finds after a write. -/

namespace Sys2Proof.Machine.Memory

/-- A bound is below every key of a list. -/
def Above (lo : Option Nat) (k : Nat) : Prop := match lo with | none => True | some l => l < k

theorem wfFrom_cons {lo : Option Nat} {k : Nat} {b : Byte} {cs : List Host.Cell} :
    wfFrom lo ((k, b) :: cs) = true ↔ Above lo k ∧ dflt k ≠ some b ∧ wfFrom (some k) cs = true := by
  cases lo <;> simp [wfFrom, Above, and_assoc]

theorem wfFrom_mono {lo lo' : Option Nat} {cs : List Host.Cell} (h : ∀ k, Above lo k → Above lo' k)
    (w : wfFrom lo cs = true) : wfFrom lo' cs = true := by
  cases cs with
  | nil => rfl
  | cons c cs =>
    obtain ⟨k, b⟩ := c
    rw [wfFrom_cons] at w ⊢
    exact ⟨h k w.1, w.2⟩

theorem above_of_lt {a b k : Nat} (h : a < b) (hk : Above (some b) k) : Above (some a) k := Nat.lt_trans h hk

/-- Every listed key is above the bound. -/
theorem above_of_mem {lo : Option Nat} {cs : List Host.Cell} (w : wfFrom lo cs = true) {c : Host.Cell} (h : c ∈ cs) :
    Above lo c.1 := by
  induction cs generalizing lo with
  | nil => cases h
  | cons d cs ih =>
    obtain ⟨k, b⟩ := d
    rw [wfFrom_cons] at w
    rcases List.mem_cons.mp h with rfl | h
    · exact w.1
    · have := ih w.2.2 h
      cases lo with
      | none => trivial
      | some l => exact Nat.lt_trans w.1 this

/-- A part of a canonical list is canonical. -/
theorem wfFrom_filter {lo : Option Nat} {cs : List Host.Cell} (p : Host.Cell → Bool) (w : wfFrom lo cs = true) :
    wfFrom lo (cs.filter p) = true := by
  induction cs generalizing lo with
  | nil => rfl
  | cons d cs ih =>
    obtain ⟨k, b⟩ := d
    rw [wfFrom_cons] at w
    rw [List.filter_cons]
    split
    · exact wfFrom_cons.mpr ⟨w.1, w.2.1, ih w.2.2⟩
    · refine ih (wfFrom_mono (fun j hj => ?_) w.2.2)
      cases lo with
      | none => trivial
      | some l => exact Nat.lt_trans w.1 hj

theorem wfFrom_put {lo : Option Nat} {cs : List Host.Cell} {k : Nat} {b : Byte} (hk : Above lo k) (hb : dflt k ≠ some b)
    (w : wfFrom lo cs = true) : wfFrom lo (put k b cs) = true := by
  induction cs generalizing lo with
  | nil => exact wfFrom_cons.mpr ⟨hk, hb, rfl⟩
  | cons d cs ih =>
    obtain ⟨j, c⟩ := d
    rw [wfFrom_cons] at w
    unfold put
    split
    · next h => subst h; exact wfFrom_cons.mpr ⟨hk, hb, w.2.2⟩
    · split
      · next h => exact wfFrom_cons.mpr ⟨hk, hb, wfFrom_cons.mpr ⟨h, w.2.1, w.2.2⟩⟩
      · next h1 h2 => exact wfFrom_cons.mpr ⟨w.1, w.2.1, ih (show j < k by omega) w.2.2⟩

/-- Writing a byte keeps the canonical form. -/
theorem wf_set (m : Memory) (k : Nat) (b : Byte) (w : m.wf = true) : (m.set k b).wf = true := by
  unfold wf set
  dsimp only
  split
  · exact wfFrom_filter _ w
  · next h => exact wfFrom_put trivial h w

/-- Writing bytes keeps the canonical form. -/
theorem wf_setAll (m : Memory) (l : List (Nat × Byte)) (w : m.wf = true) : (m.setAll l).wf = true := by
  induction l generalizing m with
  | nil => exact w
  | cons d l ih => exact ih _ (wf_set m d.1 d.2 w)

/-- Forgetting a range keeps the canonical form. -/
theorem wf_clear (m : Memory) (a n : Nat) (w : m.wf = true) : (m.clear a n).wf = true := wfFrom_filter _ w

/-- Copying a range keeps the canonical form. -/
theorem wf_copy (m : Memory) (a b n : Nat) (w : m.wf = true) : (m.copy a b n).wf = true :=
  wf_setAll _ _ (wf_clear _ _ _ w)

/-- Copying a page keeps the canonical form. -/
theorem wf_copyPage (m : Memory) (a b c d n : Nat) (w : m.wf = true) : (m.copyPage a b c d n).wf = true :=
  wf_copy _ _ _ _ (wf_copy _ _ _ _ w)

/-! ### Reading after writing -/

theorem find_put_same (k : Nat) (b : Byte) (cs : List Host.Cell) : find k (put k b cs) = some b := by
  induction cs with
  | nil => simp [put, find]
  | cons d cs ih =>
    obtain ⟨j, c⟩ := d
    unfold put
    split
    · simp [find]
    · split
      · simp [find]
      · next h1 h2 => simp [find, h1, h2, ih]

theorem find_put_other {k j : Nat} (h : j ≠ k) (b : Byte) (cs : List Host.Cell) : find j (put k b cs) = find j cs := by
  induction cs with
  | nil => simp [put, find, Ne.symm h]
  | cons d cs ih =>
    obtain ⟨i, c⟩ := d
    unfold put
    split
    · next e => subst e; simp [find, Ne.symm h]
    · split
      · next e1 e2 =>
        simp only [find, Ne.symm h, if_false]
        by_cases hj : j < k
        · have : j ≠ i := by omega
          have : j < i := by omega
          simp [hj, Ne.symm ‹j ≠ i›, this]
        · simp [hj]
      · simp only [find, ih]

theorem find_none_of_above {cs : List Host.Cell} {k : Nat} (w : wfFrom (some k) cs = true) : find k cs = none := by
  cases cs with
  | nil => rfl
  | cons d cs =>
    obtain ⟨j, c⟩ := d
    rw [wfFrom_cons] at w
    have : k < j := w.1
    simp [find, this, Nat.ne_of_gt this]

theorem find_drop_same {lo : Option Nat} {cs : List Host.Cell} (k : Nat) (w : wfFrom lo cs = true) : find k (drop k cs) = none := by
  induction cs generalizing lo with
  | nil => rfl
  | cons d cs ih =>
    obtain ⟨j, c⟩ := d
    rw [wfFrom_cons] at w
    simp only [drop, List.filter_cons]
    split
    · next h =>
      have hj : j ≠ k := by simpa using h
      simp only [find, hj, if_false]
      split
      · rfl
      · exact ih w.2.2
    · exact ih w.2.2

theorem find_filter_other {lo : Option Nat} {cs : List Host.Cell} (p : Host.Cell → Bool) (k : Nat)
    (hp : ∀ b, p (k, b) = true) (w : wfFrom lo cs = true) : find k (cs.filter p) = find k cs := by
  induction cs generalizing lo with
  | nil => rfl
  | cons d cs ih =>
    obtain ⟨j, c⟩ := d
    rw [wfFrom_cons] at w
    rw [List.filter_cons]
    by_cases hjk : j = k
    · subst hjk; simp [hp, find]
    · have ih' := ih w.2.2
      split
      · simp only [find, hjk, if_false, ih']
      · rw [ih']
        simp only [find, hjk, if_false]
        split
        · next hlt =>
          have := wfFrom_mono (lo := some j) (lo' := some k) (fun i (hi : j < i) => Nat.lt_trans hlt hi) w.2.2
          exact find_none_of_above this
        · rfl

/-- A read of the byte just written gives it. -/
theorem get_set_same (m : Memory) (k : Nat) (b : Byte) (w : m.wf = true) : (m.set k b).get k = some b := by
  unfold get set
  by_cases h : dflt k = some b
  · simp [h, find_drop_same k w]
  · simp [h, find_put_same]

/-- A write leaves every other byte alone. -/
theorem get_set_other (m : Memory) {k j : Nat} (h : j ≠ k) (b : Byte) (w : m.wf = true) : (m.set k b).get j = m.get j := by
  unfold get set
  by_cases hd : dflt k = some b
  · have : find j (drop k m.cells) = find j m.cells := find_filter_other _ j (by simp [h]) w
    simp [hd, this]
  · simp [hd, find_put_other h]

/-- Bytes that a list of writes does not name are left alone. -/
theorem get_setAll_other (m : Memory) (l : List (Nat × Byte)) (j : Nat) (h : ∀ d ∈ l, d.1 ≠ j) (w : m.wf = true) :
    (m.setAll l).get j = m.get j := by
  induction l generalizing m with
  | nil => rfl
  | cons d l ih =>
    rw [setAll, ih _ (fun e he => h e (List.mem_cons_of_mem _ he)) (wf_set m d.1 d.2 w)]
    exact get_set_other m (Ne.symm (h d (List.mem_cons_self ..))) d.2 w

end Sys2Proof.Machine.Memory
end

