-- ==== Sys2Proof/Laws/Device.lean ====
section
/-! SUPPORT. What the device's own reads and writes can do within one page, and what a written range reads as. -/

namespace Sys2Proof.Machine

/-- Every key of a run of cells lies in it. -/
theorem mem_cellsFrom {k : Nat} {bs : List Byte} {d : Nat × Byte} (h : d ∈ cellsFrom k bs) : k ≤ d.1 ∧ d.1 < k + bs.length := by
  induction bs generalizing k with
  | nil => cases h
  | cons b bs ih =>
    rcases List.mem_cons.mp h with rfl | h
    · simp
    · obtain ⟨h1, h2⟩ := ih h
      simp only [List.length_cons]
      omega

/-- A written run reads as it was written. -/
theorem Memory.get_setAll_cells (m : Memory) (k : Nat) (bs : List Byte) (w : m.wf = true) (i : Nat) (h : i < bs.length) :
    (m.setAll (cellsFrom k bs)).get (k + i) = some bs[i] := by
  induction bs generalizing m k i with
  | nil => cases h
  | cons b bs ih =>
    rw [cellsFrom, Memory.setAll]
    cases i with
    | zero =>
      rw [Memory.get_setAll_other _ _ _ (fun d hd => by have := mem_cellsFrom hd; omega) (Memory.wf_set m k b w)]
      exact Memory.get_set_same m k b w
    | succ i =>
      have h1 := ih (m.set k b) (k + 1) (Memory.wf_set m k b w) i (by simpa using h)
      rw [show k + (i + 1) = k + 1 + i by omega, h1]
      simp

/-- Bytes that memory holds are what a read of them gives. -/
theorem State.bytesAt_of_get {s : State} {k : Nat} {bs : List Byte} (h : ∀ i (hi : i < bs.length), s.mem.get (k + i) = some bs[i]) :
    s.bytesAt k bs.length = bs := by
  induction bs generalizing k with
  | nil => rfl
  | cons b bs ih =>
    have h0 := h 0 (by simp)
    have h1 : s.byteAt k = b := by
      unfold State.byteAt
      simp only [Nat.add_zero] at h0
      rw [h0]
      rfl
    rw [List.length_cons, State.bytesAt, h1, ih fun i hi => ?_]
    have := h (i + 1) (by simpa using hi)
    rw [show k + 1 + i = k + (i + 1) by omega, this]
    simp

/-- Recording a translation changes no byte of memory. -/
@[simp] theorem State.note_mem (s : State) (c : Nat) (va : W64) : (s.note c va).mem = s.mem := by
  have key : ∀ t : State, t.mem = s.mem → (match t.tlbAt (t.asid c) va.toNat with
    | some _ => t
    | none =>
      match t.walkCtx c va.toNat with
      | .fault code =>
        { t with coh := { t.coh with tlb := { asid := t.asid c, page := va.toNat / 65536, code := some code } :: t.coh.tlb } }
      | .leaf e big _ =>
        if leafPresent e || !leafManaged e then
          { t with coh := { t.coh with tlb := { asid := t.asid c, page := va.toNat / 65536, leaf := e, big := big } :: t.coh.tlb } }
        else t).mem = s.mem := by
    intro t h
    split
    · exact h
    · split
      · exact h
      · split <;> exact h
  rw [State.note]
  split
  · rfl
  · exact key _ rfl

/-- A range that ends within its page takes one step of the walk. -/
theorem min_of_page {va n : Nat} (h : va % 65536 + n ≤ 65536) : min n (65536 - va % 65536) = n :=
  Nat.min_eq_left (by omega)

/-- The key of bytes within one page whose translation is known. -/
theorem State.keyVa_ok {s : State} {c core hive va n tt k : Nat} {need : Access} (h : s.xlate c core (BitVec.ofNat 64 va) need = .ok tt k)
    (ht : tt ≠ 4 ∧ tt ≠ 5 ∧ tt ≠ 6) (hl : s.dev.lost = []) : s.keyVa c core need hive va n = .ok (k, s.note c (BitVec.ofNat 64 va)) := by
  unfold State.keyVa
  simp only [h]
  rw [if_neg (by simp [ht.1, ht.2.1, ht.2.2]), if_neg (by simp [State.lostIn, hl])]

/-- A range within one page whose translation is known is one run of keys. -/
theorem State.keysVa_page {s : State} {c core hive va n tt k : Nat} {need : Access} (fuel : Nat) (h : s.xlate c core (BitVec.ofNat 64 va) need = .ok tt k)
    (ht : tt ≠ 4 ∧ tt ≠ 5 ∧ tt ≠ 6) (hl : s.dev.lost = []) (h0 : 0 < n) (hn : va % 65536 + n ≤ 65536) :
    s.keysVa c core need hive (fuel + 2) va n = .ok ([(k, n)], s.note c (BitVec.ofNat 64 va)) := by
  obtain ⟨n, rfl⟩ : ∃ m, n = m + 1 := ⟨n - 1, by omega⟩
  have hm := min_of_page hn
  have h3 : ∀ t v, (State.keysVa t c core need hive (fuel + 1) v 0) = .ok ([], t) := fun t v => by rw [State.keysVa]
  rw [State.keysVa, hm]
  simp only [State.keyVa_ok h ht hl, Nat.sub_self, h3]

/-- A device read within one page gives the page's bytes. -/
theorem State.devRead_page {s : State} {c va n tt k : Nat} (h : s.xlate c 0 (BitVec.ofNat 64 va) .read = .ok tt k) (ht : tt ≠ 4 ∧ tt ≠ 5 ∧ tt ≠ 6)
    (hl : s.dev.lost = []) (h0 : 0 < n) (hn : va % 65536 + n ≤ 65536) (ha : va + n ≤ 2 ^ 56) :
    s.devRead c va n = .ok ((s.note c (BitVec.ofNat 64 va)).bytesAt k n, s.note c (BitVec.ofNat 64 va)) := by
  obtain ⟨n, rfl⟩ : ∃ m, n = m + 1 := ⟨n - 1, by omega⟩
  have h3 : ∀ t v, (State.readVa t c 0 .read s.freeHive ((n + 1) / 65536 + 1) v 0) = .ok ([], t) := fun t v => by rw [State.readVa]
  have hm := min_of_page hn
  rw [State.devRead, if_neg (by omega), State.readVa, hm]
  simp only [State.keyVa_ok h ht hl, Nat.sub_self, h3, List.append_nil]

/-- A device write within one page replaces the page's bytes. -/
theorem State.devEdit_page {s : State} {c va n tt k : Nat} {f : List Byte → List Byte} (h : s.xlate c 0 (BitVec.ofNat 64 va) .write = .ok tt k)
    (ht : tt ≠ 4 ∧ tt ≠ 5 ∧ tt ≠ 6) (hl : s.dev.lost = []) (hn : va % 65536 + n ≤ 65536) (ha : va + n ≤ 2 ^ 56) :
    let s1 := s.note c (BitVec.ofNat 64 va)
    s.devEdit c va n f = .ok (s1.perform (cellsFrom k ((f (s1.bytesAt k n)).take n))) := by
  rw [State.devEdit, if_neg (by omega), if_pos hn, State.keyVa_ok h ht hl]

/-- A part of the save area within one page is written. -/
theorem State.writeArea_page {s : State} {c va tt k : Nat} {bs : List AreaByte} (h : s.xlate c 0 (BitVec.ofNat 64 va) .write = .ok tt k)
    (ht : tt ≠ 4 ∧ tt ≠ 5 ∧ tt ≠ 6) (hl : s.dev.lost = []) (hn : va % 65536 + bs.length ≤ 65536) (ha : va + bs.length ≤ 2 ^ 56) :
    s.writeArea c va bs = some ((s.note c (BitVec.ofNat 64 va)).perform (cellsFrom k (bs.map fun b => b.1))) := by
  unfold State.writeArea
  rw [State.devEdit_page h ht hl hn ha]
  simp only
  rw [List.take_of_length_le (by simp)]

/-- Bytes as they were written are intact. -/
theorem intact_self (l : List AreaByte) : intact l (l.map fun b => b.1) = true := by
  induction l with
  | nil => rfl
  | cons x l ih =>
    obtain ⟨b, h⟩ := x
    simp [intact, ih]

/-- A part whose last byte is device-private and changed is not intact. -/
theorem intact_changed (l : List AreaByte) (b y : Byte) (h : b ≠ y) : intact (l ++ [(b, true)]) (l.map (fun x => x.1) ++ [y]) = false := by
  induction l with
  | nil => simp [intact, h]
  | cons x l ih =>
    obtain ⟨c, hc⟩ := x
    simp [intact, ih]

end Sys2Proof.Machine
end

