-- ==== Sys2Proof/Laws/PerInstr.lean ====
section
/-! SUPPORT. A statement about every instruction as syntax: the OPC and SUB of an instruction's word select its row and no
other (R113, R116); an event has no word. -/

namespace Sys2Proof.Laws.Encoding

/-- An instruction is its row with its fields, its word carries its row's OPC and its own SUB, and among all rows these
two select its row. -/
def Statement (i : Instr) : Prop :=
  (∀ o f, i.form? = some (o, f) → Op.mk o f = i ∧ encode i = [encodeOp o f]
    ∧ (encodeOp o f).extractLsb' 88 8 = BitVec.ofNat 8 o.opc ∧ (encodeOp o f).extractLsb' 82 6 = f.sub
    ∧ (o.subOk f.sub = true → Op.select o.opc f.sub Op.all = some o))
  ∧ (i.form? = none → encode i = [])

/-- A word carries its row's OPC in [95:88] (R99). -/
theorem word_opc (o : Op) (f : Form) : (encodeOp o f).extractLsb' 88 8 = BitVec.ofNat 8 o.opc := by
  unfold encodeOp
  apply BitVec.eq_of_getLsbD_eq
  intro i hi
  simp only [BitVec.getLsbD_extractLsb', hi, decide_true, Bool.true_and, BitVec.getLsbD_append]
  split_ifs <;> first | omega | (congr 1; omega)

/-- A word carries SUB in [87:82] (R99). -/
theorem word_sub (o : Op) (f : Form) : (encodeOp o f).extractLsb' 82 6 = f.sub := by
  unfold encodeOp
  apply BitVec.eq_of_getLsbD_eq
  intro i hi
  simp only [BitVec.getLsbD_extractLsb', hi, decide_true, Bool.true_and, BitVec.getLsbD_append]
  split_ifs <;> first | omega | (congr 1; omega)

/-- An instruction word's row follows from the selection of its row. -/
theorem ofRow (o : Op) (f : Form) {i : Instr} (hi : i = Op.mk o f) (hf : i.form? = some (o, f))
    (hs : ∀ sub, o.subOk sub = true → Op.select o.opc sub Op.all = some o) : Statement i := by
  refine ⟨fun o' f' h => ?_, fun h => by rw [hf] at h; cases h⟩
  rw [hf] at h
  cases h
  exact ⟨hi.symm, by simp [encode, hf], word_opc o f, word_sub o f, hs f.sub⟩

/-- An event has no word. -/
theorem ofEvent {i : Instr} (hf : i.form? = none) : Statement i :=
  ⟨fun o f h => absurd (hf.symm.trans h) (by simp), fun _ => by simp [encode, hf]⟩

theorem lqprodWrite (c : Nat) (v : W64) : Statement (.lqprodWrite c v) := ofEvent rfl
theorem launchRecordRead (c : Nat) : Statement (.launchRecordRead c) := ofEvent rfl
theorem gateEvaluation (n : Nat) : Statement (.gateEvaluation n) := ofEvent rfl
theorem distributorDispatch (h : Nat) : Statement (.distributorDispatch h) := ofEvent rfl
theorem stealRequest (h : Nat) : Statement (.stealRequest h) := ofEvent rfl
theorem stealAnswer (h : Nat) : Statement (.stealAnswer h) := ofEvent rfl
theorem stolenCombPlace (h : Nat) : Statement (.stolenCombPlace h) := ofEvent rfl
theorem stealSilenceExpiry (h : Nat) : Statement (.stealSilenceExpiry h) := ofEvent rfl
theorem issueChoice : Statement (.issueChoice) := ofEvent rfl
theorem pathBoost (r : PathRef) : Statement (.pathBoost r) := ofEvent rfl
theorem bundleArrival (r : PathRef) : Statement (.bundleArrival r) := ofEvent rfl
theorem armRelease (r : PathRef) : Statement (.armRelease r) := ofEvent rfl
theorem sidePathMerge (r : PathRef) : Statement (.sidePathMerge r) := ofEvent rfl
theorem icacheLineFill (core asid line : Nat) : Statement (.icacheLineFill core asid line) := ofEvent rfl
theorem instructionComplete (fid : Nat) : Statement (.instructionComplete fid) := ofEvent rfl
theorem launchComplete (n : Nat) : Statement (.launchComplete n) := ofEvent rfl
theorem abortComplete (n : Nat) : Statement (.abortComplete n) := ofEvent rfl
theorem pageResolved (r : PathRef) : Statement (.pageResolved r) := ofEvent rfl
theorem pageFaultFatal (r : PathRef) : Statement (.pageFaultFatal r) := ofEvent rfl
theorem managedPageResolve (c page : Nat) : Statement (.managedPageResolve c page) := ofEvent rfl
theorem loaderLoad (c : Nat) (v : W64) : Statement (.loaderLoad c v) := ofEvent rfl
theorem loadFinish (c : Nat) : Statement (.loadFinish c) := ofEvent rfl
theorem loaderUnload (c : Nat) (v : W64) : Statement (.loaderUnload c v) := ofEvent rfl
theorem preemptSave (c : Nat) : Statement (.preemptSave c) := ofEvent rfl
theorem saveComplete (c : Nat) : Statement (.saveComplete c) := ofEvent rfl
theorem preemptRestore (c : Nat) : Statement (.preemptRestore c) := ofEvent rfl
theorem restoredCombPlace (c k : Nat) : Statement (.restoredCombPlace c k) := ofEvent rfl
theorem gangTimeout (comb : Nat) (gang : W16) : Statement (.gangTimeout comb gang) := ofEvent rfl
theorem matrixQueueAdvance (core : Nat) : Statement (.matrixQueueAdvance core) := ofEvent rfl
theorem jobAccept (entry : Nat) : Statement (.jobAccept entry) := ofEvent rfl
theorem transformCopy (job : Nat) : Statement (.transformCopy job) := ofEvent rfl
theorem transformConv (job : Nat) : Statement (.transformConv job) := ofEvent rfl
theorem transformConvt (job : Nat) : Statement (.transformConvt job) := ofEvent rfl
theorem gather (job : Nat) : Statement (.gather job) := ofEvent rfl
theorem scatter (job : Nat) : Statement (.scatter job) := ofEvent rfl
theorem chain (job : Nat) : Statement (.chain job) := ofEvent rfl
theorem bankMv (job : Nat) : Statement (.bankMv job) := ofEvent rfl
theorem bankAccm (job : Nat) : Statement (.bankAccm job) := ofEvent rfl
theorem bankAmax (job : Nat) : Statement (.bankAmax job) := ofEvent rfl
theorem bankFill (job : Nat) : Statement (.bankFill job) := ofEvent rfl
theorem bankCopy (job : Nat) : Statement (.bankCopy job) := ofEvent rfl
theorem allReduce (job : Nat) : Statement (.allReduce job) := ofEvent rfl
theorem reduceScatter (job : Nat) : Statement (.reduceScatter job) := ofEvent rfl
theorem allGather (job : Nat) : Statement (.allGather job) := ofEvent rfl
theorem broadcast (job : Nat) : Statement (.broadcast job) := ofEvent rfl
theorem inHopReduction (job : Nat) : Statement (.inHopReduction job) := ofEvent rfl
theorem snapshotArm (job : Nat) : Statement (.snapshotArm job) := ofEvent rfl
theorem snapshotCancel (job : Nat) : Statement (.snapshotCancel job) := ofEvent rfl
theorem jobWriteLand (job : Nat) : Statement (.jobWriteLand job) := ofEvent rfl
theorem jobStatus (job : Nat) (verdicts : List Verdict) : Statement (.jobStatus job verdicts) := ofEvent rfl
theorem sbDrain (entry replica : Nat) : Statement (.sbDrain entry replica) := ofEvent rfl
theorem cacheFill (k : CacheId) (line : Nat) : Statement (.cacheFill k line) := ofEvent rfl
theorem cacheDrop (k : CacheId) (line : Nat) : Statement (.cacheDrop k line) := ofEvent rfl
theorem rdcWriteBack (hive line : Nat) : Statement (.rdcWriteBack hive line) := ofEvent rfl
theorem l1Invalidate (core line : Nat) : Statement (.l1Invalidate core line) := ofEvent rfl
theorem loadRead (fid lane : Nat) : Statement (.loadRead fid lane) := ofEvent rfl
theorem atomicPerform (fid lane : Nat) : Statement (.atomicPerform fid lane) := ofEvent rfl
theorem release (fid : Nat) : Statement (.release fid) := ofEvent rfl
theorem barMeetArrival (r : PathRef) : Statement (.barMeetArrival r) := ofEvent rfl
theorem rcnLineCopy (fid line replica : Nat) : Statement (.rcnLineCopy fid line replica) := ofEvent rfl
theorem bankForward (cmd : Nat) : Statement (.bankForward cmd) := ofEvent rfl
theorem bankFadd2 (cmd : Nat) : Statement (.bankFadd2 cmd) := ofEvent rfl
theorem bankIadd2 (cmd : Nat) : Statement (.bankIadd2 cmd) := ofEvent rfl
theorem bankIadd64 (cmd : Nat) : Statement (.bankIadd64 cmd) := ofEvent rfl
theorem bankFmax2 (cmd : Nat) : Statement (.bankFmax2 cmd) := ofEvent rfl
theorem bankWrite (cmd : Nat) : Statement (.bankWrite cmd) := ofEvent rfl
theorem forkResolution (comb group fork : Nat) : Statement (.forkResolution comb group fork) := ofEvent rfl
theorem noforkClear (core site : Nat) : Statement (.noforkClear core site) := ofEvent rfl
theorem hopPass (p : Packet) : Statement (.hopPass p) := ofEvent rfl
theorem hopReduce (p : Packet) : Statement (.hopReduce p) := ofEvent rfl
theorem hopDeliver (p : Packet) : Statement (.hopDeliver p) := ofEvent rfl
theorem hopCopy (p : Packet) : Statement (.hopCopy p) := ofEvent rfl
theorem hopInvalid (p : Packet) : Statement (.hopInvalid p) := ofEvent rfl
theorem slotExpiry (slot : Nat) : Statement (.slotExpiry slot) := ofEvent rfl
theorem snapshotPageDrain (job : Nat) : Statement (.snapshotPageDrain job) := ofEvent rfl
theorem podArrivalMessage (m : PodMsg) : Statement (.podArrivalMessage m) := ofEvent rfl
theorem podInitMessage (m : PodMsg) : Statement (.podInitMessage m) := ofEvent rfl
theorem podPendingMessage (m : PodMsg) : Statement (.podPendingMessage m) := ofEvent rfl
theorem podCompletionMessage (m : PodMsg) : Statement (.podCompletionMessage m) := ofEvent rfl
theorem podBreakMessage (m : PodMsg) : Statement (.podBreakMessage m) := ofEvent rfl
theorem podBreakNotice (m : PodMsg) : Statement (.podBreakNotice m) := ofEvent rfl
theorem remoteTransaction (t : RemoteTx) : Statement (.remoteTransaction t) := ofEvent rfl
theorem hostMemAccess (a : HostAccess) : Statement (.hostMemAccess a) := ofEvent rfl
theorem linkDown (k : Nat) : Statement (.linkDown k) := ofEvent rfl
theorem registerWrite (x n : Nat) (v : W64) : Statement (.registerWrite x n v) := ofEvent rfl
theorem devidWrite (v : W64) : Statement (.devidWrite v) := ofEvent rfl
theorem rwsplitWrite (v : W64) : Statement (.rwsplitWrite v) := ofEvent rfl
theorem contextEnable (c : Nat) (v : W64) : Statement (.contextEnable c v) := ofEvent rfl
theorem contextDisable (c : Nat) (v : W64) : Statement (.contextDisable c v) := ofEvent rfl
theorem invalidatePage (c : Nat) (v : W64) : Statement (.invalidatePage c v) := ofEvent rfl
theorem invalidateAll (c : Nat) : Statement (.invalidateAll c) := ofEvent rfl
theorem invalidationComplete (c : Nat) : Statement (.invalidationComplete c) := ofEvent rfl
theorem polkeyWrite (c k : Nat) (v : W64) : Statement (.polkeyWrite c k v) := ofEvent rfl
theorem channelRetire (t p : Nat) : Statement (.channelRetire t p) := ofEvent rfl
theorem lineRebuild (t line : Nat) : Statement (.lineRebuild t line) := ofEvent rfl
theorem idleEntry : Statement (.idleEntry) := ofEvent rfl
theorem wake : Statement (.wake) := ofEvent rfl
theorem powerOn : Statement (.powerOn) := ofEvent rfl
theorem deviceReset : Statement (.deviceReset) := ofEvent rfl
theorem firmwareVerifyRun (v : W64) : Statement (.firmwareVerifyRun v) := ofEvent rfl
theorem firmwareVerifyDone : Statement (.firmwareVerifyDone) := ofEvent rfl
theorem writeReport (v : W64) : Statement (.writeReport v) := ofEvent rfl
theorem reportWritten : Statement (.reportWritten) := ofEvent rfl
theorem linkUp (k : Nat) : Statement (.linkUp k) := ofEvent rfl
theorem nop (f : Form) : Statement (.nop f) := ofRow .nop f rfl rfl (by decide)
theorem br (f : Form) : Statement (.br f) := ofRow .br f rfl rfl (by decide)
theorem brx (f : Form) : Statement (.brx f) := ofRow .brx f rfl rfl (by decide)
theorem brxTab (f : Form) : Statement (.brxTab f) := ofRow .brxTab f rfl rfl (by decide)
theorem call (f : Form) : Statement (.call f) := ofRow .call f rfl rfl (by decide)
theorem fcall (f : Form) : Statement (.fcall f) := ofRow .fcall f rfl rfl (by decide)
theorem ret (f : Form) : Statement (.ret f) := ofRow .ret f rfl rfl (by decide)
theorem retTr (f : Form) : Statement (.retTr f) := ofRow .retTr f rfl rfl (by decide)
theorem trap (f : Form) : Statement (.trap f) := ofRow .trap f rfl rfl (by decide)
theorem ipf (f : Form) : Statement (.ipf f) := ofRow .ipf f rfl rfl (by decide)
theorem mfs (f : Form) : Statement (.mfs f) := ofRow .mfs f rfl rfl (by decide)
theorem mts (f : Form) : Statement (.mts f) := ofRow .mts f rfl rfl (by decide)
theorem setseed (f : Form) : Statement (.setseed f) := ofRow .setseed f rfl rfl (by decide)
theorem setseedGrp (f : Form) : Statement (.setseedGrp f) := ofRow .setseedGrp f rfl rfl (by decide)
theorem sadd (f : Form) : Statement (.sadd f) := ofRow .sadd f rfl rfl (by decide)
theorem ssub (f : Form) : Statement (.ssub f) := ofRow .ssub f rfl rfl (by decide)
theorem smul (f : Form) : Statement (.smul f) := ofRow .smul f rfl rfl (by decide)
theorem smad (f : Form) : Statement (.smad f) := ofRow .smad f rfl rfl (by decide)
theorem slog (f : Form) : Statement (.slog f) := ofRow .slog f rfl rfl (by decide)
theorem sshf (f : Form) : Statement (.sshf f) := ofRow .sshf f rfl rfl (by decide)
theorem scmp (f : Form) : Statement (.scmp f) := ofRow .scmp f rfl rfl (by decide)
theorem ssel (f : Form) : Statement (.ssel f) := ofRow .ssel f rfl rfl (by decide)
theorem smov (f : Form) : Statement (.smov f) := ofRow .smov f rfl rfl (by decide)
theorem sadr (f : Form) : Statement (.sadr f) := ofRow .sadr f rfl rfl (by decide)
theorem sbit (f : Form) : Statement (.sbit f) := ofRow .sbit f rfl rfl (by decide)
theorem smm (f : Form) : Statement (.smm f) := ofRow .smm f rfl rfl (by decide)
theorem add (f : Form) : Statement (.add f) := ofRow .add f rfl rfl (by decide)
theorem sub (f : Form) : Statement (.sub f) := ofRow .sub f rfl rfl (by decide)
theorem mul (f : Form) : Statement (.mul f) := ofRow .mul f rfl rfl (by decide)
theorem mad (f : Form) : Statement (.mad f) := ofRow .mad f rfl rfl (by decide)
theorem log (f : Form) : Statement (.log f) := ofRow .log f rfl rfl (by decide)
theorem shf (f : Form) : Statement (.shf f) := ofRow .shf f rfl rfl (by decide)
theorem cmp (f : Form) : Statement (.cmp f) := ofRow .cmp f rfl rfl (by decide)
theorem sel (f : Form) : Statement (.sel f) := ofRow .sel f rfl rfl (by decide)
theorem mov (f : Form) : Statement (.mov f) := ofRow .mov f rfl rfl (by decide)
theorem mm (f : Form) : Statement (.mm f) := ofRow .mm f rfl rfl (by decide)
theorem bit (f : Form) : Statement (.bit f) := ofRow .bit f rfl rfl (by decide)
theorem dot4 (f : Form) : Statement (.dot4 f) := ofRow .dot4 f rfl rfl (by decide)
theorem movxLd (f : Form) : Statement (.movxLd f) := ofRow .movxLd f rfl rfl (by decide)
theorem movxSt (f : Form) : Statement (.movxSt f) := ofRow .movxSt f rfl rfl (by decide)
theorem fadd (f : Form) : Statement (.fadd f) := ofRow .fadd f rfl rfl (by decide)
theorem fmul (f : Form) : Statement (.fmul f) := ofRow .fmul f rfl rfl (by decide)
theorem fma (f : Form) : Statement (.fma f) := ofRow .fma f rfl rfl (by decide)
theorem fmm (f : Form) : Statement (.fmm f) := ofRow .fmm f rfl rfl (by decide)
theorem fcmp (f : Form) : Statement (.fcmp f) := ofRow .fcmp f rfl rfl (by decide)
theorem fsf (f : Form) : Statement (.fsf f) := ofRow .fsf f rfl rfl (by decide)
theorem fcls (f : Form) : Statement (.fcls f) := ofRow .fcls f rfl rfl (by decide)
theorem fsgn (f : Form) : Statement (.fsgn f) := ofRow .fsgn f rfl rfl (by decide)
theorem cvt (f : Form) : Statement (.cvt f) := ofRow .cvt f rfl rfl (by decide)
theorem bmax (f : Form) : Statement (.bmax f) := ofRow .bmax f rfl rfl (by decide)
theorem bscl (f : Form) : Statement (.bscl f) := ofRow .bscl f rfl rfl (by decide)
theorem qnt (f : Form) : Statement (.qnt f) := ofRow .qnt f rfl rfl (by decide)
theorem dqnt (f : Form) : Statement (.dqnt f) := ofRow .dqnt f rfl rfl (by decide)
theorem rblk (f : Form) : Statement (.rblk f) := ofRow .rblk f rfl rfl (by decide)
theorem pack (f : Form) : Statement (.pack f) := ofRow .pack f rfl rfl (by decide)
theorem shfl (f : Form) : Statement (.shfl f) := ofRow .shfl f rfl rfl (by decide)
theorem permLane (f : Form) : Statement (.permLane f) := ofRow .permLane f rfl rfl (by decide)
theorem permByte (f : Form) : Statement (.permByte f) := ofRow .permByte f rfl rfl (by decide)
theorem vote (f : Form) : Statement (.vote f) := ofRow .vote f rfl rfl (by decide)
theorem ballot (f : Form) : Statement (.ballot f) := ofRow .ballot f rfl rfl (by decide)
theorem ballotGrp (f : Form) : Statement (.ballotGrp f) := ofRow .ballotGrp f rfl rfl (by decide)
theorem red (f : Form) : Statement (.red f) := ofRow .red f rfl rfl (by decide)
theorem scan (f : Form) : Statement (.scan f) := ofRow .scan f rfl rfl (by decide)
theorem popc (f : Form) : Statement (.popc f) := ofRow .popc f rfl rfl (by decide)
theorem ld (f : Form) : Statement (.ld f) := ofRow .ld f rfl rfl (by decide)
theorem ldZ (f : Form) : Statement (.ldZ f) := ofRow .ldZ f rfl rfl (by decide)
theorem st (f : Form) : Statement (.st f) := ofRow .st f rfl rfl (by decide)
theorem ldsc (f : Form) : Statement (.ldsc f) := ofRow .ldsc f rfl rfl (by decide)
theorem stsc (f : Form) : Statement (.stsc f) := ofRow .stsc f rfl rfl (by decide)
theorem stmc (f : Form) : Statement (.stmc f) := ofRow .stmc f rfl rfl (by decide)
theorem dpf (f : Form) : Statement (.dpf f) := ofRow .dpf f rfl rfl (by decide)
theorem rcn (f : Form) : Statement (.rcn f) := ofRow .rcn f rfl rfl (by decide)
theorem atom (f : Form) : Statement (.atom f) := ofRow .atom f rfl rfl (by decide)
theorem cas (f : Form) : Statement (.cas f) := ofRow .cas f rfl rfl (by decide)
theorem ldfeTake (f : Form) : Statement (.ldfeTake f) := ofRow .ldfeTake f rfl rfl (by decide)
theorem ldfePeek (f : Form) : Statement (.ldfePeek f) := ofRow .ldfePeek f rfl rfl (by decide)
theorem stfe (f : Form) : Statement (.stfe f) := ofRow .stfe f rfl rfl (by decide)
theorem stfeForce (f : Form) : Statement (.stfeForce f) := ofRow .stfeForce f rfl rfl (by decide)
theorem barMeet (f : Form) : Statement (.barMeet f) := ofRow .barMeet f rfl rfl (by decide)
theorem barPost (f : Form) : Statement (.barPost f) := ofRow .barPost f rfl rfl (by decide)
theorem barHold (f : Form) : Statement (.barHold f) := ofRow .barHold f rfl rfl (by decide)
theorem barSet (f : Form) : Statement (.barSet f) := ofRow .barSet f rfl rfl (by decide)
theorem bind (f : Form) : Statement (.bind f) := ofRow .bind f rfl rfl (by decide)
theorem acq (f : Form) : Statement (.acq f) := ofRow .acq f rfl rfl (by decide)
theorem rel (f : Form) : Statement (.rel f) := ofRow .rel f rfl rfl (by decide)
theorem fenceAll (f : Form) : Statement (.fenceAll f) := ofRow .fenceAll f rfl rfl (by decide)
theorem fenceBank (f : Form) : Statement (.fenceBank f) := ofRow .fenceBank f rfl rfl (by decide)
theorem mma (f : Form) : Statement (.mma f) := ofRow .mma f rfl rfl (by decide)
theorem mmv (f : Form) : Statement (.mmv f) := ofRow .mmv f rfl rfl (by decide)
theorem accZero (f : Form) : Statement (.accZero f) := ofRow .accZero f rfl rfl (by decide)
theorem accFree (f : Form) : Statement (.accFree f) := ofRow .accFree f rfl rfl (by decide)
theorem accCopy (f : Form) : Statement (.accCopy f) := ofRow .accCopy f rfl rfl (by decide)
theorem accAdd (f : Form) : Statement (.accAdd f) := ofRow .accAdd f rfl rfl (by decide)
theorem accRdr (f : Form) : Statement (.accRdr f) := ofRow .accRdr f rfl rfl (by decide)
theorem accRdc (f : Form) : Statement (.accRdc f) := ofRow .accRdc f rfl rfl (by decide)
theorem accWrr (f : Form) : Statement (.accWrr f) := ofRow .accWrr f rfl rfl (by decide)
theorem drain (f : Form) : Statement (.drain f) := ofRow .drain f rfl rfl (by decide)
theorem epld (f : Form) : Statement (.epld f) := ofRow .epld f rfl rfl (by decide)
theorem bclose (f : Form) : Statement (.bclose f) := ofRow .bclose f rfl rfl (by decide)
theorem bwait (f : Form) : Statement (.bwait f) := ofRow .bwait f rfl rfl (by decide)
theorem launch (f : Form) : Statement (.launch f) := ofRow .launch f rfl rfl (by decide)

end Sys2Proof.Laws.Encoding
end

