-- ==== Sys2Proof/Laws/Run.lean ====
section
/-! SUPPORT. What issuing can do: the frame of every instruction, and the rows that only compute register results. -/

namespace Sys2Proof.Machine

/-- The environment of the chosen path holds the state. -/
theorem envOf_s {s : State} {r : PathRef} {e : Env} (h : s.envOf r = some e) : e.s = s ∧ e.ref = r := by
  unfold State.envOf at h
  repeat' split at h
  all_goals simp_all
  all_goals (subst h; simp)

theorem env_s {s : State} {e : Env} (h : s.env? = some e) : e.s = s := by
  unfold State.env? at h
  split at h
  · cases h
  · exact (envOf_s h).1

/-- What the frame of every instruction answers on a path that is ready at it. -/
theorem runIsa_ready {s : State} {e : Env} {o : Op} {f : Form} {body : Env → Plan} (h : Ready s e o f) :
    runIsa o f s body = .next (match body e with
      | .stall => (if e.isCont then s.modPath e.ref fun p => { p with wait := .deferred } else s).rested
      | .hold t => t.rested
      | .trap t => (e.raise t).rested
      | .go t => t.rested) := by
  have hl : (!o.legal f || (o.transfers && !e.b.lastValid e.k)) = false := by
    have := h.last
    rw [h.legal]
    cases ht : o.transfers <;> simp_all
  unfold runIsa
  rw [h.env]
  simp only [hl, h.goes, Bool.false_eq_true, if_false]
  cases body e <;> rfl

/-- With an encoding that is not an instruction the path takes the trap of R116. -/
theorem runIsa_illegal {s : State} {e : Env} {o : Op} {f : Form} {body : Env → Plan} (h : s.env? = some e)
    (hl : o.legal f = false) :
    runIsa o f s body = .next (e.raise { code := 0x01, lanes := e.p.exm, open_ := true }).rested := by
  unfold runIsa
  rw [h]
  simp [hl, State.rested]

/-- An instruction always answers a next state. -/
theorem runIsa_next (o : Op) (f : Form) (s : State) (body : Env → Plan) : ∃ t, runIsa o f s body = .next t := by
  unfold runIsa
  split
  · exact ⟨_, rfl⟩
  · split
    · exact ⟨_, rfl⟩
    · split
      · exact ⟨_, rfl⟩
      · split <;> exact ⟨_, rfl⟩

/-- The record that an instruction starts from. -/
theorem flight_record (e : Env) (o : Op) (f : Form) : Computes e o f (e.flight o f) where
  fid := rfl
  row := ⟨rfl, rfl⟩
  path := ⟨rfl, rfl, rfl⟩
  place := ⟨rfl, rfl⟩
  setf := rfl
  lanes := rfl
  order := rfl
  modes := ⟨rfl, rfl⟩
  cont := rfl
  noAccs := rfl
  noStores := rfl
  noSync := rfl
  fin := rfl

/-- A row that only computes register results, from its plan. `e'` is `e` with free values taken. -/
theorem regRow_of_plan {s : State} {e e' : Env} {o : Op} {f : Form} {srcs : List (Src × Env.Need)} {dn : Env.Need}
    {lo hi due : Nat} {cross : Bool} {more : List (List (Src × Env.Need) × Lanes)} {res : Unit → List RegWrite × Option Latch × Fl} {lanes : List (BitVec 7)}
    {body : Env → Plan} (hx : exec (Op.mk o f) s = runIsa o f s body)
    (hb : body e = e'.regPlan o f srcs dn due res cross lanes more)
    (hs : e' = { e with s := e'.s })
    (hd : e.s = s → s.clk.cycle + lo ≤ due ∧ due ≤ s.clk.cycle + hi) :
    RegRow s e e' o f srcs dn lo hi cross (res ()).1 (res ()).2.1 (res ()).2.2 more := by
  intro h hc hw
  have hc' : e'.check srcs f.dst dn = none := by rw [hs]; exact hc
  have hw' : e'.contStalls srcs (res ()).1 = false := by rw [hs]; exact hw
  have hd := hd (env_s h.env)
  refine ⟨{ e'.flight o f with due := due, writes := (res ()).1, latch := (res ()).2.1, nf := (res ()).2.2.bits, nfl := lanes },
    ?_, ?_, rfl, rfl, rfl, hd.1, hd.2⟩
  · rw [hx, runIsa_ready h, hb]
    unfold Env.regPlan
    rw [hc']
    simp only [hw', Bool.false_eq_true, if_false]
    rfl
  · exact { flight_record e' o f with }

end Sys2Proof.Machine
end

