-- ==== Sys2Proof/Laws/State.lean ====
section
/-! SUPPORT. What each update of the state leaves alone: one lemma for each field, true by definition. -/

namespace Sys2Proof.Machine

/-! ### modCtx -/

@[simp] theorem State.modCtx_clk (s : State) (c : Nat) (f : Ctx → Ctx) : (s.modCtx c f).clk = s.clk := rfl
@[simp] theorem State.modCtx_dev (s : State) (c : Nat) (f : Ctx → Ctx) : (s.modCtx c f).dev = s.dev := rfl
@[simp] theorem State.modCtx_mem (s : State) (c : Nat) (f : Ctx → Ctx) : (s.modCtx c f).mem = s.mem := rfl
@[simp] theorem State.modCtx_full (s : State) (c : Nat) (f : Ctx → Ctx) : (s.modCtx c f).full = s.full := rfl
@[simp] theorem State.modCtx_pages (s : State) (c : Nat) (f : Ctx → Ctx) : (s.modCtx c f).pages = s.pages := rfl
@[simp] theorem State.modCtx_coh (s : State) (c : Nat) (f : Ctx → Ctx) : (s.modCtx c f).coh = s.coh := rfl
@[simp] theorem State.modCtx_dists (s : State) (c : Nat) (f : Ctx → Ctx) : (s.modCtx c f).dists = s.dists := rfl
@[simp] theorem State.modCtx_launches (s : State) (c : Nat) (f : Ctx → Ctx) : (s.modCtx c f).launches = s.launches := rfl
@[simp] theorem State.modCtx_combs (s : State) (c : Nat) (f : Ctx → Ctx) : (s.modCtx c f).combs = s.combs := rfl
@[simp] theorem State.modCtx_flights (s : State) (c : Nat) (f : Ctx → Ctx) : (s.modCtx c f).flights = s.flights := rfl
@[simp] theorem State.modCtx_jobs (s : State) (c : Nat) (f : Ctx → Ctx) : (s.modCtx c f).jobs = s.jobs := rfl
@[simp] theorem State.modCtx_snaps (s : State) (c : Nat) (f : Ctx → Ctx) : (s.modCtx c f).snaps = s.snaps := rfl
@[simp] theorem State.modCtx_spire (s : State) (c : Nat) (f : Ctx → Ctx) : (s.modCtx c f).spire = s.spire := rfl
@[simp] theorem State.modCtx_cores (s : State) (c : Nat) (f : Ctx → Ctx) : (s.modCtx c f).cores = s.cores := rfl

/-! ### modComb -/

@[simp] theorem State.modComb_clk (s : State) (c : Nat) (f : Comb → Comb) : (s.modComb c f).clk = s.clk := rfl
@[simp] theorem State.modComb_dev (s : State) (c : Nat) (f : Comb → Comb) : (s.modComb c f).dev = s.dev := rfl
@[simp] theorem State.modComb_ctxs (s : State) (c : Nat) (f : Comb → Comb) : (s.modComb c f).ctxs = s.ctxs := rfl
@[simp] theorem State.modComb_mem (s : State) (c : Nat) (f : Comb → Comb) : (s.modComb c f).mem = s.mem := rfl
@[simp] theorem State.modComb_full (s : State) (c : Nat) (f : Comb → Comb) : (s.modComb c f).full = s.full := rfl
@[simp] theorem State.modComb_pages (s : State) (c : Nat) (f : Comb → Comb) : (s.modComb c f).pages = s.pages := rfl
@[simp] theorem State.modComb_coh (s : State) (c : Nat) (f : Comb → Comb) : (s.modComb c f).coh = s.coh := rfl
@[simp] theorem State.modComb_dists (s : State) (c : Nat) (f : Comb → Comb) : (s.modComb c f).dists = s.dists := rfl
@[simp] theorem State.modComb_launches (s : State) (c : Nat) (f : Comb → Comb) : (s.modComb c f).launches = s.launches := rfl
@[simp] theorem State.modComb_flights (s : State) (c : Nat) (f : Comb → Comb) : (s.modComb c f).flights = s.flights := rfl
@[simp] theorem State.modComb_jobs (s : State) (c : Nat) (f : Comb → Comb) : (s.modComb c f).jobs = s.jobs := rfl
@[simp] theorem State.modComb_snaps (s : State) (c : Nat) (f : Comb → Comb) : (s.modComb c f).snaps = s.snaps := rfl
@[simp] theorem State.modComb_spire (s : State) (c : Nat) (f : Comb → Comb) : (s.modComb c f).spire = s.spire := rfl
@[simp] theorem State.modComb_cores (s : State) (c : Nat) (f : Comb → Comb) : (s.modComb c f).cores = s.cores := rfl

/-! ### modLaunch -/

@[simp] theorem State.modLaunch_clk (s : State) (n : Nat) (f : Launch → Launch) : (s.modLaunch n f).clk = s.clk := rfl
@[simp] theorem State.modLaunch_dev (s : State) (n : Nat) (f : Launch → Launch) : (s.modLaunch n f).dev = s.dev := rfl
@[simp] theorem State.modLaunch_ctxs (s : State) (n : Nat) (f : Launch → Launch) : (s.modLaunch n f).ctxs = s.ctxs := rfl
@[simp] theorem State.modLaunch_mem (s : State) (n : Nat) (f : Launch → Launch) : (s.modLaunch n f).mem = s.mem := rfl
@[simp] theorem State.modLaunch_full (s : State) (n : Nat) (f : Launch → Launch) : (s.modLaunch n f).full = s.full := rfl
@[simp] theorem State.modLaunch_pages (s : State) (n : Nat) (f : Launch → Launch) : (s.modLaunch n f).pages = s.pages := rfl
@[simp] theorem State.modLaunch_coh (s : State) (n : Nat) (f : Launch → Launch) : (s.modLaunch n f).coh = s.coh := rfl
@[simp] theorem State.modLaunch_dists (s : State) (n : Nat) (f : Launch → Launch) : (s.modLaunch n f).dists = s.dists := rfl
@[simp] theorem State.modLaunch_combs (s : State) (n : Nat) (f : Launch → Launch) : (s.modLaunch n f).combs = s.combs := rfl
@[simp] theorem State.modLaunch_flights (s : State) (n : Nat) (f : Launch → Launch) : (s.modLaunch n f).flights = s.flights := rfl
@[simp] theorem State.modLaunch_jobs (s : State) (n : Nat) (f : Launch → Launch) : (s.modLaunch n f).jobs = s.jobs := rfl
@[simp] theorem State.modLaunch_snaps (s : State) (n : Nat) (f : Launch → Launch) : (s.modLaunch n f).snaps = s.snaps := rfl
@[simp] theorem State.modLaunch_spire (s : State) (n : Nat) (f : Launch → Launch) : (s.modLaunch n f).spire = s.spire := rfl
@[simp] theorem State.modLaunch_cores (s : State) (n : Nat) (f : Launch → Launch) : (s.modLaunch n f).cores = s.cores := rfl

/-! ### modFlight -/

@[simp] theorem State.modFlight_clk (s : State) (n : Nat) (f : Flight → Flight) : (s.modFlight n f).clk = s.clk := rfl
@[simp] theorem State.modFlight_dev (s : State) (n : Nat) (f : Flight → Flight) : (s.modFlight n f).dev = s.dev := rfl
@[simp] theorem State.modFlight_ctxs (s : State) (n : Nat) (f : Flight → Flight) : (s.modFlight n f).ctxs = s.ctxs := rfl
@[simp] theorem State.modFlight_mem (s : State) (n : Nat) (f : Flight → Flight) : (s.modFlight n f).mem = s.mem := rfl
@[simp] theorem State.modFlight_full (s : State) (n : Nat) (f : Flight → Flight) : (s.modFlight n f).full = s.full := rfl
@[simp] theorem State.modFlight_pages (s : State) (n : Nat) (f : Flight → Flight) : (s.modFlight n f).pages = s.pages := rfl
@[simp] theorem State.modFlight_coh (s : State) (n : Nat) (f : Flight → Flight) : (s.modFlight n f).coh = s.coh := rfl
@[simp] theorem State.modFlight_dists (s : State) (n : Nat) (f : Flight → Flight) : (s.modFlight n f).dists = s.dists := rfl
@[simp] theorem State.modFlight_launches (s : State) (n : Nat) (f : Flight → Flight) : (s.modFlight n f).launches = s.launches := rfl
@[simp] theorem State.modFlight_combs (s : State) (n : Nat) (f : Flight → Flight) : (s.modFlight n f).combs = s.combs := rfl
@[simp] theorem State.modFlight_jobs (s : State) (n : Nat) (f : Flight → Flight) : (s.modFlight n f).jobs = s.jobs := rfl
@[simp] theorem State.modFlight_snaps (s : State) (n : Nat) (f : Flight → Flight) : (s.modFlight n f).snaps = s.snaps := rfl
@[simp] theorem State.modFlight_spire (s : State) (n : Nat) (f : Flight → Flight) : (s.modFlight n f).spire = s.spire := rfl
@[simp] theorem State.modFlight_cores (s : State) (n : Nat) (f : Flight → Flight) : (s.modFlight n f).cores = s.cores := rfl

/-! ### modJob -/

@[simp] theorem State.modJob_clk (s : State) (n : Nat) (f : Job → Job) : (s.modJob n f).clk = s.clk := rfl
@[simp] theorem State.modJob_dev (s : State) (n : Nat) (f : Job → Job) : (s.modJob n f).dev = s.dev := rfl
@[simp] theorem State.modJob_ctxs (s : State) (n : Nat) (f : Job → Job) : (s.modJob n f).ctxs = s.ctxs := rfl
@[simp] theorem State.modJob_mem (s : State) (n : Nat) (f : Job → Job) : (s.modJob n f).mem = s.mem := rfl
@[simp] theorem State.modJob_full (s : State) (n : Nat) (f : Job → Job) : (s.modJob n f).full = s.full := rfl
@[simp] theorem State.modJob_pages (s : State) (n : Nat) (f : Job → Job) : (s.modJob n f).pages = s.pages := rfl
@[simp] theorem State.modJob_coh (s : State) (n : Nat) (f : Job → Job) : (s.modJob n f).coh = s.coh := rfl
@[simp] theorem State.modJob_dists (s : State) (n : Nat) (f : Job → Job) : (s.modJob n f).dists = s.dists := rfl
@[simp] theorem State.modJob_launches (s : State) (n : Nat) (f : Job → Job) : (s.modJob n f).launches = s.launches := rfl
@[simp] theorem State.modJob_combs (s : State) (n : Nat) (f : Job → Job) : (s.modJob n f).combs = s.combs := rfl
@[simp] theorem State.modJob_flights (s : State) (n : Nat) (f : Job → Job) : (s.modJob n f).flights = s.flights := rfl
@[simp] theorem State.modJob_snaps (s : State) (n : Nat) (f : Job → Job) : (s.modJob n f).snaps = s.snaps := rfl
@[simp] theorem State.modJob_spire (s : State) (n : Nat) (f : Job → Job) : (s.modJob n f).spire = s.spire := rfl
@[simp] theorem State.modJob_cores (s : State) (n : Nat) (f : Job → Job) : (s.modJob n f).cores = s.cores := rfl

/-! ### modDist -/

@[simp] theorem State.modDist_clk (s : State) (h : Nat) (f : Dist → Dist) : (s.modDist h f).clk = s.clk := rfl
@[simp] theorem State.modDist_dev (s : State) (h : Nat) (f : Dist → Dist) : (s.modDist h f).dev = s.dev := rfl
@[simp] theorem State.modDist_ctxs (s : State) (h : Nat) (f : Dist → Dist) : (s.modDist h f).ctxs = s.ctxs := rfl
@[simp] theorem State.modDist_mem (s : State) (h : Nat) (f : Dist → Dist) : (s.modDist h f).mem = s.mem := rfl
@[simp] theorem State.modDist_full (s : State) (h : Nat) (f : Dist → Dist) : (s.modDist h f).full = s.full := rfl
@[simp] theorem State.modDist_pages (s : State) (h : Nat) (f : Dist → Dist) : (s.modDist h f).pages = s.pages := rfl
@[simp] theorem State.modDist_coh (s : State) (h : Nat) (f : Dist → Dist) : (s.modDist h f).coh = s.coh := rfl
@[simp] theorem State.modDist_launches (s : State) (h : Nat) (f : Dist → Dist) : (s.modDist h f).launches = s.launches := rfl
@[simp] theorem State.modDist_combs (s : State) (h : Nat) (f : Dist → Dist) : (s.modDist h f).combs = s.combs := rfl
@[simp] theorem State.modDist_flights (s : State) (h : Nat) (f : Dist → Dist) : (s.modDist h f).flights = s.flights := rfl
@[simp] theorem State.modDist_jobs (s : State) (h : Nat) (f : Dist → Dist) : (s.modDist h f).jobs = s.jobs := rfl
@[simp] theorem State.modDist_snaps (s : State) (h : Nat) (f : Dist → Dist) : (s.modDist h f).snaps = s.snaps := rfl
@[simp] theorem State.modDist_spire (s : State) (h : Nat) (f : Dist → Dist) : (s.modDist h f).spire = s.spire := rfl
@[simp] theorem State.modDist_cores (s : State) (h : Nat) (f : Dist → Dist) : (s.modDist h f).cores = s.cores := rfl

/-! ### modGroup -/

@[simp] theorem State.modGroup_clk (s : State) (c g : Nat) (f : Group → Group) : (s.modGroup c g f).clk = s.clk := rfl
@[simp] theorem State.modGroup_dev (s : State) (c g : Nat) (f : Group → Group) : (s.modGroup c g f).dev = s.dev := rfl
@[simp] theorem State.modGroup_ctxs (s : State) (c g : Nat) (f : Group → Group) : (s.modGroup c g f).ctxs = s.ctxs := rfl
@[simp] theorem State.modGroup_mem (s : State) (c g : Nat) (f : Group → Group) : (s.modGroup c g f).mem = s.mem := rfl
@[simp] theorem State.modGroup_full (s : State) (c g : Nat) (f : Group → Group) : (s.modGroup c g f).full = s.full := rfl
@[simp] theorem State.modGroup_pages (s : State) (c g : Nat) (f : Group → Group) : (s.modGroup c g f).pages = s.pages := rfl
@[simp] theorem State.modGroup_coh (s : State) (c g : Nat) (f : Group → Group) : (s.modGroup c g f).coh = s.coh := rfl
@[simp] theorem State.modGroup_dists (s : State) (c g : Nat) (f : Group → Group) : (s.modGroup c g f).dists = s.dists := rfl
@[simp] theorem State.modGroup_launches (s : State) (c g : Nat) (f : Group → Group) : (s.modGroup c g f).launches = s.launches := rfl
@[simp] theorem State.modGroup_flights (s : State) (c g : Nat) (f : Group → Group) : (s.modGroup c g f).flights = s.flights := rfl
@[simp] theorem State.modGroup_jobs (s : State) (c g : Nat) (f : Group → Group) : (s.modGroup c g f).jobs = s.jobs := rfl
@[simp] theorem State.modGroup_snaps (s : State) (c g : Nat) (f : Group → Group) : (s.modGroup c g f).snaps = s.snaps := rfl
@[simp] theorem State.modGroup_spire (s : State) (c g : Nat) (f : Group → Group) : (s.modGroup c g f).spire = s.spire := rfl
@[simp] theorem State.modGroup_cores (s : State) (c g : Nat) (f : Group → Group) : (s.modGroup c g f).cores = s.cores := rfl

/-! ### modPath -/

@[simp] theorem State.modPath_clk (s : State) (r : PathRef) (f : Path → Path) : (s.modPath r f).clk = s.clk := rfl
@[simp] theorem State.modPath_dev (s : State) (r : PathRef) (f : Path → Path) : (s.modPath r f).dev = s.dev := rfl
@[simp] theorem State.modPath_ctxs (s : State) (r : PathRef) (f : Path → Path) : (s.modPath r f).ctxs = s.ctxs := rfl
@[simp] theorem State.modPath_mem (s : State) (r : PathRef) (f : Path → Path) : (s.modPath r f).mem = s.mem := rfl
@[simp] theorem State.modPath_full (s : State) (r : PathRef) (f : Path → Path) : (s.modPath r f).full = s.full := rfl
@[simp] theorem State.modPath_pages (s : State) (r : PathRef) (f : Path → Path) : (s.modPath r f).pages = s.pages := rfl
@[simp] theorem State.modPath_coh (s : State) (r : PathRef) (f : Path → Path) : (s.modPath r f).coh = s.coh := rfl
@[simp] theorem State.modPath_dists (s : State) (r : PathRef) (f : Path → Path) : (s.modPath r f).dists = s.dists := rfl
@[simp] theorem State.modPath_launches (s : State) (r : PathRef) (f : Path → Path) : (s.modPath r f).launches = s.launches := rfl
@[simp] theorem State.modPath_flights (s : State) (r : PathRef) (f : Path → Path) : (s.modPath r f).flights = s.flights := rfl
@[simp] theorem State.modPath_jobs (s : State) (r : PathRef) (f : Path → Path) : (s.modPath r f).jobs = s.jobs := rfl
@[simp] theorem State.modPath_snaps (s : State) (r : PathRef) (f : Path → Path) : (s.modPath r f).snaps = s.snaps := rfl
@[simp] theorem State.modPath_spire (s : State) (r : PathRef) (f : Path → Path) : (s.modPath r f).spire = s.spire := rfl
@[simp] theorem State.modPath_cores (s : State) (r : PathRef) (f : Path → Path) : (s.modPath r f).cores = s.cores := rfl

/-! ### bump -/

@[simp] theorem State.bump_dev (s : State) : (s.bump).dev = s.dev := rfl
@[simp] theorem State.bump_ctxs (s : State) : (s.bump).ctxs = s.ctxs := rfl
@[simp] theorem State.bump_mem (s : State) : (s.bump).mem = s.mem := rfl
@[simp] theorem State.bump_full (s : State) : (s.bump).full = s.full := rfl
@[simp] theorem State.bump_pages (s : State) : (s.bump).pages = s.pages := rfl
@[simp] theorem State.bump_coh (s : State) : (s.bump).coh = s.coh := rfl
@[simp] theorem State.bump_dists (s : State) : (s.bump).dists = s.dists := rfl
@[simp] theorem State.bump_launches (s : State) : (s.bump).launches = s.launches := rfl
@[simp] theorem State.bump_combs (s : State) : (s.bump).combs = s.combs := rfl
@[simp] theorem State.bump_flights (s : State) : (s.bump).flights = s.flights := rfl
@[simp] theorem State.bump_jobs (s : State) : (s.bump).jobs = s.jobs := rfl
@[simp] theorem State.bump_snaps (s : State) : (s.bump).snaps = s.snaps := rfl
@[simp] theorem State.bump_spire (s : State) : (s.bump).spire = s.spire := rfl
@[simp] theorem State.bump_cores (s : State) : (s.bump).cores = s.cores := rfl

/-! ### spend -/

@[simp] theorem State.spend_dev (s : State) : (s.spend).dev = s.dev := rfl
@[simp] theorem State.spend_ctxs (s : State) : (s.spend).ctxs = s.ctxs := rfl
@[simp] theorem State.spend_mem (s : State) : (s.spend).mem = s.mem := rfl
@[simp] theorem State.spend_full (s : State) : (s.spend).full = s.full := rfl
@[simp] theorem State.spend_pages (s : State) : (s.spend).pages = s.pages := rfl
@[simp] theorem State.spend_coh (s : State) : (s.spend).coh = s.coh := rfl
@[simp] theorem State.spend_dists (s : State) : (s.spend).dists = s.dists := rfl
@[simp] theorem State.spend_launches (s : State) : (s.spend).launches = s.launches := rfl
@[simp] theorem State.spend_combs (s : State) : (s.spend).combs = s.combs := rfl
@[simp] theorem State.spend_flights (s : State) : (s.spend).flights = s.flights := rfl
@[simp] theorem State.spend_jobs (s : State) : (s.spend).jobs = s.jobs := rfl
@[simp] theorem State.spend_snaps (s : State) : (s.spend).snaps = s.snaps := rfl
@[simp] theorem State.spend_spire (s : State) : (s.spend).spire = s.spire := rfl
@[simp] theorem State.spend_cores (s : State) : (s.spend).cores = s.cores := rfl

/-! ### freePagesOf -/

@[simp] theorem State.freePagesOf_clk (s : State) (ps : List Nat) : (s.freePagesOf ps).clk = s.clk := rfl
@[simp] theorem State.freePagesOf_dev (s : State) (ps : List Nat) : (s.freePagesOf ps).dev = s.dev := rfl
@[simp] theorem State.freePagesOf_ctxs (s : State) (ps : List Nat) : (s.freePagesOf ps).ctxs = s.ctxs := rfl
@[simp] theorem State.freePagesOf_mem (s : State) (ps : List Nat) : (s.freePagesOf ps).mem = s.mem := rfl
@[simp] theorem State.freePagesOf_full (s : State) (ps : List Nat) : (s.freePagesOf ps).full = s.full := rfl
@[simp] theorem State.freePagesOf_coh (s : State) (ps : List Nat) : (s.freePagesOf ps).coh = s.coh := rfl
@[simp] theorem State.freePagesOf_dists (s : State) (ps : List Nat) : (s.freePagesOf ps).dists = s.dists := rfl
@[simp] theorem State.freePagesOf_launches (s : State) (ps : List Nat) : (s.freePagesOf ps).launches = s.launches := rfl
@[simp] theorem State.freePagesOf_combs (s : State) (ps : List Nat) : (s.freePagesOf ps).combs = s.combs := rfl
@[simp] theorem State.freePagesOf_flights (s : State) (ps : List Nat) : (s.freePagesOf ps).flights = s.flights := rfl
@[simp] theorem State.freePagesOf_jobs (s : State) (ps : List Nat) : (s.freePagesOf ps).jobs = s.jobs := rfl
@[simp] theorem State.freePagesOf_snaps (s : State) (ps : List Nat) : (s.freePagesOf ps).snaps = s.snaps := rfl
@[simp] theorem State.freePagesOf_spire (s : State) (ps : List Nat) : (s.freePagesOf ps).spire = s.spire := rfl
@[simp] theorem State.freePagesOf_cores (s : State) (ps : List Nat) : (s.freePagesOf ps).cores = s.cores := rfl

/-! ### zeroPages -/

@[simp] theorem State.zeroPages_clk (s : State) (p n : Nat) : (s.zeroPages p n).clk = s.clk := rfl
@[simp] theorem State.zeroPages_dev (s : State) (p n : Nat) : (s.zeroPages p n).dev = s.dev := rfl
@[simp] theorem State.zeroPages_ctxs (s : State) (p n : Nat) : (s.zeroPages p n).ctxs = s.ctxs := rfl
@[simp] theorem State.zeroPages_full (s : State) (p n : Nat) : (s.zeroPages p n).full = s.full := rfl
@[simp] theorem State.zeroPages_pages (s : State) (p n : Nat) : (s.zeroPages p n).pages = s.pages := rfl
@[simp] theorem State.zeroPages_coh (s : State) (p n : Nat) : (s.zeroPages p n).coh = s.coh := rfl
@[simp] theorem State.zeroPages_dists (s : State) (p n : Nat) : (s.zeroPages p n).dists = s.dists := rfl
@[simp] theorem State.zeroPages_launches (s : State) (p n : Nat) : (s.zeroPages p n).launches = s.launches := rfl
@[simp] theorem State.zeroPages_combs (s : State) (p n : Nat) : (s.zeroPages p n).combs = s.combs := rfl
@[simp] theorem State.zeroPages_flights (s : State) (p n : Nat) : (s.zeroPages p n).flights = s.flights := rfl
@[simp] theorem State.zeroPages_jobs (s : State) (p n : Nat) : (s.zeroPages p n).jobs = s.jobs := rfl
@[simp] theorem State.zeroPages_snaps (s : State) (p n : Nat) : (s.zeroPages p n).snaps = s.snaps := rfl
@[simp] theorem State.zeroPages_spire (s : State) (p n : Nat) : (s.zeroPages p n).spire = s.spire := rfl
@[simp] theorem State.zeroPages_cores (s : State) (p n : Nat) : (s.zeroPages p n).cores = s.cores := rfl

/-! ### copyPage -/

@[simp] theorem State.copyPage_clk (s : State) (a b : Nat) : (s.copyPage a b).clk = s.clk := rfl
@[simp] theorem State.copyPage_dev (s : State) (a b : Nat) : (s.copyPage a b).dev = s.dev := rfl
@[simp] theorem State.copyPage_ctxs (s : State) (a b : Nat) : (s.copyPage a b).ctxs = s.ctxs := rfl
@[simp] theorem State.copyPage_full (s : State) (a b : Nat) : (s.copyPage a b).full = s.full := rfl
@[simp] theorem State.copyPage_pages (s : State) (a b : Nat) : (s.copyPage a b).pages = s.pages := rfl
@[simp] theorem State.copyPage_coh (s : State) (a b : Nat) : (s.copyPage a b).coh = s.coh := rfl
@[simp] theorem State.copyPage_dists (s : State) (a b : Nat) : (s.copyPage a b).dists = s.dists := rfl
@[simp] theorem State.copyPage_launches (s : State) (a b : Nat) : (s.copyPage a b).launches = s.launches := rfl
@[simp] theorem State.copyPage_combs (s : State) (a b : Nat) : (s.copyPage a b).combs = s.combs := rfl
@[simp] theorem State.copyPage_flights (s : State) (a b : Nat) : (s.copyPage a b).flights = s.flights := rfl
@[simp] theorem State.copyPage_jobs (s : State) (a b : Nat) : (s.copyPage a b).jobs = s.jobs := rfl
@[simp] theorem State.copyPage_snaps (s : State) (a b : Nat) : (s.copyPage a b).snaps = s.snaps := rfl
@[simp] theorem State.copyPage_spire (s : State) (a b : Nat) : (s.copyPage a b).spire = s.spire := rfl
@[simp] theorem State.copyPage_cores (s : State) (a b : Nat) : (s.copyPage a b).cores = s.cores := rfl

/-! ### squashHook -/

@[simp] theorem State.squashHook_clk (s : State) (ks : List Nat) : (s.squashHook ks).clk = s.clk := rfl
@[simp] theorem State.squashHook_dev (s : State) (ks : List Nat) : (s.squashHook ks).dev = s.dev := rfl
@[simp] theorem State.squashHook_ctxs (s : State) (ks : List Nat) : (s.squashHook ks).ctxs = s.ctxs := rfl
@[simp] theorem State.squashHook_mem (s : State) (ks : List Nat) : (s.squashHook ks).mem = s.mem := rfl
@[simp] theorem State.squashHook_full (s : State) (ks : List Nat) : (s.squashHook ks).full = s.full := rfl
@[simp] theorem State.squashHook_pages (s : State) (ks : List Nat) : (s.squashHook ks).pages = s.pages := rfl
@[simp] theorem State.squashHook_coh (s : State) (ks : List Nat) : (s.squashHook ks).coh = s.coh := rfl
@[simp] theorem State.squashHook_dists (s : State) (ks : List Nat) : (s.squashHook ks).dists = s.dists := rfl
@[simp] theorem State.squashHook_launches (s : State) (ks : List Nat) : (s.squashHook ks).launches = s.launches := rfl
@[simp] theorem State.squashHook_flights (s : State) (ks : List Nat) : (s.squashHook ks).flights = s.flights := rfl
@[simp] theorem State.squashHook_jobs (s : State) (ks : List Nat) : (s.squashHook ks).jobs = s.jobs := rfl
@[simp] theorem State.squashHook_snaps (s : State) (ks : List Nat) : (s.squashHook ks).snaps = s.snaps := rfl
@[simp] theorem State.squashHook_spire (s : State) (ks : List Nat) : (s.squashHook ks).spire = s.spire := rfl
@[simp] theorem State.squashHook_cores (s : State) (ks : List Nat) : (s.squashHook ks).cores = s.cores := rfl

/-! ### forgetPage -/

@[simp] theorem State.forgetPage_clk (s : State) (a p : Nat) : (s.forgetPage a p).clk = s.clk := rfl
@[simp] theorem State.forgetPage_dev (s : State) (a p : Nat) : (s.forgetPage a p).dev = s.dev := rfl
@[simp] theorem State.forgetPage_ctxs (s : State) (a p : Nat) : (s.forgetPage a p).ctxs = s.ctxs := rfl
@[simp] theorem State.forgetPage_mem (s : State) (a p : Nat) : (s.forgetPage a p).mem = s.mem := rfl
@[simp] theorem State.forgetPage_full (s : State) (a p : Nat) : (s.forgetPage a p).full = s.full := rfl
@[simp] theorem State.forgetPage_pages (s : State) (a p : Nat) : (s.forgetPage a p).pages = s.pages := rfl
@[simp] theorem State.forgetPage_dists (s : State) (a p : Nat) : (s.forgetPage a p).dists = s.dists := rfl
@[simp] theorem State.forgetPage_launches (s : State) (a p : Nat) : (s.forgetPage a p).launches = s.launches := rfl
@[simp] theorem State.forgetPage_combs (s : State) (a p : Nat) : (s.forgetPage a p).combs = s.combs := rfl
@[simp] theorem State.forgetPage_flights (s : State) (a p : Nat) : (s.forgetPage a p).flights = s.flights := rfl
@[simp] theorem State.forgetPage_jobs (s : State) (a p : Nat) : (s.forgetPage a p).jobs = s.jobs := rfl
@[simp] theorem State.forgetPage_snaps (s : State) (a p : Nat) : (s.forgetPage a p).snaps = s.snaps := rfl
@[simp] theorem State.forgetPage_spire (s : State) (a p : Nat) : (s.forgetPage a p).spire = s.spire := rfl
@[simp] theorem State.forgetPage_cores (s : State) (a p : Nat) : (s.forgetPage a p).cores = s.cores := rfl

/-! ### forgetAll -/

@[simp] theorem State.forgetAll_clk (s : State) (a : Nat) : (s.forgetAll a).clk = s.clk := rfl
@[simp] theorem State.forgetAll_dev (s : State) (a : Nat) : (s.forgetAll a).dev = s.dev := rfl
@[simp] theorem State.forgetAll_ctxs (s : State) (a : Nat) : (s.forgetAll a).ctxs = s.ctxs := rfl
@[simp] theorem State.forgetAll_mem (s : State) (a : Nat) : (s.forgetAll a).mem = s.mem := rfl
@[simp] theorem State.forgetAll_full (s : State) (a : Nat) : (s.forgetAll a).full = s.full := rfl
@[simp] theorem State.forgetAll_pages (s : State) (a : Nat) : (s.forgetAll a).pages = s.pages := rfl
@[simp] theorem State.forgetAll_dists (s : State) (a : Nat) : (s.forgetAll a).dists = s.dists := rfl
@[simp] theorem State.forgetAll_launches (s : State) (a : Nat) : (s.forgetAll a).launches = s.launches := rfl
@[simp] theorem State.forgetAll_combs (s : State) (a : Nat) : (s.forgetAll a).combs = s.combs := rfl
@[simp] theorem State.forgetAll_flights (s : State) (a : Nat) : (s.forgetAll a).flights = s.flights := rfl
@[simp] theorem State.forgetAll_jobs (s : State) (a : Nat) : (s.forgetAll a).jobs = s.jobs := rfl
@[simp] theorem State.forgetAll_snaps (s : State) (a : Nat) : (s.forgetAll a).snaps = s.snaps := rfl
@[simp] theorem State.forgetAll_spire (s : State) (a : Nat) : (s.forgetAll a).spire = s.spire := rfl
@[simp] theorem State.forgetAll_cores (s : State) (a : Nat) : (s.forgetAll a).cores = s.cores := rfl

/-! ### setFstat -/

@[simp] theorem State.setFstat_clk (s : State) (c : Nat) (v : W64) : (s.setFstat c v).clk = s.clk := rfl
@[simp] theorem State.setFstat_dev (s : State) (c : Nat) (v : W64) : (s.setFstat c v).dev = s.dev := rfl
@[simp] theorem State.setFstat_ctxs (s : State) (c : Nat) (v : W64) : (s.setFstat c v).ctxs = s.ctxs := rfl
@[simp] theorem State.setFstat_mem (s : State) (c : Nat) (v : W64) : (s.setFstat c v).mem = s.mem := rfl
@[simp] theorem State.setFstat_full (s : State) (c : Nat) (v : W64) : (s.setFstat c v).full = s.full := rfl
@[simp] theorem State.setFstat_pages (s : State) (c : Nat) (v : W64) : (s.setFstat c v).pages = s.pages := rfl
@[simp] theorem State.setFstat_coh (s : State) (c : Nat) (v : W64) : (s.setFstat c v).coh = s.coh := rfl
@[simp] theorem State.setFstat_dists (s : State) (c : Nat) (v : W64) : (s.setFstat c v).dists = s.dists := rfl
@[simp] theorem State.setFstat_launches (s : State) (c : Nat) (v : W64) : (s.setFstat c v).launches = s.launches := rfl
@[simp] theorem State.setFstat_combs (s : State) (c : Nat) (v : W64) : (s.setFstat c v).combs = s.combs := rfl
@[simp] theorem State.setFstat_flights (s : State) (c : Nat) (v : W64) : (s.setFstat c v).flights = s.flights := rfl
@[simp] theorem State.setFstat_jobs (s : State) (c : Nat) (v : W64) : (s.setFstat c v).jobs = s.jobs := rfl
@[simp] theorem State.setFstat_snaps (s : State) (c : Nat) (v : W64) : (s.setFstat c v).snaps = s.snaps := rfl
@[simp] theorem State.setFstat_spire (s : State) (c : Nat) (v : W64) : (s.setFstat c v).spire = s.spire := rfl

/-! ### podSend -/

@[simp] theorem State.podSend_clk (s : State) (d : Nat) (m : PodMsg) : (s.podSend d m).clk = s.clk := rfl
@[simp] theorem State.podSend_dev (s : State) (d : Nat) (m : PodMsg) : (s.podSend d m).dev = s.dev := rfl
@[simp] theorem State.podSend_ctxs (s : State) (d : Nat) (m : PodMsg) : (s.podSend d m).ctxs = s.ctxs := rfl
@[simp] theorem State.podSend_mem (s : State) (d : Nat) (m : PodMsg) : (s.podSend d m).mem = s.mem := rfl
@[simp] theorem State.podSend_full (s : State) (d : Nat) (m : PodMsg) : (s.podSend d m).full = s.full := rfl
@[simp] theorem State.podSend_pages (s : State) (d : Nat) (m : PodMsg) : (s.podSend d m).pages = s.pages := rfl
@[simp] theorem State.podSend_coh (s : State) (d : Nat) (m : PodMsg) : (s.podSend d m).coh = s.coh := rfl
@[simp] theorem State.podSend_dists (s : State) (d : Nat) (m : PodMsg) : (s.podSend d m).dists = s.dists := rfl
@[simp] theorem State.podSend_launches (s : State) (d : Nat) (m : PodMsg) : (s.podSend d m).launches = s.launches := rfl
@[simp] theorem State.podSend_combs (s : State) (d : Nat) (m : PodMsg) : (s.podSend d m).combs = s.combs := rfl
@[simp] theorem State.podSend_flights (s : State) (d : Nat) (m : PodMsg) : (s.podSend d m).flights = s.flights := rfl
@[simp] theorem State.podSend_jobs (s : State) (d : Nat) (m : PodMsg) : (s.podSend d m).jobs = s.jobs := rfl
@[simp] theorem State.podSend_snaps (s : State) (d : Nat) (m : PodMsg) : (s.podSend d m).snaps = s.snaps := rfl
@[simp] theorem State.podSend_cores (s : State) (d : Nat) (m : PodMsg) : (s.podSend d m).cores = s.cores := rfl

/-! ### modPodBar -/

@[simp] theorem State.modPodBar_clk (s : State) (x n : Nat) (f : PodBar → PodBar) : (s.modPodBar x n f).clk = s.clk := rfl
@[simp] theorem State.modPodBar_dev (s : State) (x n : Nat) (f : PodBar → PodBar) : (s.modPodBar x n f).dev = s.dev := rfl
@[simp] theorem State.modPodBar_mem (s : State) (x n : Nat) (f : PodBar → PodBar) : (s.modPodBar x n f).mem = s.mem := rfl
@[simp] theorem State.modPodBar_full (s : State) (x n : Nat) (f : PodBar → PodBar) : (s.modPodBar x n f).full = s.full := rfl
@[simp] theorem State.modPodBar_pages (s : State) (x n : Nat) (f : PodBar → PodBar) : (s.modPodBar x n f).pages = s.pages := rfl
@[simp] theorem State.modPodBar_coh (s : State) (x n : Nat) (f : PodBar → PodBar) : (s.modPodBar x n f).coh = s.coh := rfl
@[simp] theorem State.modPodBar_dists (s : State) (x n : Nat) (f : PodBar → PodBar) : (s.modPodBar x n f).dists = s.dists := rfl
@[simp] theorem State.modPodBar_launches (s : State) (x n : Nat) (f : PodBar → PodBar) : (s.modPodBar x n f).launches = s.launches := rfl
@[simp] theorem State.modPodBar_combs (s : State) (x n : Nat) (f : PodBar → PodBar) : (s.modPodBar x n f).combs = s.combs := rfl
@[simp] theorem State.modPodBar_flights (s : State) (x n : Nat) (f : PodBar → PodBar) : (s.modPodBar x n f).flights = s.flights := rfl
@[simp] theorem State.modPodBar_jobs (s : State) (x n : Nat) (f : PodBar → PodBar) : (s.modPodBar x n f).jobs = s.jobs := rfl
@[simp] theorem State.modPodBar_snaps (s : State) (x n : Nat) (f : PodBar → PodBar) : (s.modPodBar x n f).snaps = s.snaps := rfl
@[simp] theorem State.modPodBar_spire (s : State) (x n : Nat) (f : PodBar → PodBar) : (s.modPodBar x n f).spire = s.spire := rfl
@[simp] theorem State.modPodBar_cores (s : State) (x n : Nat) (f : PodBar → PodBar) : (s.modPodBar x n f).cores = s.cores := rfl

/-! ### modPodView -/

@[simp] theorem State.modPodView_clk (s : State) (x n : Nat) (f : PodView → PodView) : (s.modPodView x n f).clk = s.clk := rfl
@[simp] theorem State.modPodView_dev (s : State) (x n : Nat) (f : PodView → PodView) : (s.modPodView x n f).dev = s.dev := rfl
@[simp] theorem State.modPodView_mem (s : State) (x n : Nat) (f : PodView → PodView) : (s.modPodView x n f).mem = s.mem := rfl
@[simp] theorem State.modPodView_full (s : State) (x n : Nat) (f : PodView → PodView) : (s.modPodView x n f).full = s.full := rfl
@[simp] theorem State.modPodView_pages (s : State) (x n : Nat) (f : PodView → PodView) : (s.modPodView x n f).pages = s.pages := rfl
@[simp] theorem State.modPodView_coh (s : State) (x n : Nat) (f : PodView → PodView) : (s.modPodView x n f).coh = s.coh := rfl
@[simp] theorem State.modPodView_dists (s : State) (x n : Nat) (f : PodView → PodView) : (s.modPodView x n f).dists = s.dists := rfl
@[simp] theorem State.modPodView_launches (s : State) (x n : Nat) (f : PodView → PodView) : (s.modPodView x n f).launches = s.launches := rfl
@[simp] theorem State.modPodView_combs (s : State) (x n : Nat) (f : PodView → PodView) : (s.modPodView x n f).combs = s.combs := rfl
@[simp] theorem State.modPodView_flights (s : State) (x n : Nat) (f : PodView → PodView) : (s.modPodView x n f).flights = s.flights := rfl
@[simp] theorem State.modPodView_jobs (s : State) (x n : Nat) (f : PodView → PodView) : (s.modPodView x n f).jobs = s.jobs := rfl
@[simp] theorem State.modPodView_snaps (s : State) (x n : Nat) (f : PodView → PodView) : (s.modPodView x n f).snaps = s.snaps := rfl
@[simp] theorem State.modPodView_spire (s : State) (x n : Nat) (f : PodView → PodView) : (s.modPodView x n f).spire = s.spire := rfl
@[simp] theorem State.modPodView_cores (s : State) (x n : Nat) (f : PodView → PodView) : (s.modPodView x n f).cores = s.cores := rfl

/-! ### breakComb -/

@[simp] theorem State.breakComb_clk (s : State) (c : Nat) : (s.breakComb c).clk = s.clk := rfl
@[simp] theorem State.breakComb_dev (s : State) (c : Nat) : (s.breakComb c).dev = s.dev := rfl
@[simp] theorem State.breakComb_ctxs (s : State) (c : Nat) : (s.breakComb c).ctxs = s.ctxs := rfl
@[simp] theorem State.breakComb_mem (s : State) (c : Nat) : (s.breakComb c).mem = s.mem := rfl
@[simp] theorem State.breakComb_full (s : State) (c : Nat) : (s.breakComb c).full = s.full := rfl
@[simp] theorem State.breakComb_pages (s : State) (c : Nat) : (s.breakComb c).pages = s.pages := rfl
@[simp] theorem State.breakComb_coh (s : State) (c : Nat) : (s.breakComb c).coh = s.coh := rfl
@[simp] theorem State.breakComb_dists (s : State) (c : Nat) : (s.breakComb c).dists = s.dists := rfl
@[simp] theorem State.breakComb_launches (s : State) (c : Nat) : (s.breakComb c).launches = s.launches := rfl
@[simp] theorem State.breakComb_flights (s : State) (c : Nat) : (s.breakComb c).flights = s.flights := rfl
@[simp] theorem State.breakComb_jobs (s : State) (c : Nat) : (s.breakComb c).jobs = s.jobs := rfl
@[simp] theorem State.breakComb_snaps (s : State) (c : Nat) : (s.breakComb c).snaps = s.snaps := rfl
@[simp] theorem State.breakComb_spire (s : State) (c : Nat) : (s.breakComb c).spire = s.spire := rfl
@[simp] theorem State.breakComb_cores (s : State) (c : Nat) : (s.breakComb c).cores = s.cores := rfl

/-! ### breakSpans -/

@[simp] theorem State.breakSpans_clk (s : State) (n : Nat) (l : List SpanId) : (s.breakSpans n l).clk = s.clk := rfl
@[simp] theorem State.breakSpans_dev (s : State) (n : Nat) (l : List SpanId) : (s.breakSpans n l).dev = s.dev := rfl
@[simp] theorem State.breakSpans_ctxs (s : State) (n : Nat) (l : List SpanId) : (s.breakSpans n l).ctxs = s.ctxs := rfl
@[simp] theorem State.breakSpans_mem (s : State) (n : Nat) (l : List SpanId) : (s.breakSpans n l).mem = s.mem := rfl
@[simp] theorem State.breakSpans_full (s : State) (n : Nat) (l : List SpanId) : (s.breakSpans n l).full = s.full := rfl
@[simp] theorem State.breakSpans_pages (s : State) (n : Nat) (l : List SpanId) : (s.breakSpans n l).pages = s.pages := rfl
@[simp] theorem State.breakSpans_coh (s : State) (n : Nat) (l : List SpanId) : (s.breakSpans n l).coh = s.coh := rfl
@[simp] theorem State.breakSpans_dists (s : State) (n : Nat) (l : List SpanId) : (s.breakSpans n l).dists = s.dists := rfl
@[simp] theorem State.breakSpans_combs (s : State) (n : Nat) (l : List SpanId) : (s.breakSpans n l).combs = s.combs := rfl
@[simp] theorem State.breakSpans_flights (s : State) (n : Nat) (l : List SpanId) : (s.breakSpans n l).flights = s.flights := rfl
@[simp] theorem State.breakSpans_jobs (s : State) (n : Nat) (l : List SpanId) : (s.breakSpans n l).jobs = s.jobs := rfl
@[simp] theorem State.breakSpans_snaps (s : State) (n : Nat) (l : List SpanId) : (s.breakSpans n l).snaps = s.snaps := rfl
@[simp] theorem State.breakSpans_spire (s : State) (n : Nat) (l : List SpanId) : (s.breakSpans n l).spire = s.spire := rfl
@[simp] theorem State.breakSpans_cores (s : State) (n : Nat) (l : List SpanId) : (s.breakSpans n l).cores = s.cores := rfl

/-! ### modLines -/

@[simp] theorem State.modLines_clk (s : State) (f : List CacheLine → List CacheLine) : (s.modLines f).clk = s.clk := rfl
@[simp] theorem State.modLines_dev (s : State) (f : List CacheLine → List CacheLine) : (s.modLines f).dev = s.dev := rfl
@[simp] theorem State.modLines_ctxs (s : State) (f : List CacheLine → List CacheLine) : (s.modLines f).ctxs = s.ctxs := rfl
@[simp] theorem State.modLines_mem (s : State) (f : List CacheLine → List CacheLine) : (s.modLines f).mem = s.mem := rfl
@[simp] theorem State.modLines_full (s : State) (f : List CacheLine → List CacheLine) : (s.modLines f).full = s.full := rfl
@[simp] theorem State.modLines_pages (s : State) (f : List CacheLine → List CacheLine) : (s.modLines f).pages = s.pages := rfl
@[simp] theorem State.modLines_dists (s : State) (f : List CacheLine → List CacheLine) : (s.modLines f).dists = s.dists := rfl
@[simp] theorem State.modLines_launches (s : State) (f : List CacheLine → List CacheLine) : (s.modLines f).launches = s.launches := rfl
@[simp] theorem State.modLines_combs (s : State) (f : List CacheLine → List CacheLine) : (s.modLines f).combs = s.combs := rfl
@[simp] theorem State.modLines_flights (s : State) (f : List CacheLine → List CacheLine) : (s.modLines f).flights = s.flights := rfl
@[simp] theorem State.modLines_jobs (s : State) (f : List CacheLine → List CacheLine) : (s.modLines f).jobs = s.jobs := rfl
@[simp] theorem State.modLines_snaps (s : State) (f : List CacheLine → List CacheLine) : (s.modLines f).snaps = s.snaps := rfl
@[simp] theorem State.modLines_spire (s : State) (f : List CacheLine → List CacheLine) : (s.modLines f).spire = s.spire := rfl
@[simp] theorem State.modLines_cores (s : State) (f : List CacheLine → List CacheLine) : (s.modLines f).cores = s.cores := rfl

/-! ### modSB -/

@[simp] theorem State.modSB_clk (s : State) (f : List SBEntry → List SBEntry) : (s.modSB f).clk = s.clk := rfl
@[simp] theorem State.modSB_dev (s : State) (f : List SBEntry → List SBEntry) : (s.modSB f).dev = s.dev := rfl
@[simp] theorem State.modSB_ctxs (s : State) (f : List SBEntry → List SBEntry) : (s.modSB f).ctxs = s.ctxs := rfl
@[simp] theorem State.modSB_mem (s : State) (f : List SBEntry → List SBEntry) : (s.modSB f).mem = s.mem := rfl
@[simp] theorem State.modSB_full (s : State) (f : List SBEntry → List SBEntry) : (s.modSB f).full = s.full := rfl
@[simp] theorem State.modSB_pages (s : State) (f : List SBEntry → List SBEntry) : (s.modSB f).pages = s.pages := rfl
@[simp] theorem State.modSB_dists (s : State) (f : List SBEntry → List SBEntry) : (s.modSB f).dists = s.dists := rfl
@[simp] theorem State.modSB_launches (s : State) (f : List SBEntry → List SBEntry) : (s.modSB f).launches = s.launches := rfl
@[simp] theorem State.modSB_combs (s : State) (f : List SBEntry → List SBEntry) : (s.modSB f).combs = s.combs := rfl
@[simp] theorem State.modSB_flights (s : State) (f : List SBEntry → List SBEntry) : (s.modSB f).flights = s.flights := rfl
@[simp] theorem State.modSB_jobs (s : State) (f : List SBEntry → List SBEntry) : (s.modSB f).jobs = s.jobs := rfl
@[simp] theorem State.modSB_snaps (s : State) (f : List SBEntry → List SBEntry) : (s.modSB f).snaps = s.snaps := rfl
@[simp] theorem State.modSB_spire (s : State) (f : List SBEntry → List SBEntry) : (s.modSB f).spire = s.spire := rfl
@[simp] theorem State.modSB_cores (s : State) (f : List SBEntry → List SBEntry) : (s.modSB f).cores = s.cores := rfl

/-! ### takeBytes -/

@[simp] theorem State.takeBytes_clk (s : State) (k : CacheId) (d : List (Nat × Byte)) : (s.takeBytes k d).clk = s.clk := rfl
@[simp] theorem State.takeBytes_dev (s : State) (k : CacheId) (d : List (Nat × Byte)) : (s.takeBytes k d).dev = s.dev := rfl
@[simp] theorem State.takeBytes_ctxs (s : State) (k : CacheId) (d : List (Nat × Byte)) : (s.takeBytes k d).ctxs = s.ctxs := rfl
@[simp] theorem State.takeBytes_mem (s : State) (k : CacheId) (d : List (Nat × Byte)) : (s.takeBytes k d).mem = s.mem := rfl
@[simp] theorem State.takeBytes_full (s : State) (k : CacheId) (d : List (Nat × Byte)) : (s.takeBytes k d).full = s.full := rfl
@[simp] theorem State.takeBytes_pages (s : State) (k : CacheId) (d : List (Nat × Byte)) : (s.takeBytes k d).pages = s.pages := rfl
@[simp] theorem State.takeBytes_dists (s : State) (k : CacheId) (d : List (Nat × Byte)) : (s.takeBytes k d).dists = s.dists := rfl
@[simp] theorem State.takeBytes_launches (s : State) (k : CacheId) (d : List (Nat × Byte)) : (s.takeBytes k d).launches = s.launches := rfl
@[simp] theorem State.takeBytes_combs (s : State) (k : CacheId) (d : List (Nat × Byte)) : (s.takeBytes k d).combs = s.combs := rfl
@[simp] theorem State.takeBytes_flights (s : State) (k : CacheId) (d : List (Nat × Byte)) : (s.takeBytes k d).flights = s.flights := rfl
@[simp] theorem State.takeBytes_jobs (s : State) (k : CacheId) (d : List (Nat × Byte)) : (s.takeBytes k d).jobs = s.jobs := rfl
@[simp] theorem State.takeBytes_snaps (s : State) (k : CacheId) (d : List (Nat × Byte)) : (s.takeBytes k d).snaps = s.snaps := rfl
@[simp] theorem State.takeBytes_spire (s : State) (k : CacheId) (d : List (Nat × Byte)) : (s.takeBytes k d).spire = s.spire := rfl
@[simp] theorem State.takeBytes_cores (s : State) (k : CacheId) (d : List (Nat × Byte)) : (s.takeBytes k d).cores = s.cores := rfl

/-! ### modSnap -/

@[simp] theorem State.modSnap_clk (s : State) (n : Nat) (f : Snap → Snap) : (s.modSnap n f).clk = s.clk := rfl
@[simp] theorem State.modSnap_dev (s : State) (n : Nat) (f : Snap → Snap) : (s.modSnap n f).dev = s.dev := rfl
@[simp] theorem State.modSnap_ctxs (s : State) (n : Nat) (f : Snap → Snap) : (s.modSnap n f).ctxs = s.ctxs := rfl
@[simp] theorem State.modSnap_mem (s : State) (n : Nat) (f : Snap → Snap) : (s.modSnap n f).mem = s.mem := rfl
@[simp] theorem State.modSnap_full (s : State) (n : Nat) (f : Snap → Snap) : (s.modSnap n f).full = s.full := rfl
@[simp] theorem State.modSnap_pages (s : State) (n : Nat) (f : Snap → Snap) : (s.modSnap n f).pages = s.pages := rfl
@[simp] theorem State.modSnap_coh (s : State) (n : Nat) (f : Snap → Snap) : (s.modSnap n f).coh = s.coh := rfl
@[simp] theorem State.modSnap_dists (s : State) (n : Nat) (f : Snap → Snap) : (s.modSnap n f).dists = s.dists := rfl
@[simp] theorem State.modSnap_launches (s : State) (n : Nat) (f : Snap → Snap) : (s.modSnap n f).launches = s.launches := rfl
@[simp] theorem State.modSnap_combs (s : State) (n : Nat) (f : Snap → Snap) : (s.modSnap n f).combs = s.combs := rfl
@[simp] theorem State.modSnap_flights (s : State) (n : Nat) (f : Snap → Snap) : (s.modSnap n f).flights = s.flights := rfl
@[simp] theorem State.modSnap_jobs (s : State) (n : Nat) (f : Snap → Snap) : (s.modSnap n f).jobs = s.jobs := rfl
@[simp] theorem State.modSnap_spire (s : State) (n : Nat) (f : Snap → Snap) : (s.modSnap n f).spire = s.spire := rfl
@[simp] theorem State.modSnap_cores (s : State) (n : Nat) (f : Snap → Snap) : (s.modSnap n f).cores = s.cores := rfl

/-! ### modSpire -/

@[simp] theorem State.modSpire_clk (s : State) (f : Spire → Spire) : (s.modSpire f).clk = s.clk := rfl
@[simp] theorem State.modSpire_dev (s : State) (f : Spire → Spire) : (s.modSpire f).dev = s.dev := rfl
@[simp] theorem State.modSpire_ctxs (s : State) (f : Spire → Spire) : (s.modSpire f).ctxs = s.ctxs := rfl
@[simp] theorem State.modSpire_mem (s : State) (f : Spire → Spire) : (s.modSpire f).mem = s.mem := rfl
@[simp] theorem State.modSpire_full (s : State) (f : Spire → Spire) : (s.modSpire f).full = s.full := rfl
@[simp] theorem State.modSpire_pages (s : State) (f : Spire → Spire) : (s.modSpire f).pages = s.pages := rfl
@[simp] theorem State.modSpire_coh (s : State) (f : Spire → Spire) : (s.modSpire f).coh = s.coh := rfl
@[simp] theorem State.modSpire_dists (s : State) (f : Spire → Spire) : (s.modSpire f).dists = s.dists := rfl
@[simp] theorem State.modSpire_launches (s : State) (f : Spire → Spire) : (s.modSpire f).launches = s.launches := rfl
@[simp] theorem State.modSpire_combs (s : State) (f : Spire → Spire) : (s.modSpire f).combs = s.combs := rfl
@[simp] theorem State.modSpire_flights (s : State) (f : Spire → Spire) : (s.modSpire f).flights = s.flights := rfl
@[simp] theorem State.modSpire_jobs (s : State) (f : Spire → Spire) : (s.modSpire f).jobs = s.jobs := rfl
@[simp] theorem State.modSpire_snaps (s : State) (f : Spire → Spire) : (s.modSpire f).snaps = s.snaps := rfl
@[simp] theorem State.modSpire_cores (s : State) (f : Spire → Spire) : (s.modSpire f).cores = s.cores := rfl

/-! ### loseOthers -/

@[simp] theorem State.loseOthers_clk (s : State) (core slot : Nat) (r : PathRef) : (s.loseOthers core slot r).clk = s.clk := rfl
@[simp] theorem State.loseOthers_dev (s : State) (core slot : Nat) (r : PathRef) : (s.loseOthers core slot r).dev = s.dev := rfl
@[simp] theorem State.loseOthers_ctxs (s : State) (core slot : Nat) (r : PathRef) : (s.loseOthers core slot r).ctxs = s.ctxs := rfl
@[simp] theorem State.loseOthers_mem (s : State) (core slot : Nat) (r : PathRef) : (s.loseOthers core slot r).mem = s.mem := rfl
@[simp] theorem State.loseOthers_full (s : State) (core slot : Nat) (r : PathRef) : (s.loseOthers core slot r).full = s.full := rfl
@[simp] theorem State.loseOthers_pages (s : State) (core slot : Nat) (r : PathRef) : (s.loseOthers core slot r).pages = s.pages := rfl
@[simp] theorem State.loseOthers_coh (s : State) (core slot : Nat) (r : PathRef) : (s.loseOthers core slot r).coh = s.coh := rfl
@[simp] theorem State.loseOthers_dists (s : State) (core slot : Nat) (r : PathRef) : (s.loseOthers core slot r).dists = s.dists := rfl
@[simp] theorem State.loseOthers_launches (s : State) (core slot : Nat) (r : PathRef) : (s.loseOthers core slot r).launches = s.launches := rfl
@[simp] theorem State.loseOthers_flights (s : State) (core slot : Nat) (r : PathRef) : (s.loseOthers core slot r).flights = s.flights := rfl
@[simp] theorem State.loseOthers_jobs (s : State) (core slot : Nat) (r : PathRef) : (s.loseOthers core slot r).jobs = s.jobs := rfl
@[simp] theorem State.loseOthers_snaps (s : State) (core slot : Nat) (r : PathRef) : (s.loseOthers core slot r).snaps = s.snaps := rfl
@[simp] theorem State.loseOthers_spire (s : State) (core slot : Nat) (r : PathRef) : (s.loseOthers core slot r).spire = s.spire := rfl
@[simp] theorem State.loseOthers_cores (s : State) (core slot : Nat) (r : PathRef) : (s.loseOthers core slot r).cores = s.cores := rfl

/-! ### liftComb -/

@[simp] theorem State.liftComb_clk (s : State) (c : Comb) : (s.liftComb c).clk = s.clk := rfl
@[simp] theorem State.liftComb_dev (s : State) (c : Comb) : (s.liftComb c).dev = s.dev := rfl
@[simp] theorem State.liftComb_ctxs (s : State) (c : Comb) : (s.liftComb c).ctxs = s.ctxs := rfl
@[simp] theorem State.liftComb_pages (s : State) (c : Comb) : (s.liftComb c).pages = s.pages := rfl
@[simp] theorem State.liftComb_dists (s : State) (c : Comb) : (s.liftComb c).dists = s.dists := rfl
@[simp] theorem State.liftComb_launches (s : State) (c : Comb) : (s.liftComb c).launches = s.launches := rfl
@[simp] theorem State.liftComb_flights (s : State) (c : Comb) : (s.liftComb c).flights = s.flights := rfl
@[simp] theorem State.liftComb_jobs (s : State) (c : Comb) : (s.liftComb c).jobs = s.jobs := rfl
@[simp] theorem State.liftComb_snaps (s : State) (c : Comb) : (s.liftComb c).snaps = s.snaps := rfl
@[simp] theorem State.liftComb_spire (s : State) (c : Comb) : (s.liftComb c).spire = s.spire := rfl
@[simp] theorem State.liftComb_cores (s : State) (c : Comb) : (s.liftComb c).cores = s.cores := rfl

end Sys2Proof.Machine
end

