-- ==== Sys2Proof/Tests/Slice0.lean ====
section
/-! SUPPORT. The model's own tests: forms that the well-formedness check refuses, words of the spec's encodings, small
single steps, and for each statement states that meet its hypotheses. -/

set_option Elab.async false

namespace Sys2Proof.Tests

open Sys2Proof Sys2Proof.Machine

/-! ### Helpers -/

/-- A row's fields. -/
def fm (sub : BitVec 6) (ty : Ty) (dst : Dst) (s0 : Src := .vec 0) (s1 : Src := .vec 0) (s2 : Src := .vec 0) (imm : BitVec 32 := 0) : Form :=
  { sub := sub, ty := ty, dst := dst, s0 := s0, s1 := s1, s2 := s2, imm := imm }

/-- The path that a small world runs. -/
def r0 : PathRef := { comb := 1, group := 0, path := 0 }

/-- Reset with one comb (1) of launch 2 on core 0, whose path stands at the row and is chosen. -/
def world (o : Op) (f : Form) : State :=
  let s := State.reset.withFetchWord 96 (encodeOp o f).toNat
  { s with clk := { s.clk with issuing := [], cur := some r0 } }

/-- A row in a world that a test has changed. -/
def inWorld (o : Op) (f : Form) (g : State → State) : State := g (world o f)

/-- Changes of the world's comb, group and path. -/
def onComb (h : Comb → Comb) (s : State) : State := s.modComb 1 h
def onGroup (h : Group → Group) (s : State) : State := s.modGroup 1 0 h
def onPath (h : Path → Path) (s : State) : State := s.modPath r0 h

/-- Scalar register `n` holds `v`. -/
def setS (n : Nat) (v : W64) : State → State := onGroup fun g => { g with s := setAt g.s n v }

/-- The comb has a window of 4 KiB at the aperture's base. -/
def window : State → State := onComb fun c => { c with scratch := 4096, spap := 0xFFFFFFF0000000, spBase := 0xFFFFFFF0000000#64 }

/-- Table entries that map virtual addresses 0 to 2 MiB at tower address 0 with read and write permission; `hi` is the
leaf's top byte (its TT), `lo` its bottom byte. -/
def tables (lo hi : Byte) : Memory :=
  { cells := [(0x1000, 1), (0x1001, 0x20), (0x2000, 1), (0x2001, 0x30), (0x3000, 1), (0x3001, 0x40), (0x4000, lo)]
      ++ if hi = 0 then [] else [(0x4007, hi)] }

/-- Context 0 uses the tables. -/
def mapped (lo hi : Byte) (s : State) : State :=
  { s with mem := tables lo hi }.modCtx 0 fun x => { x with en := true, ptroot := 0x1000 }

/-- Header bits 96 and up of a bundle: END, and JOIN with an id. -/
def endBit : Nat := 2 ^ 9
def joinBits (j : Nat) : Nat := 1 + 2 * j
/-- The line where the world's path stands, made of bundles: the header's bits 96 and up, and the rows in its slots. -/
def bundles (l : List (Nat × List (Op × Form))) (s : State) : State :=
  let one := fun (x : Nat × List (Op × Form)) =>
    leBytes 16 ((List.range x.2.length).foldl (fun m i => m + 0x800078 * 2 ^ (24 * i)) (x.1 * 2 ^ 96))
      ++ (x.2.map fun y => leBytes 12 (encodeOp y.1 y.2).toNat).flatten ++ List.replicate (48 - 12 * x.2.length) 0
  let data := (l.map one).flatten
  { s with coh := { s.coh with il := s.coh.il.map fun x => { x with data := data ++ List.replicate (256 - data.length) 0 } } }

/-- The next state of an instruction or event. -/
def after (i : Instr) (s : State) : State := match exec i s with | .next t => t | _ => s

/-- A path that is ready at a row and meets a further condition. -/
def readyAt (s : State) (o : Op) (f : Form) (p : Env → Bool) : Bool :=
  match s.env? with
  | some e => o.legal f && (!o.transfers || e.b.lastValid e.k) && !e.contHolds o f && p e
  | none => false

/-- A state in which a path is ready at a row and meets a condition. -/
theorem met {s : State} {o : Op} {f : Form} {P : Env → Prop} [DecidablePred P] (h : readyAt s o f (fun e => decide (P e)) = true) :
    ∃ e, Ready s e o f ∧ P e := by
  unfold readyAt at h
  split at h
  next e he =>
    simp only [Bool.and_eq_true, Bool.or_eq_true, Bool.not_eq_true', decide_eq_true_eq] at h
    obtain ⟨⟨⟨h1, h2⟩, h3⟩, h4⟩ := h
    exact ⟨e, ⟨he, h1, fun ht => h2.resolve_left (by simp [ht]), h3⟩, h4⟩
  next => cases h

/-- The same for each of some rows. -/
theorem metAll {α : Type} {l : List α} {s : α → State} {o : α → Op} {f : α → Form} {P : α → Env → Prop} [∀ x, DecidablePred (P x)]
    (h : l.all (fun x => readyAt (s x) (o x) (f x) (fun e => decide (P x e))) = true) :
    ∀ x ∈ l, ∃ e, Ready (s x) e (o x) (f x) ∧ P x e := fun x hx => met (List.all_eq_true.mp h x hx)

/-! ### Well-formedness (R49, R100 to R105, R116) and encodings -/

theorem test_wf_dst_of_scalar_row : (Instr.sadd (fm 0 .i32 (.vec 4) (.scal 1) (.scal 1))).wellFormed = false := by decide
theorem test_wf_unused_source : (Instr.smov (fm 0 .none (.scal 4) (.scal 1) (.scal 2))).wellFormed = false := by decide
theorem test_wf_type : (Instr.fadd (fm 0 .i32 (.vec 4))).wellFormed = false := by decide
theorem test_wf_sub : (Instr.vote (fm 3 .none (.vec 4))).wellFormed = false := by decide
theorem test_wf_imm : (Instr.nop (fm 0 .none (.none 0) (imm := 1))).wellFormed = false := by decide
theorem test_wf_mod : (Instr.mov { fm 0 .none (.vec 4) with mod := true }).wellFormed = false := by decide
theorem test_wf_nwb_of_predicate : (Instr.cmp { fm 0 .i32 (.pred 1) with nwb := true }).wellFormed = false := by decide
theorem test_wf_format : (Instr.qnt (fm 0 .none (.vec 10) (.vec 0) (.scal 4) (imm := 0x5F))).wellFormed = false := by decide
theorem test_wf_gang_ids : (Instr.mma (fm 0 .none (.vec 4) (.scal 1) (.scal 1))).wellFormed = false := by decide
theorem test_wf_join_id : (Instr.br (fm 0 .none (.none 2) .immS)).wellFormed = true := by decide

/-- The words of the spec's worked encodings, family by family, with the instructions that the tables beside them name. -/
def W (a b c : Nat) : Nat := a * 2 ^ 64 + b * 2 ^ 32 + c
theorem test_decode_control : decodeTableWord 96 (W 0x01000702 0x60000000 0xFFFFFFFD) = some (.br { fm 0 .none (.none 2) .immS (imm := 0xFFFFFFFD) with pred := 1 })
    ∧ decodeTableWord 96 (W 0x04041F00 0x60008000 3) = some (.fcall (fm 1 .none (.none 0) .immS (.vec 16) (imm := 3))) := by decide
theorem test_decode_scalar : decodeTableWord 96 (W 0x10011D03 0x20680800 0) = some (.sadd (fm 0 .i64 (.scal 3) (.scal 3) (.scal 1)))
    ∧ decodeTableWord 96 (W 0x14081D29 0x25294000 0) = some (.slog (fm 2 .none (.scal 41) (.scal 41) (.scal 40))) := by decide
theorem test_decode_lane : decodeTableWord 96 (W 0x260CDE09 0x00800800 0) = some (.cmp (fm 3 .i32 (.pred 1) (.vec 4) (.vec 1)))
    ∧ decodeTableWord 96 (W 0x2A01DC0D 0x01800000 0) = some (.bit (fm 0 .n32 (.vec 13) (.vec 12))) := by decide
theorem test_decode_float : decodeTableWord 96 (W 0x31025C09 0x02004000 0) = some (.fmul (fm 0 .f32 (.vec 9) (.vec 16) (.vec 8)))
    ∧ decodeTableWord 96 (W 0x31025C09 0x80201000 0) = some (.fmul { fm 0 .f32 (.vec 9) (.vec 1) (.vec 2) with nwb := true })
    ∧ decodeTableWord 96 (W 0x32025C04 0x00201400 0) = some (.fma (fm 0 .f32 (.vec 4) (.vec 1) (.vec 2) (.latch 0)))
    ∧ decodeTableWord 96 (W 0x30025C06 0x00781000 0x3F000000) = some (.fadd (fm 0 .f32 (.vec 6) (.vec 3) .immF (imm := 0x3F000000))) := by decide
theorem test_decode_convert : decodeTableWord 96 (W 0x411E5C08 0 0) = some (.bmax (fm 7 .f32 (.vec 8)))
    ∧ decodeTableWord 96 (W 0x42001C09 0x01000000 0xF) = some (.bscl (fm 0 .none (.vec 9) (.vec 8) (imm := 0xF)))
    ∧ decodeTableWord 96 (W 0x43101C0A 0x00004800 0x4F) = some (.qnt (fm 4 .none (.vec 10) (.vec 0) (.vec 9) (imm := 0x4F))) := by decide
theorem test_decode_cross : decodeTableWord 96 (W 0x50001C0E 0x00A06800 0) = some (.shfl (fm 0 .none (.vec 14) (.vec 5) (.vec 13)))
    ∧ decodeTableWord 96 (W 0x53001C0C 0x41200000 0) = some (.ballot (fm 0 .none (.vec 12) (.pred 1))) := by decide
theorem test_decode_memory : decodeTableWord 96 (W 0x60055C04 0x20C01001 0x40) = some (.ld { fm 1 .b128 (.vec 4) (.scal 6) (.vec 2) (imm := 64) with mod := true })
    ∧ decodeTableWord 96 (W 0x61011F00 0x20C0022E 0x20) = some (.st (fm 0 .b64 (.none 0) (.scal 6) (.vec 0) (.scal 23) (imm := 32)))
    ∧ decodeTableWord 96 (W 0x61014B00 0x23000009 0) = some (.st { fm 0 .b128 (.none 0) (.scal 24) (.vec 0) (.vec 4) with pred := 2, mod := true })
    ∧ decodeTableWord 96 (W 0x63BD9F00 0x21600014 0) = some (.stsc (fm 47 .sc (.none 0) (.scal 11) (.vec 0) (.vec 10))) := by decide
theorem test_decode_sync : decodeTableWord 96 (W 0x7200C805 0x20802001 0) = some (.ldfeTake { fm 0 .b32 (.vec 5) (.scal 4) (.vec 4) with pred := 2, mod := true })
    ∧ decodeTableWord 96 (W 0x7300CB00 0x2080200F 0) = some (.stfe { fm 0 .b32 (.none 0) (.scal 4) (.vec 4) (.vec 7) with pred := 2, mod := true })
    ∧ decodeTableWord 96 (W 0x74641D1B 0x2348D000 0) = some (.barPost (fm 25 .none (.scal 27) (.scal 26) (.scal 26)))
    ∧ decodeTableWord 96 (W 0x78041F00 0x22A8B000 0) = some (.fenceBank (fm 1 .none (.none 0) (.scal 21) (.scal 22))) := by decide
theorem test_decode_matrix : decodeTableWord 96 (W 0x80001E23 0x20882800 0x296F) = some (.mma (fm 0 .none (.acc 3) (.scal 4) (.scal 5) (imm := 0x296F)))
    ∧ decodeTableWord 96 (W 0x81001F00 0x2188A21B 0x0C005589) = some (.mmv { fm 0 .none (.none 0) (.scal 12) (.scal 20) (.scal 13) (imm := 0x0C005589) with mod := true }) := by decide
theorem test_decode_batch : decodeTableWord 96 (W 0x90001D0A 0x20E00000 0) = some (.bclose (fm 0 .none (.scal 10) (.scal 7))) := by decide
theorem test_decode_illegal_opcode : decodeTableWord 96 0x0B0000000000000000000000 = none := by decide
theorem test_decode_reserved_kind : decodeTableWord 96 0x1800010460E0000000000000 = none := by decide
/-! ### States that meet the hypotheses of the statements about register rows -/

/-- Outside a continuation nothing of R307 or R309 stalls. -/
theorem contStalls_of_no_fork {e : Env} (h : e.fork = none) (srcs : List (Src × Env.Need)) (ws : List RegWrite) :
    e.contStalls srcs ws = false := by
  unfold Env.contStalls
  rw [h]

/-- A row with the needs of its operands and of its destination. -/
structure Row where
  o    : Op
  f    : Form
  srcs : List (Src × Env.Need)
  dn   : Env.Need := {}

/-- What RegRow assumes of a row and a state. -/
def Row.Met (s : State) (x : Row) : Prop :=
  ∃ e, Ready s e x.o x.f ∧ e.check x.srcs x.f.dst x.dn = none ∧ (∀ ws, e.contStalls x.srcs ws = false) ∧ e.active x.f.pred ≠ 0

theorem rowsMet {l : List Row} {s : Row → State}
    (h : l.all (fun x => readyAt (s x) x.o x.f fun e => decide (e.check x.srcs x.f.dst x.dn = none ∧ e.fork = none ∧ e.active x.f.pred ≠ 0)) = true) :
    ∀ x ∈ l, x.Met (s x) := fun x hx => by
  obtain ⟨e, h1, h2, h3, h4⟩ := metAll (P := fun x e => e.check x.srcs x.f.dst x.dn = none ∧ e.fork = none ∧ e.active x.f.pred ≠ 0) h x hx
  exact ⟨e, h1, h2, contStalls_of_no_fork h3 x.srcs, h4⟩

def u : Env.Need := { uniform := true }
def S (n : BitVec 6) : Src := .scal n
def V (n : BitVec 8) : Src := .vec n
/-- A uniform row with `n` operands; a lane row with `n` operands. -/
def sc (o : Op) (n : Nat) (ty : Ty) (sub : BitVec 6 := 0) (imm : BitVec 32 := 0) : Row :=
  { o := o, f := fm sub ty (.scal 4) (S 1) (if 2 ≤ n then S 2 else V 0) (if 3 ≤ n then S 3 else V 0) imm
    srcs := ([S 1, S 2, S 3].take n).map fun x => (x, u) }
def ln (o : Op) (n : Nat) (ty : Ty) (sub : BitVec 6 := 0) (imm : BitVec 32 := 0) (k : Nat := 1) : Row :=
  { o := o, f := fm sub ty (.vec 4) (V 8) (if 2 ≤ n then V 16 else V 0) (if 3 ≤ n then V 24 else V 0) imm
    srcs := ([V 8, V 16, V 24].take n).map fun x => (x, { span := k, mult := k }), dn := { span := k, mult := k } }

def scalarRows : List Row := [sc .sadd 2 .i32, sc .sadd 2 .n64 1, sc .ssub 2 .i64, sc .smul 2 .n32 1, sc .smad 3 .i32, sc .slog 2 .none 5,
  sc .sshf 2 .n32 4, sc .scmp 2 .i64 5, sc .ssel 3 .none, sc .smov 1 .none, sc .sadr 2 .none,
  { o := .sadr, f := fm 8 .none (.scal 4) (V 0) (S 2), srcs := [(S 2, u)] }, sc .sbit 1 .n64 3, sc .smm 2 .i32 1]

theorem wit_ScalarRowsComplete : ∀ x ∈ scalarRows, x.Met (world x.o x.f) := rowsMet (by decide +kernel)

def intRows : List Row := [ln .add 2 .i8 1, ln .add 2 .i64 0 0 2, ln .sub 2 .n16, ln .mul 2 .n32 1, ln .mad 3 .i32, ln .log 2 .none 4, ln .shf 2 .n32 4,
  ln .sel 3 .none, ln .mov 1 .none, ln .mm 2 .i16 1, ln .bit 1 .n32 2]
theorem wit_LaneIntegerRowsComplete : ∀ x ∈ intRows, x.Met (world x.o x.f) := rowsMet (by decide +kernel)

def oddRows : List Row := [{ ln .cmp 2 .i32 2 with dn := {} }, ln .dot4 3 .i8 1]
theorem wit_LaneOddRowsComplete : ∀ x ∈ oddRows, x.Met (world x.o x.f) := rowsMet (by decide +kernel)
/-- movx with index 0 in every lane: the register is the base itself. -/
theorem wit_movx : ∀ x ∈ [ln .movxLd 2 .none, { ln .movxSt 2 .none 1 with srcs := [(V 8, {}), (V 16, {})] }],
    ∃ e, Ready (world x.o x.f) e x.o x.f ∧ (e.check [(x.f.s0, {}), (x.f.s1, {})] x.f.dst {} = none ∧ e.fork = none ∧ e.active x.f.pred ≠ 0
      ∧ ∀ l < 32, lane (e.active x.f.pred) l = true → (if x.o = .movxLd then e.srcNum x.f.s0 else e.dstNum x.f.dst).getD 0 + (e.val x.f x.f.s1 l).toNat % 2 ^ 32 < e.c.regs) :=
  metAll (by decide +kernel)

def floatRows : List Row := [ln .fadd 2 .f32, ln .fadd 2 .f16 8, ln .fmul 2 .bf16, ln .fma 3 .f32 24, ln .fmm 2 .f32 1, ln .fcmp 2 .f32 6, ln .fsf 1 .f32,
  { ln .fcls 1 .f32 with f := fm 0 .f32 (.vec 4) (V 8) (S 1) }, ln .fsgn 1 .f32 1, ln .fsgn 2 .f32 2]
theorem wit_LaneFloatRowsComplete : ∀ x ∈ floatRows, x.Met (world x.o x.f) := rowsMet (by decide +kernel)

def laneOne (o : Op) (ty : Ty) (srcs : List (Src × Env.Need)) (dn : Env.Need) (f : Form) : Row := { o := o, f := { f with ty := ty }, srcs := srcs, dn := dn }
def conversionRows : List Row := [
  laneOne .cvt .none [(V 8, { span := 4 })] {} (fm 0 .none (.vec 4) (V 8) (imm := 11 + 8 * 256)),
  { ln .bmax 1 .f32 with f := fm 3 .f32 (.vec 4) (V 8), srcs := [(V 8, { span := 4 })] },
  { ln .bscl 1 .none with f := fm 0 .none (.vec 4) (V 8) (imm := 15) },
  { ln .qnt 2 .none with f := fm 0 .none (.vec 10) (V 0) (V 18) (imm := 0x4F), srcs := [(V 0, { span := 32 }), (V 18, {})], dn := { span := 2, mult := 2 } },
  { ln .dqnt 1 .none with f := fm 0 .none (.vec 0) (V 10) (imm := 0x4F), srcs := [(V 10, { span := 2, mult := 2 })], dn := { span := 32 } },
  { ln .rblk 2 .none with f := fm 0 .none (.vec 4) (V 10) (V 18) (imm := 0x4F), srcs := [(V 10, { span := 2, mult := 2 }), (V 18, {})], dn := { span := 2, mult := 2 } },
  { ln .pack 1 .none with f := fm 0 .none (.vec 4) (V 8) }, { ln .pack 2 .none with f := fm 8 .none (.vec 4) (V 8) (V 16) }]
theorem wit_ConversionRowsComplete : ∀ x ∈ conversionRows, x.Met (world x.o x.f) := rowsMet (by decide +kernel)

def crossRows : List Row := [ln .shfl 2 .none 3, ln .permLane 2 .none, ln .permByte 3 .none 1, ln .vote 1 .none 2, ln .ballot 1 .none,
  { ln .ballotGrp 1 .none 1 with f := fm 1 .none (.scal 4) (V 8) }, ln .popc 1 .none 1, ln .red 1 .f32, ln .scan 1 .i32 8]
theorem wit_CrossLaneRowsComplete : ∀ x ∈ crossRows, x.Met (world x.o x.f) := rowsMet (by decide +kernel)
/-! ### States that meet the hypotheses of the statements about control and special registers -/

def readable : List SReg := [.exm, .part, .prio, .gang, .seed, .nf, .fmode, .fdepth, .spbase, .spsize, .combid, .groupid, .core, .batch, .trapvec, .fstat, .karg]
def writable : List SReg := [.exm, .part, .prio, .gang, .seed, .nf, .fmode, .trapvec, .fstat]
def specialRows : List Row :=
  (readable.map fun r => ({ o := .mfs, f := fm 0 .none (.scal 4) (.spec r), srcs := [] } : Row))
    ++ (writable.map fun r => ({ o := .mts, f := fm 0 .none (.spec r) (S 1), srcs := [(S 1, u)] } : Row))
    ++ [{ o := .setseed, f := fm 0 .none (.none 0) (S 1), srcs := [(S 1, u)] }, { o := .setseedGrp, f := fm 1 .none (.none 0) (S 1), srcs := [(S 1, u)] },
        { o := .nop, f := {}, srcs := [] }]
theorem wit_SpecialRowsComplete : ∀ x ∈ specialRows, x.Met (world x.o x.f) := rowsMet (by decide +kernel)

/-- Predicate q1 holds in half of the lanes. -/
def some_ : State → State := onGroup fun g => { g with q := [0, 0xF0F0F0F0, 0, 0, 0, 0, 0, 0] }
/-- The path runs under an older divergence. -/
def nested : State → State := onPath fun p => { p with cstack := [{ pc := 64, pl := 7, exm := 7, jid := 1, rstack := [], depth := 0, held := false }] }
def toBundle3 : Form := fm 0 .none (.none 2) .immS (imm := 3)
def toS1 : Form := fm 0 .none (.none 2) (S 1)
def ret1 : State → State := onPath fun p => { p with rstack := [{ obj := 0, off := 0x1000, fork := none }], depth := 1 }

/-- The three cases of a transfer: no lane stays; a main path divides with a path index free; a path of a divided one divides. -/
def divides (e : Env) (f : Form) : Nat :=
  if e.p.exm &&& ~~~(e.active f.pred) = 0 then 0
  else if e.p.kind = .main ∧ e.p.cstack = [] ∧ (Env.freeIndex e.g).isSome then 1 else if e.p.cstack ≠ [] ∧ e.p.cstack.length < 16 then 2 else 3

theorem wit_BranchesComplete : ∀ x ∈ ([(.br, toBundle3, id, 0), (.br, { toBundle3 with pred := 1 }, some_, 1), (.br, { toBundle3 with pred := 1 }, nested ∘ some_, 2),
      (.brx, toS1, setS 1 0x1240, 0), (.brx, { toS1 with pred := 1 }, setS 1 0x1240 ∘ some_, 1)] : List (Op × Form × (State → State) × Nat)),
    ∃ e, Ready (inWorld x.1 x.2.1 x.2.2.1) e x.1 x.2.1 ∧ (e.check (if x.2.1.s0.isImm then [] else [(x.2.1.s0, u)]) x.2.1.dst {} = none ∧ e.fork = none
      ∧ e.b.fin = false ∧ e.active x.2.1.pred ≠ 0 ∧ divides e x.2.1 = x.2.2.2 ∧ (x.2.1.s0 = .immS ∨ (e.uni x.2.1 x.2.1.s0).toNat % 64 = 0)) :=
  metAll (by decide +kernel)
/-- With q1 clear no lane takes the branch. -/
theorem wit_branch_not_taken : ∃ e, Ready (world .br { toBundle3 with pred := 1 }) e .br { toBundle3 with pred := 1 }
    ∧ (e.check [] (.none 2) {} = none ∧ e.fork = none ∧ e.active 1 = 0) := met (by decide +kernel)
def tabRow : Form := fm 1 .none (.none 0) (S 1) (S 2)
def tabWorld (f : Form) : State := window (mapped 0x1f 0 (inWorld .brxTab f (some_ ∘ setS 1 0x1240 ∘ setS 2 3)))
/-- Every lane takes it, and only some do. -/
theorem wit_brxTab : ∀ f ∈ [tabRow, { tabRow with pred := 1 }], ∃ e, Ready (tabWorld f) e .brxTab f ∧ (e.check [(S 1, u), (S 2, u)] (.none 0) {} = none
    ∧ e.fork = none ∧ e.b.fin = false ∧ e.active f.pred ≠ 0 ∧ (e.p.exm &&& ~~~(e.active f.pred) = 0 ↔ f.pred = 7)
    ∧ e.outsideWindow (e.uni f (S 1) + 8 * e.uni f (S 2)) = false
    ∧ ((e.resolve 8 .read ttLoad ((Env.lowest (e.active f.pred)).getD 0) (e.uni f (S 1) + 8 * e.uni f (S 2))).getLeft?.any fun p =>
        let e1 := e.noteAll [p] []
        e1.mayPeek (e.uni f (S 1) + 8 * e.uni f (S 2)).toNat p.key 8 && leNat (e1.peek p.key 8).1 % 64 == 0) = true) := metAll (by decide +kernel)
/-- A transfer in the last slot of a bundle with END. -/
theorem wit_transfer_at_end : ∃ e, Ready (bundles [(endBit, [(.br, toBundle3)])] (world .br toBundle3)) e .br toBundle3
    ∧ (e.check [] (.none 2) {} = none ∧ e.fork = none ∧ e.active 7 ≠ 0 ∧ e.b.fin = true) := met (by decide +kernel)

theorem wit_CallsAndReturnsComplete : ∀ x ∈ ([(.call, toBundle3, id), (.call, { toS1 with pred := 9 }, setS 1 0x1240 ∘ some_), (.fcall, toBundle3, id),
      (.ret, fm 0 .none (.none 2), ret1)] : List (Op × Form × (State → State))),
    ∃ e, Ready (inWorld x.1 x.2.1 x.2.2) e x.1 x.2.1 ∧ (e.check (if x.1 = .ret ∨ x.2.1.s0.isImm then [] else [(x.2.1.s0, u)]) x.2.1.dst {} = none ∧ e.fork = none
      ∧ e.b.fin = false ∧ e.active x.2.1.pred ≠ 0 ∧ e.p.rstack.length < 16 ∧ (x.1 = .fcall → e.forkPlace x.2.1 = none ∧ (e.s.siteMark e.core e.p.pc).noFork = false)
      ∧ (x.1 = .ret → e.p.rstack.map (fun r => r.fork) = [none]) ∧ (x.2.1.s0 = .scal 1 → (e.uni x.2.1 x.2.1.s0).toNat % 64 = 0)) :=
  metAll (by decide +kernel)

/-- The site's mark has calls left. -/
def marked : State := (world .fcall toBundle3).setSite { core := 0, site := 0, rowN := 3, left := 7 }
theorem wit_marked_site : ∃ e, Ready marked e .fcall toBundle3 ∧ (e.check [] (.none 2) {} = none ∧ e.fork = none ∧ e.forkPlace toBundle3 = none
    ∧ (marked.siteMark e.core e.p.pc).noFork = true ∧ e.p.rstack.length < 16 ∧ e.p.cstack.length < 16) := met (by decide +kernel)

def forken : State → State := fun s => s.modLaunch 2 fun l => { l with desc := { l.desc with forken := true } }
def shadow5 : State → State := forken ∘ onComb fun c => { c with shadow := [5] }
theorem wit_FcallForks : ∃ e, Ready (inWorld .fcall toBundle3 shadow5) e .fcall toBundle3
    ∧ (e.check [] (.none 2) {} = none ∧ (e.forkPlace toBundle3).isSome ∧ e.fork = none ∧ e.b.fin = false ∧ e.p.rstack.length < 16) := met (by decide +kernel)

/-- The same in the rest of a bundle during a save. -/
theorem wit_FcallForks_saving : ∃ e, Ready ((inWorld .fcall toBundle3 shadow5).modCtx 0 fun x => { x with pstate := 1 }) e .fcall toBundle3
    ∧ (e.check [] (.none 2) {} = none ∧ (e.forkPlace toBundle3).isSome ∧ e.fork = none ∧ e.b.fin = false ∧ e.p.rstack.length < 16
      ∧ (e.s.ctx e.ctx).pstate ≠ 0) := met (by decide +kernel)

/-- The group has a stack page and a handler. -/
def trapOk : State → State := onGroup fun g => { g with trapvec := 0x12345601, stack := some 3, q := [0, 0xF0F0, 3, 0, 0, 0, 0, 0] }
def trapRow : Form := { fm 0 .none (.none 0) .immZ (imm := 0x1234) with pred := 1 }
theorem wit_TrapInstructionTakesTrap :
    (∃ e, Ready (inWorld .trap trapRow trapOk) e .trap trapRow ∧ (e.fork = none ∧ e.active 1 ≠ 0 ∧ e.g.trapvec.getLsbD 0 = true
      ∧ e.p.inHandler = false ∧ e.g.stack = some 3 ∧ e.k < 4 ∧ e.p.pix ≤ 5))
    ∧ (inWorld .trap trapRow trapOk).snaps = [] ∧ (inWorld .trap trapRow trapOk).mem.wf = true :=
  ⟨met (by decide +kernel), by decide +kernel, by decide +kernel⟩
theorem wit_TrapWithoutLanes : ∃ e, Ready (world .trap trapRow) e .trap trapRow ∧ e.active 1 = 0 := met (by decide +kernel)

def back : Form := fm 1 .none (.none 0)
def record0 : TrapRec := { code := 0x0A, slot := 0, bundle := 0, exmsave := 0xFF, lanes := 3, info := 5, s63save := 0x77, home := 0 }
def handler : State → State := trapOk ∘ onPath fun p => { p with exm := 3, inHandler := true, trap := some record0 }
/-- A handler that returns from a trap at a slot of a bundle, in a line of three bundles, with RESUME in the record. -/
def returning (resume : Nat) (bundle slot : Nat) : State :=
  let tr := { record0 with bundle := bundle, slot := slot }
  let s := bundles [(0, [(.nop, {}), (.retTr, back)]), (0, [(.nop, {})]), (endBit, [(.nop, {})])]
    (inWorld .retTr back (onPath (fun p => { p with slot := 1, trap := some tr }) ∘ handler))
  { s with mem := s.mem.set (kTower (3 * 65536 + 1)) (BitVec.ofNat 8 (4 * resume)) }
/-- RESUME 0; 1 with a slot after the trapped one, in the last slot, in the last slot of END, and with the line absent; 2 likewise; 3. -/
theorem wit_TrapReturnRestores : ∀ x ∈ [(0, 0, 0), (1, 0, 0), (1, 64, 0), (1, 128, 0), (1, 0x4000, 0), (2, 0, 0), (2, 64, 0), (3, 0, 0)],
    ∃ e, Ready (returning x.1 x.2.1 x.2.2) e .retTr back ∧ (e.fork = none ∧ e.setf = none ∧ e.b.fin = false ∧ e.p.inHandler = true
      ∧ e.p.trap = some { record0 with bundle := x.2.1, slot := x.2.2 } ∧ e.g.stack = some 3 ∧ e.active 7 ≠ 0
      ∧ e.mayPeek (State.stackVa e.core e.g + 1) (kTower (3 * 65536 + 1)) 1 = true
      ∧ ((e.peek (kTower (3 * 65536 + 1)) 1).1.headD 0).toNat / 4 % 4 = x.1 ∧ e.p.pl &&& ~~~3 ≠ 0 ∧ e.p.cstack = [] ∧ (∀ y ∈ e.g.paths, y.origin ≠ some e.p.pix)
      ∧ (((e.s.bundleAt e.core (e.s.asid e.ctx) x.2.1).map fun b => (b.nextValid (x.2.2 + 1), b.fin))
          = if x.2.1 = 0 then some (some 1, false) else if x.2.1 = 0x4000 then none else some (none, x.2.1 == 128))) := metAll (by decide +kernel)

theorem wit_HintsComplete : ∀ x ∈ ([(.ipf, fm 0 .none (.none 0) (S 1)), (.dpf, fm 0 .none (.none 0) (V 1))] : List (Op × Form)),
    ∃ e, Ready (mapped 0x1f 0 (inWorld x.1 x.2 (setS 1 0x40))) e x.1 x.2 ∧ e.fork = none := metAll (by decide +kernel)

/-- The chosen path stands at a word whose encoding is not an instruction; and at a transfer that is not in the last slot. -/
theorem wit_IllegalEncodingTraps :
    (∃ e, (world .nop {}).env? = some e ∧ e.fork = none ∧ Op.legal .dpf (fm 3 .b32 (.none 0) (V 1)) = false)
    ∧ ∃ e, (onPath (fun p => { p with slot := 0 }) (returning 1 0 0)).env? = some e ∧ e.fork = none ∧ Op.transfers .br = true ∧ e.b.lastValid e.k = false := by
  constructor
  · exact ⟨((world .nop {}).env?).get (by decide +kernel), by simp, by decide +kernel, by decide +kernel⟩
  · exact ⟨((onPath (fun p => { p with slot := 0 }) (returning 1 0 0)).env?).get (by decide +kernel), by simp, by decide +kernel, by decide +kernel, by decide +kernel⟩

/-- A destination out of bounds, and a lost latch, in rows of several families. -/
theorem wit_operands_trap : ∀ x ∈ ([(.log, fm 0 .none (.vec 200) (V 0) (V 1), [(V 0, {}), (V 1, {})], 200), (.add, fm 0 .i32 (.vec 200) (V 0) (V 1), [(V 0, {}), (V 1, {})], 200),
      (.movxLd, fm 0 .none (.vec 4) (V 200) (V 1), [(V 200, {}), (V 1, {})], 200), (.movxSt, fm 1 .none (.vec 200) (V 0) (V 1), [(V 0, {}), (V 1, {})], 200),
      (.ld, fm 0 .b32 (.vec 200) (V 0), [(V 0, {})], 200), (.log, fm 0 .none (.vec 4) (.latch 0) (V 1), [(.latch 0, {}), (V 1, {})], 0),
      (.smov, fm 0 .none (.scal 4) (.latch 1), [(.latch 1, { uniform := true })], 0), (.movxLd, fm 0 .none (.vec 4) (V 0) (.latch 2), [(V 0, {}), (.latch 2, {})], 0)] :
      List (Op × Form × List (Src × Env.Need) × Nat)),
    ∃ e, Ready (inWorld x.1 x.2.1 (onComb fun c => { c with regs := 64 })) e x.1 x.2.1 ∧ (e.fork = none ∧ (x.2.2.1.all fun (y : Src × Env.Need) => !e.srcBad y.1 y.2) = true
      ∧ ((((e.dstNum x.2.1.dst).map fun r => (r, 1)).toList ++ x.2.2.1.filterMap fun (y : Src × Env.Need) => (e.srcNum y.1).map fun r => (r, y.2.span)).find? fun y => decide (e.c.regs < y.1 + y.2))
          = (if x.2.2.2 = 0 then none else some (x.2.2.2, 1))
      ∧ (x.2.2.2 = 0 → (x.2.2.1.any fun (y : Src × Env.Need) => match y.1 with | .latch k => decide (e.latch k.toNat = .lost) | _ => false) = true)) := metAll (by decide +kernel)
/-- A movx whose base is in bounds and whose index is not, in lane 0. -/
theorem wit_movx_out : ∀ x ∈ ([(.movxLd, fm 0 .none (.vec 4) (V 8) (.immZ) (imm := 1000)), (.movxSt, fm 1 .none (.vec 8) (V 0) (.immZ) (imm := 1000))] : List (Op × Form)),
    ∃ e, Ready (world x.1 x.2) e x.1 x.2 ∧ (e.fork = none ∧ e.check [(x.2.s0, {}), (x.2.s1, {})] x.2.dst {} = none ∧ lane (e.active x.2.pred) 0 = true
      ∧ e.c.regs ≤ 8 + (e.val x.2 x.2.s1 0).toNat % 2 ^ 32) := metAll (by decide +kernel)

/-- The chosen path is the continuation of a fork. -/
def asCont : State → State := shadow5 ∘ (onGroup fun g => { g with forks := [{ num := 9, site := 0, shadow := 5, pix := 0, lanes := 0xFF }] })
  ∘ onPath fun p => { p with kind := .cont }
/-- A row that R311 names, mfs of NF, the last slot of a bundle with END, and a ret at the fork's depth. -/
theorem wit_ContinuationHolds : ∀ x ∈ ([(.fenceAll, fm 0 .none (.none 0), false), (.mfs, fm 0 .none (.scal 4) (.spec .nf), false), (.nop, {}, true),
      (.ret, fm 0 .none (.none 2), false)] : List (Op × Form × Bool)),
    let s := bundles [(if x.2.2 then endBit else 0, [(x.1, x.2.1)])] (inWorld x.1 x.2.1 asCont)
    ∃ e, s.env? = some e ∧ e.fork.isSome ∧ x.1.legal x.2.1 = true ∧ e.b.lastValid e.k = true ∧ e.b.fin = x.2.2 ∧ e.active 7 ≠ 0
      ∧ e.fork.any (fun k => decide (e.p.depth ≤ k.depth)) = true := by
  intro x hx s
  have h : ([(.fenceAll, fm 0 .none (.none 0), false), (.mfs, fm 0 .none (.scal 4) (.spec .nf), false), (.nop, {}, true),
      (.ret, fm 0 .none (.none 2), false)] : List (Op × Form × Bool)).all (fun x => match (bundles [(if x.2.2 then endBit else 0, [(x.1, x.2.1)])] (inWorld x.1 x.2.1 asCont)).env? with
      | some e => decide (e.fork.isSome ∧ x.1.legal x.2.1 = true ∧ e.b.lastValid e.k = true ∧ e.b.fin = x.2.2 ∧ e.active 7 ≠ 0
        ∧ e.fork.any (fun k => decide (e.p.depth ≤ k.depth)) = true)
      | none => false) = true := by decide +kernel
  have h1 := List.all_eq_true.mp h x hx
  split at h1
  next e he => exact ⟨e, he, of_decide_eq_true h1⟩
  next => cases h1
/-! ### States that meet the hypotheses of the statements about memory and synchronisation -/

/-- A row that accesses memory: operands, bytes per lane, whether uniform, permission, targets, and a further condition. -/
structure MemRow where
  row  : Row
  s    : State
  n    : Nat
  uni  : Bool := false
  need : Access
  okTT : Nat → Bool
  more : Env → List Place → Bool := fun _ _ => true

/-- A state in which every lane of a memory row translates. -/
def MemRow.Met (x : MemRow) : Prop :=
  ∃ e ps, Translates x.s e x.row.o x.row.f x.row.srcs x.row.dn x.n x.uni x.need x.okTT ps ∧ e.fork = none ∧ e.g.ended = false ∧ ps ≠ []
    ∧ x.more e ps = true

theorem memMet {l : List MemRow}
    (h : l.all (fun x => readyAt x.s x.row.o x.row.f fun e => decide (e.check x.row.srcs x.row.f.dst x.row.dn = none
      ∧ (∀ y ∈ e.laneAddrs x.row.f x.n x.uni, e.outsideWindow y.2 = false)
      ∧ (e.resolveAll x.n x.need x.okTT (e.laneAddrs x.row.f x.n x.uni)).2 = [] ∧ e.fork = none ∧ e.g.ended = false
      ∧ (e.resolveAll x.n x.need x.okTT (e.laneAddrs x.row.f x.n x.uni)).1 ≠ []
      ∧ x.more e (e.resolveAll x.n x.need x.okTT (e.laneAddrs x.row.f x.n x.uni)).1 = true)) = true) :
    ∀ x ∈ l, x.Met := fun x hx => by
  obtain ⟨e, h1, h2, h3, h4, h5, h6, h7, h8⟩ := metAll (s := fun x : MemRow => x.s) (o := fun x => x.row.o) (f := fun x => x.row.f)
    (P := fun x e => e.check x.row.srcs x.row.f.dst x.row.dn = none ∧ (∀ y ∈ e.laneAddrs x.row.f x.n x.uni, e.outsideWindow y.2 = false)
      ∧ (e.resolveAll x.n x.need x.okTT (e.laneAddrs x.row.f x.n x.uni)).2 = [] ∧ e.fork = none ∧ e.g.ended = false
      ∧ (e.resolveAll x.n x.need x.okTT (e.laneAddrs x.row.f x.n x.uni)).1 ≠ []
      ∧ x.more e (e.resolveAll x.n x.need x.okTT (e.laneAddrs x.row.f x.n x.uni)).1 = true) h x hx
  exact ⟨e, _, ⟨h1, h2, h3, Prod.ext rfl h4⟩, h5, h6, h7, h8⟩

/-- Lanes 0 to 3 are enabled; v0 holds addresses 0x10000 + n i, s2 an address, s3 an aligned line. -/
def mem4 (n : Nat) : State → State :=
  (onGroup fun g => { g with v := setAt g.v 0 ((List.range 32).map fun i => BitVec.ofNat 32 (0x10000 + n * i)) }) ∘ (onPath fun p => { p with exm := 0xF })
    ∘ setS 2 0x10020 ∘ setS 3 0x10080
def inMem (lo hi : Byte) (o : Op) (f : Form) (n : Nat) : State := window (mapped lo hi (inWorld o f (mem4 n)))
def span (k : Nat) : Env.Need := { span := k, mult := k }
def ldTT : Nat → Bool := fun k => k ≤ 4 || k == 7
def scTT : Nat → Bool := fun k => k ≤ 1 || k == 3 || k == 4 || k == 7
def tracks (e : Env) (ps : List Place) : Bool := (e.track (ps.map fun p => p.key)).isSome
def tracks4 (e : Env) (ps : List Place) : Bool := (e.track (ps.map fun p => [p.key, p.key + 32, p.key + 64, p.key + 96]).flatten).isSome

def loads : List MemRow :=
  let f1 := fm 0 .b32 (.vec 4) (V 0)
  let f2 := fm 0 .b128 (.vec 4) (S 2)
  let f3 := fm 0 .b64 (.scal 4) (S 2)
  let f4 := fm 32 .sc (.vec 4) (S 3)
  [{ row := { o := .ld, f := f1, srcs := [(V 0, {})], dn := span 1 }, s := inMem 0x1f 0 .ld f1 4, n := 4, need := .read, okTT := ldTT, more := tracks },
   { row := { o := .ld, f := f2, srcs := [(S 2, {})], dn := span 4 }, s := inMem 0x1f 0 .ld f2 4, n := 16, need := .read, okTT := ldTT, more := tracks },
   { row := { o := .ld, f := f3, srcs := [(S 2, u)], dn := span 2 }, s := inMem 0x1f 0 .ld f3 4, n := 8, uni := true, need := .read, okTT := ldTT, more := tracks },
   { row := { o := .ldsc, f := f4, srcs := [(S 3, u)], dn := span 2 }, s := inMem 0x1f 0 .ldsc f4 4, n := 128, uni := true, need := .read, okTT := scTT, more := tracks4 }]
theorem wit_LoadsIssue : ∀ x ∈ loads, x.Met := memMet (by decide +kernel)

/-- The window's first tile: one tile, whose entry says that it is empty of data (R227). -/
def zRow : Form := fm 4 .b32 (.vec 4) (S 3)
def zWorld : State :=
  let s := onComb (fun c => { c with scratch := 8192 }) (window (mapped 0x1f 0 (inWorld .ldZ zRow ((onPath fun p => { p with exm := 0xF }) ∘ setS 3 0xFFFFFFF0000000))))
  { s with mem := s.mem.setAll (cellsFrom (kScratch 0 0) (leBytes 8 1 ++ leBytes 4 0x80 ++ List.replicate 148 0)) }
theorem wit_LoadCompressedIssues : ∃ e, Ready zWorld e .ldZ zRow ∧ (e.check [(S 3, u)] (.vec 4) (span 1) = none ∧ e.active 7 ≠ 0
    ∧ e.inWindowN 0xFFFFFFF0000000 8 = true ∧ e.s.inAperture e.ctx 0xFFFFFFF0000000 = some (0, 0) ∧ e.fork = none ∧ e.g.ended = false
    ∧ (let k := kScratch 0 0
       let e1 : Env := { e with s := (e.peek k 8).2 }
       let read := fun (a m : Nat) => (e1.peek a m).1
       e.mayPeek 0xFFFFFFF0000000 k 8 = true ∧ e1.mayPeek 0xFFFFFFF0000000 k 12 = true ∧ leNat ((e.peek k 8).1.take 4) = 1
        ∧ leNat (read (k + 8) 4) = 0x80 ∧ e1.inWindowN (0xFFFFFFF0000000 + 32) 0x80 = true
        ∧ e1.mayPeek (0xFFFFFFF0000000 + 32) (k + 32) 0x80 = true ∧ (bdzBytes (read (k + 32) 0x80)).isSome)) := met (by decide +kernel)
theorem wit_ldz_no_lane : ∃ e, Ready (world .ldZ { zRow with pred := 1 }) e .ldZ { zRow with pred := 1 }
    ∧ (e.check [(S 3, u)] (.vec 4) (span 1) = none ∧ e.active 1 = 0 ∧ e.fork = none ∧ e.g.ended = false) := met (by decide +kernel)

def stores : List MemRow :=
  let f1 := fm 0 .b32 (.none 0) (V 0) (V 0) (V 2)
  let f2 := fm 0 .b128 (.none 0) (S 2) (V 0) (V 4)
  let f3 := fm 0 .sc (.none 0) (S 3) (V 0) (V 2)
  let plain := fun (e : Env) (ps : List Place) => !e.specFull && ps.all fun p => p.tt != 5 && p.tt != 6
  [{ row := { o := .st, f := f1, srcs := [(V 0, {}), (V 2, span 1)] }, s := inMem 0x1f 0 .st f1 4, n := 4, need := .write, okTT := fun k => k ≤ 7, more := plain },
   { row := { o := .st, f := f2, srcs := [(S 2, {}), (V 4, span 4)] }, s := inMem 0x1f 0 .st f2 4, n := 16, need := .write, okTT := fun k => k ≤ 7, more := plain },
   { row := { o := .stmc, f := f1, srcs := [(V 0, {}), (V 2, span 1)] }, s := inMem 0x1f 0x80 .stmc f1 4, n := 4, need := .write, okTT := fun k => k == 4 },
   { row := { o := .stsc, f := f3, srcs := [(S 3, u), (V 2, span 2)] }, s := inMem 0x1f 0 .stsc f3 4, n := 128, uni := true, need := .write, okTT := scTT }]
theorem wit_StoresIssue : ∀ x ∈ stores, x.Met := memMet (by decide +kernel)

def cardRow : Form := fm 0 .b64 (.none 0) (S 2) (V 0) (V 2)
def cards : List MemRow :=
  [{ row := { o := .st, f := cardRow, srcs := [(S 2, {}), (V 2, span 2)] }, n := 8, need := .write, okTT := fun k => k ≤ 7, s := onPath (fun p => { p with exm := 1 }) (inMem 0x1f 0xA0 .st cardRow 4), more := fun _ ps => ps.map (fun p => (p.tt, p.va.toNat % 64)) == [(5, 0x20)] }]
theorem wit_CardStoresIssue : ∀ x ∈ cards, x.Met := memMet (by decide +kernel)

def parkRow : Form := fm 0 .b32 (.vec 4) (V 0)
def parkSt : Form := fm 0 .b32 (.none 0) (V 0) (V 0) (V 2)
def parkCas : Form := fm 0 .b32 (.vec 4) (V 0) (V 2) (V 3)
/-- Rows whose lanes fault: the form, its sources, permission and targets. -/
def parks : List (Op × Form × List (Src × Env.Need) × Env.Need × Access × (Nat → Bool)) :=
  let tt : Nat → Bool := fun k => k ≤ 3 || k == 7
  [(.ld, parkRow, [(V 0, {})], span 1, .read, ldTT), (.st, parkSt, [(V 0, {}), (V 2, span 1)], {}, .write, fun k => k ≤ 7),
   (.atom, { parkSt with dst := .vec 4 }, [(V 0, {}), (V 2, span 1)], span 1, .write, tt),
   (.cas, parkCas, [(V 0, {}), (V 2, span 1), (V 3, span 1)], span 1, .write, tt)]
/-- Every enabled lane faults, as nothing is mapped; and lanes 2 and 3 do, which lie beyond the 2 MiB that are mapped. -/
theorem wit_FaultingLoadParks : ∀ x ∈ parks, ∀ part ∈ [false, true],
    ∃ e, Ready (if part then inMem 0x1f 0 x.1 x.2.1 0x100000 else inWorld x.1 x.2.1 (mem4 4)) e x.1 x.2.1 ∧ (e.check x.2.2.1 x.2.1.dst x.2.2.2.1 = none
      ∧ e.fork = none ∧ e.g.ended = false ∧ (∀ y ∈ e.laneAddrs x.2.1 4 false, e.outsideWindow y.2 = false)
      ∧ maskOf (fun i => (e.resolveAll 4 x.2.2.2.2.1 x.2.2.2.2.2 (e.laneAddrs x.2.1 4 false)).2.any fun y => y.lane == i) = (if part then 0xC else 0xF) ∧ e.p.exm = 0xF
      ∧ (∀ p ∈ (e.resolveAll 4 x.2.2.2.2.1 x.2.2.2.2.2 (e.laneAddrs x.2.1 4 false)).1, p.tt = 0 ∧
          (match e.s.xlate e.ctx e.core p.va .read with | .fault _ => false | _ => true) = true)
      ∧ (e.g.paths.filter fun y => y.kind == .side).length < 4 ∧ Env.freeIndex e.g = some 1) := fun x hx part hp =>
  metAll (l := parks.flatMap fun x => [(x, false), (x, true)])
    (s := fun x => if x.2 then inMem 0x1f 0 x.1.1 x.1.2.1 0x100000 else inWorld x.1.1 x.1.2.1 (mem4 4)) (o := fun x => x.1.1) (f := fun x => x.1.2.1)
    (P := fun x e => e.check x.1.2.2.1 x.1.2.1.dst x.1.2.2.2.1 = none
      ∧ e.fork = none ∧ e.g.ended = false ∧ (∀ y ∈ e.laneAddrs x.1.2.1 4 false, e.outsideWindow y.2 = false)
      ∧ maskOf (fun i => (e.resolveAll 4 x.1.2.2.2.2.1 x.1.2.2.2.2.2 (e.laneAddrs x.1.2.1 4 false)).2.any fun y => y.lane == i) = (if x.2 then 0xC else 0xF) ∧ e.p.exm = 0xF
      ∧ (∀ p ∈ (e.resolveAll 4 x.1.2.2.2.2.1 x.1.2.2.2.2.2 (e.laneAddrs x.1.2.1 4 false)).1, p.tt = 0 ∧
          (match e.s.xlate e.ctx e.core p.va .read with | .fault _ => false | _ => true) = true)
      ∧ (e.g.paths.filter fun y => y.kind == .side).length < 4 ∧ Env.freeIndex e.g = some 1) (by decide +kernel) (x, part)
    (List.mem_flatMap.mpr ⟨x, hx, by cases part <;> simp⟩)
/-- ldfe and stfe outside the comb's window, and brx.tab at an address that nothing maps. -/
theorem wit_parks_fe : ∀ x ∈ ([(.ldfeTake, parkRow, [(V 0, {})], .read), (.ldfePeek, { parkRow with sub := 1 }, [(V 0, {})], .read),
      (.stfe, parkSt, [(V 0, {}), (V 2, {})], .write), (.stfeForce, { parkSt with sub := 1 }, [(V 0, {}), (V 2, {})], .write)] :
        List (Op × Form × List (Src × Env.Need) × Access)),
    ∃ e, Ready (window (inWorld x.1 x.2.1 (mem4 4))) e x.1 x.2.1 ∧ (e.check x.2.2.1 x.2.1.dst {} = none ∧ e.fork = none
      ∧ (∀ y ∈ e.laneAddrs x.2.1 4 false, e.outsideWindow y.2 = false)
      ∧ ((e.laneAddrs x.2.1 4 false).map fun y => (feResolve e x.2.2.2 y.1 y.2).isRight) = List.replicate 4 true ∧ e.p.exm = 0xF) := metAll (by decide +kernel)
theorem wit_parks_brxTab : ∃ e, Ready (inWorld .brxTab (fm 1 .none (.none 0) (S 1) (S 2)) (setS 1 0x1240)) e .brxTab (fm 1 .none (.none 0) (S 1) (S 2))
    ∧ (e.check [(S 1, u), (S 2, u)] (.none 0) {} = none ∧ e.fork = none ∧ e.active 7 ≠ 0 ∧ e.outsideWindow 0x1240 = false
      ∧ e.uni (fm 1 .none (.none 0) (S 1) (S 2)) (S 1) + 8 * e.uni (fm 1 .none (.none 0) (S 1) (S 2)) (S 2) = 0x1240
      ∧ (e.resolve 8 .read ttLoad ((Env.lowest (e.active 7)).getD 0) 0x1240).isRight) := met (by decide +kernel)

def atomics : List MemRow :=
  let f1 := fm 0 .b32 (.none 0) (V 0) (V 0) (V 2)
  let f2 := fm 3 .b32 (.vec 4) (V 0) (V 0) (V 2)
  let f3 := fm 0 .b64 (.scal 4) (S 2) (V 0) (S 3)
  let f4 := fm 0 .b32 (.vec 4) (V 0) (V 2) (V 3)
  let f5 := { f1 with imm := 0xC0000000 }
  let okTT : Nat → Bool := fun k => k ≤ 3 || k == 7
  let host := fun (_ : Env) (ps : List Place) => ps.all fun p => p.tt == 0
  [{ row := { o := .atom, f := f1, srcs := [(V 0, {}), (V 2, span 1)], dn := span 1 }, s := inMem 0x1f 0 .atom f1 4, n := 4, need := .write, okTT := okTT, more := host },
   { row := { o := .atom, f := f2, srcs := [(V 0, {}), (V 2, span 1)], dn := span 1 }, s := inMem 0x1f 0 .atom f2 4, n := 4, need := .write, okTT := okTT, more := host },
   { row := { o := .atom, f := f3, srcs := [(S 2, u), (S 3, span 2)], dn := span 2 }, s := inMem 0x1f 0 .atom f3 4, n := 8, uni := true, need := .write, okTT := okTT, more := host },
   { row := { o := .atom, f := f5, srcs := [(V 0, {}), (V 2, span 1)], dn := span 1 }, s := inMem 0x1f 0 .atom f5 4, n := 4, need := .write, okTT := okTT
     more := fun e ps => host e ps && f5.scope == 6 },
   { row := { o := .cas, f := f4, srcs := [(V 0, {}), (V 2, span 1), (V 3, span 1)], dn := span 1 }, s := inMem 0x1f 0 .cas f4 4, n := 4, need := .write, okTT := okTT, more := host }]
theorem wit_AtomicsIssue : ∀ x ∈ atomics, x.Met := memMet (by decide +kernel)

/-- One lane addresses word 4 of the window; the word is full or empty. -/
def feWord : Nat := keyAddr (kScratch 0 16) / 4
def feWorld (full : List Nat) (o : Op) (f : Form) : State :=
  { window (inWorld o f ((onPath fun p => { p with exm := 1 }) ∘ setS 3 0xFFFFFFF0000010)) with full := full }
def feRows : List (Op × Option Bool × Bool × Form × List Nat) :=
  let l := fm 0 .b32 (.vec 4) (S 3)
  let t := fm 0 .b32 (.none 0) (S 3) (V 0) (V 2)
  [(.ldfeTake, some true, true, l, [feWord]), (.ldfeTake, some true, true, l, []), (.ldfePeek, some true, true, { l with sub := 1 }, [feWord]),
   (.stfe, some false, false, t, []), (.stfe, some false, false, t, [feWord]), (.stfeForce, none, false, { t with sub := 1 }, [feWord])]
theorem wit_FullEmptyIssue : ∀ x ∈ feRows, ∃ e, Ready (feWorld x.2.2.2.2 x.1 x.2.2.2.1) e x.1 x.2.2.2.1
    ∧ (e.check ((S 3, {}) :: if x.2.2.1 then [] else [(V 2, {})]) x.2.2.2.1.dst {} = none ∧ e.fork = none ∧ e.g.ended = false
      ∧ (∀ y ∈ e.laneAddrs x.2.2.2.1 4 false, e.outsideWindow y.2 = false)
      ∧ ((e.laneAddrs x.2.2.2.1 4 false).map fun y => feResolve e (if x.2.2.1 then .read else .write) y.1 y.2).map
          (fun r => r.getLeft?.map fun p => keyAddr p.key / 4) = [some feWord]
      ∧ e.s.flights = []) := metAll (by decide +kernel)

def rcnRow : Form := fm 0 .none (.none 0) (S 1) (S 2) (imm := 1)
def rcnWorld (n : W64) : State := window (mapped 0x1f 0x80 (inWorld .rcn rcnRow (setS 1 0x10010 ∘ setS 2 n)))
theorem wit_RcnIssues : ∀ x ∈ [(0x200, 5), (0, 0)], ∃ e, Ready (rcnWorld x.1) e .rcn rcnRow ∧ (e.check [(S 1, u), (S 2, u)] (.none 0) {} = none ∧ e.g.ended = false
    ∧ e.active 7 ≠ 0 ∧ ((rcnLines e (x.2 / 512 + 2) 0x200 x.2).getLeft?.map fun l => l.length) = some x.2) := metAll (by decide +kernel)

def barRow (sub : BitVec 6) (s0 s1 : Src) : Form := fm sub .none (.none 0) s0 s1 (imm := 3)
def bar3 (b : Barrier) : State → State := (onComb fun c => { c with bars := setAt c.bars 3 b }) ∘ setS 1 0x12
/-- Form, barrier, joined phase, and whether the phase that the row waits for has completed. -/
def barRows : List (Op × Form × Barrier × Option W32 × Bool) :=
  [(.barPost, barRow 1 (V 0) (V 0), { expect := 4 }, none, false), (.barSet, barRow 3 (S 1) (V 0), { expect := 4 }, none, false),
   (.barHold, barRow 2 (V 0) (S 1), { expect := 4, phase := 0x13 }, none, true), (.barMeet, barRow 0 (V 0) (V 0), { expect := 4, phase := 0x13 }, some 0x12, true),
   (.barPost, barRow 1 (V 0) (V 0), { expect := 4, broken := true }, none, false),
   (.barMeet, barRow 0 (V 0) (V 0), { expect := 4, phase := 0x12, broken := true }, some 0x12, false)]
theorem wit_BarrierRowsComplete : ∀ x ∈ barRows,
    ∃ e, Ready (inWorld x.1 x.2.1 ((onPath fun p => { p with joined := x.2.2.2.1 }) ∘ bar3 x.2.2.1)) e x.1 x.2.1
      ∧ (e.check (if x.1 = .barHold then [(S 1, u)] else if x.1 = .barSet then [(S 1, u)] else []) (.none 0) {} = none ∧ e.active 7 ≠ 0 ∧ e.fork = none
        ∧ e.s.barRef e.c 3 = some (.comb 3) ∧ e.g.paths.any (fun y => y.origin == some e.p.pix) = false ∧ e.g.ended = false
        ∧ e.s.barGet e.c (.comb 3) = x.2.2.1 ∧ e.p.joined = x.2.2.2.1
        ∧ (decide (1 ≤ (x.2.2.1.phase - 0x12).toNat) && decide ((x.2.2.1.phase - 0x12).toNat ≤ 2 ^ 31)) = x.2.2.2.2) := metAll (by decide +kernel)

/-- A live side path, no active lane, and the stalls of bar.meet (before its arrival, and before its phase ends) and bar.hold; a broken barrier
at a bar.hold; a path that was released from its side path. -/
theorem wit_bar_stalls : ∀ x ∈ ([(.barMeet, barRow 0 (V 0) (V 0), { expect := 4 }, none, false, false), (.barMeet, barRow 0 (V 0) (V 0), { expect := 4, phase := 0x12 }, some 0x12, false, false),
      (.barHold, barRow 2 (V 0) (S 1), { expect := 4, phase := 0x12 }, none, false, false), (.barHold, barRow 2 (V 0) (S 1), { expect := 4, phase := 0x12, broken := true }, none, false, false),
      (.barPost, barRow 1 (V 0) (V 0), { expect := 4 }, none, true, false), (.barPost, barRow 1 (V 0) (V 0), { expect := 4 }, none, true, true)] :
        List (Op × Form × Barrier × Option W32 × Bool × Bool)),
    ∃ e, Ready (inWorld x.1 x.2.1 ((onGroup fun g => if x.2.2.2.2.1 then { g with paths := g.paths ++ [{ pix := 3, kind := .side, origin := some 0, pl := 0xF0 }] } else g)
        ∘ (onPath fun p => { p with joined := x.2.2.2.1, freedBar := x.2.2.2.2.2 }) ∘ bar3 x.2.2.1)) e x.1 x.2.1
      ∧ (e.check (if x.1 = .barHold then [(S 1, u)] else []) (.none 0) {} = none ∧ e.active 7 ≠ 0 ∧ e.fork = none ∧ e.s.barRef e.c 3 = some (.comb 3)
        ∧ e.g.paths.any (fun y => y.origin == some e.p.pix) = x.2.2.2.2.1 ∧ e.p.freedBar = x.2.2.2.2.2 ∧ e.s.barGet e.c (.comb 3) = x.2.2.1 ∧ e.p.joined = x.2.2.2.1
        ∧ ¬ (1 ≤ (x.2.2.1.phase - 0x12).toNat ∧ (x.2.2.1.phase - 0x12).toNat ≤ 2 ^ 31 ∧ e.p.joined = some 0x12)) := metAll (by decide +kernel)
theorem wit_bar_no_lane : ∃ e, Ready (world .barPost { barRow 1 (V 0) (V 0) with pred := 1 }) e .barPost { barRow 1 (V 0) (V 0) with pred := 1 }
    ∧ (e.check [] (.none 0) {} = none ∧ e.active 1 = 0 ∧ e.g.paths.any (fun y => y.origin == some e.p.pix) = false ∧ e.g.ended = false) := met (by decide +kernel)

def bound : State → State := (onComb fun c => { c with binds := setAt c.binds 5 { kind := 2, obj := 1, base := 0x10000, extent := 0x80 } })
  ∘ setS 1 0x10000 ∘ setS 2 0x40 ∘ setS 3 0x99
def fenceRows : List Row := [{ o := .bind, f := fm 2 .none (.none 0) (S 1) (S 2) (S 3) (imm := 5), srcs := [(S 1, u), (S 2, u), (S 3, u)] },
  { o := .acq, f := fm 0 .none (.none 0) (imm := 5), srcs := [] }, { o := .rel, f := fm 0 .none (.none 0) (imm := 5), srcs := [] },
  { o := .fenceAll, f := fm 0 .none (.none 0), srcs := [] }, { o := .fenceBank, f := fm 1 .none (.none 0) (S 1) (S 2), srcs := [(S 1, u), (S 2, u)] }]
theorem wit_FencesComplete : ∀ x ∈ fenceRows, x.Met (inWorld x.o x.f bound) := rowsMet (by decide +kernel)
/-! ### States that meet the hypotheses of the statements about gangs, tiles and batches -/

def gangs (n : BitVec 16) : State → State := onGroup fun g => { g with gang := n }
def mmaRow : Form := fm 0 .none (.acc 1) (S 1) (S 2)
def mmaWorld (n : BitVec 16) : State :=
  onComb (fun c => { c with scratch := 65536 }) (window (inWorld .mma mmaRow (gangs n ∘ setS 1 0xFFFFFFF0000000 ∘ setS 2 0xFFFFFFF0002000)))
/-- The member's group has taken a latch. -/
def joinedBy (e : Env) : State :=
  let fl := { e.flight .mma mmaRow with fin := .engine, ops := [e.uni mmaRow (S 1), e.uni mmaRow (S 2)] }
  let latch : GangLatch := { gang := e.g.gang, op := .mma, form := mmaRow, members := [(e.g.gidx, e.s.clk.serial)], since := e.s.clk.cycle }
  (({ e.s.bump with flights := e.s.flights ++ [fl] }.loseOthers e.core e.gslot e.ref).modPath e.ref fun p =>
    { p with lastIssue := some e.s.clk.cycle, unchosen := 0, boosted := false, slot := e.k, wait := .gang
             endAfter := e.b.fin && e.b.lastValid e.k }).modComb e.c.id fun c => { c with gangs := c.gangs ++ [latch] }
theorem wit_GangRowsComplete :
    (∃ e, Ready (mmaWorld 3) e .mma mmaRow ∧ (e.check [(S 1, u), (S 2, u)] (.acc 1) {} = none ∧ e.p.kind = .main ∧ e.g.dual = none ∧ e.g.gang = 3
      ∧ e.c.gangs = [] ∧ ((List.range 16).filter fun i => e.g.gang.getLsbD i).length = 2))
    ∧ (∃ e, Ready (mmaWorld 0) e .mma mmaRow ∧ (e.check [(S 1, u), (S 2, u)] (.acc 1) {} = none ∧ e.p.kind = .main ∧ e.g.dual = none ∧ e.g.gang = 0
      ∧ e.g.gidx < 16 ∧ e.s.flights = []
      ∧ ((joinedBy e).comb? e.c.id).any (fun c2 => !(joinedBy e).queueFull c2.core
          && (match (joinedBy e).gangCheck c2 .mma mmaRow [e.uni mmaRow (S 1), e.uni mmaRow (S 2)] with | .ok _ => true | _ => false)) = true
      ∧ (match (joinedBy e).bindTiles e.c.id (State.gangTiles mmaRow) with | .ok _ => true | _ => false) = true))
    ∧ ∃ e, Ready (onPath (fun p => { p with kind := .side }) (mmaWorld 3)) e .mma mmaRow
        ∧ (e.check [(S 1, u), (S 2, u)] (.acc 1) {} = none ∧ e.p.kind ≠ .main ∧ e.fork = none) :=
  ⟨met (by decide +kernel), met (by decide +kernel), met (by decide +kernel)⟩

/-- Group 0 waits in its latch, and group 1 stands at a row with the same GANG value. -/
def second (n : BitVec 16) (f : Form) : State :=
  let s := after (.mma mmaRow) (mmaWorld n)
  let g := (((mmaWorld n).group? 1 0).getD default)
  let t := s.modComb 1 fun c => { c with groups := c.groups ++ [{ g with gidx := 1, gslot := 5 }] }
  { bundles [(0, [(.mma, f)])] t with clk := { t.clk with cur := some { comb := 1, group := 1, path := 0 } } }
/-- The same with the second member's flight and its place in the latch. -/
def joinsSecond (e : Env) (l : GangLatch) : State :=
  let fl := { e.flight .mma mmaRow with fin := .engine, ops := [e.uni mmaRow (S 1), e.uni mmaRow (S 2)] }
  (({ e.s.bump with flights := e.s.flights ++ [fl] }.loseOthers e.core e.gslot e.ref).modPath e.ref fun p =>
    { p with lastIssue := some e.s.clk.cycle, unchosen := 0, boosted := false, slot := e.k, wait := .gang
             endAfter := e.b.fin && e.b.lastValid e.k }).modComb e.c.id fun c => { c with gangs := c.gangs.map fun x =>
      if x == l then { l with members := l.members ++ [(e.g.gidx, e.s.clk.serial)] } else x }
/-- The second member of three waits, the second of two completes the rendezvous, a second with another word mismatches. -/
theorem wit_gang_members : ∀ x ∈ [((7 : BitVec 16), mmaRow), (3, mmaRow), (3, { mmaRow with dst := .acc 2 })],
    ∃ e, Ready (second x.1 x.2) e .mma x.2 ∧ (e.check [(S 1, u), (S 2, u)] x.2.dst {} = none ∧ e.active 7 ≠ 0 ∧ e.p.kind = .main ∧ e.g.dual = none
      ∧ e.g.gang = x.1 ∧ e.g.gang ≠ 0 ∧ (match e.c.gangs.find? (fun y => y.gang == e.g.gang) with
        | some l =>
          let s2 := joinsSecond e l
          decide (l.op = .mma ∧ l.form = mmaRow ∧ l.gang = e.g.gang ∧ l.members.length = 1 ∧ l.members.map (fun m => m.1) = [0])
            && (match l.members with
              | [m] => (s2.flight? m.2).any fun f0 => (s2.comb? 1).any fun c2 => !s2.queueFull c2.core
                  && (match s2.gangCheck c2 .mma mmaRow f0.ops with | .ok _ => true | _ => false)
              | _ => false)
            && (match s2.bindTiles 1 (State.gangTiles mmaRow) with | .ok _ => true | _ => false)
        | none => false) = true) := metAll (by decide +kernel)
theorem wit_gang_no_lane : ∃ e, Ready (inWorld .mma mmaRow (onPath fun p => { p with exm := 0 })) e .mma mmaRow
    ∧ (e.check [(S 1, u), (S 2, u)] (.acc 1) {} = none ∧ e.active 7 = 0) := met (by decide +kernel)

/-- Rows, the tiles that they name, and whether q1 (clear) guards them. -/
def accRows : List (Row × List Nat) := [({ o := .accZero, f := fm 0 .none (.acc 1), srcs := [] }, [1]), ({ o := .accFree, f := fm 1 .none (.acc 1), srcs := [] }, []),
  ({ o := .accCopy, f := fm 2 .none (.acc 1) (.acc 2), srcs := [] }, [1, 2]), ({ o := .accAdd, f := fm 3 .none (.acc 1) (.acc 2), srcs := [] }, [1, 2]),
  ({ o := .accRdr, f := fm 4 .none (.vec 4) (.acc 2) (S 1), srcs := [(S 1, u)] }, [2]), ({ o := .accRdc, f := fm 5 .none (.vec 4) (.acc 2) (S 1), srcs := [(S 1, u)] }, [2]),
  ({ o := .accWrr, f := fm 6 .none (.acc 1) (V 2) (S 1), srcs := [(V 2, {}), (S 1, u)] }, [1])]
theorem wit_AccRowsComplete : ∀ x ∈ accRows,
    (∃ e, Ready (world x.1.o x.1.f) e x.1.o x.1.f ∧ (e.check x.1.srcs x.1.f.dst {} = none ∧ e.active x.1.f.pred ≠ 0 ∧ e.s.queueFull e.core = false
      ∧ (match e.s.bindTiles e.c.id x.2 with | .ok _ => true | _ => false) = true))
    ∧ ∃ e, Ready (world x.1.o { x.1.f with pred := 1 }) e x.1.o { x.1.f with pred := 1 } ∧ (e.check x.1.srcs x.1.f.dst {} = none ∧ e.active 1 = 0) :=
  fun x hx => ⟨metAll (l := accRows) (s := fun x => world x.1.o x.1.f) (o := fun x => x.1.o) (f := fun x => x.1.f)
      (P := fun x e => e.check x.1.srcs x.1.f.dst {} = none ∧ e.active x.1.f.pred ≠ 0 ∧ e.s.queueFull e.core = false
        ∧ (match e.s.bindTiles e.c.id x.2 with | .ok _ => true | _ => false) = true) (by decide +kernel) x hx,
    metAll (l := accRows) (s := fun x => world x.1.o { x.1.f with pred := 1 }) (o := fun x => x.1.o) (f := fun x => { x.1.f with pred := 1 })
      (P := fun x e => e.check x.1.srcs x.1.f.dst {} = none ∧ e.active 1 = 0) (by decide +kernel) x hx⟩
def epldRow : Form := fm 0 .none (.none 0) (S 1) (imm := 64)
theorem wit_epld : ∃ e, Ready (window (mapped 0x1f 0 (inWorld .epld epldRow (setS 1 0x10000)))) e .epld epldRow
    ∧ (e.check [(S 1, u)] (.none 0) {} = none ∧ e.active 7 ≠ 0 ∧ e.s.queueFull e.core = false ∧ e.g.ended = false
      ∧ (let vas := (List.range 2).map fun i => (i, e.uni epldRow (S 1) + BitVec.ofNat 64 (4 * i))
         (∀ x ∈ vas, e.outsideWindow x.2 = false) ∧ (e.resolveAll 4 .read ldTT vas).2 = [])) := met (by decide +kernel)

def batchRow : Form := fm 0 .none (.scal 5) (S 1)
def batches (closed done : W32) (v : W64) : State → State := setS 1 v ∘ onGroup fun g => { g with closed := closed, done := done }
/-- The clauses of BatchRowsComplete in their order: row, guard, batch counters, operand. -/
def batchRows : List (Op × BitVec 4 × W32 × W32 × W64) := [(.bclose, 1, 0, 0, 0), (.bwait, 1, 0, 0, 0), (.launch, 1, 0, 0, 0), (.bclose, 7, 0, 0, 0), (.bclose, 7, 0, 0, 0x10000),
  (.bwait, 7, 3, 2, 0), (.bwait, 7, 3, 2, 2), (.bwait, 7, 3, 2, 3), (.launch, 7, 0, 0, 0x10040), (.launch, 7, 0, 0, 0x10080)]
theorem wit_BatchRowsComplete : ∀ x ∈ batchRows,
    ∃ e, Ready (window (mapped 0x1f 0 (inWorld x.1 { batchRow with pred := x.2.1 } (batches x.2.2.1 x.2.2.2.1 x.2.2.2.2)))) e x.1 { batchRow with pred := x.2.1 }
      ∧ (e.check [(S 1, u)] (.scal 5) {} = none ∧ e.g.ended = false ∧ (e.active x.2.1 = 0 ↔ x.2.1 = 1) ∧ e.uni batchRow (S 1) = x.2.2.2.2
        ∧ e.g.closed = x.2.2.1 ∧ e.g.done = x.2.2.2.1
        ∧ (x.1 = .bclose → x.2.2.2.2 ≠ 0 → (e.resolve 8 .write (fun t => t != 4 && t != 5 && t != 6) 0 x.2.2.2.2).getLeft?.isSome)
        ∧ (x.1 = .launch → x.2.2.2.2 = 0x10080 → (e.resolve 128 .read (fun t => t != 5 && t != 6) 0 x.2.2.2.2).getLeft?.isSome)) := metAll (by decide +kernel)

/-! ### Issue, completion and steps -/

theorem record_of_flight (e : Env) (o : Op) (f : Form) : RecordOf e o f (e.flight o f) := ⟨rfl, ⟨rfl, rfl⟩, ⟨rfl, rfl, rfl⟩, ⟨rfl, rfl⟩, rfl, rfl, rfl, ⟨rfl, rfl⟩, rfl⟩
def addRow : Form := fm 0 .i32 (.vec 4) (V 1) (V 2)
theorem wit_IssueFrame : ∃ e fl, (world .add addRow).env? = some e ∧ e.g.ended = false ∧ e.b.fin = false ∧ RecordOf e .add addRow fl :=
  ⟨((world .add addRow).env?).get (by decide +kernel), _, by simp, by decide +kernel, by decide +kernel, record_of_flight _ _ _⟩

/-- The state after an instruction has issued, with nothing left of its latency. -/
def later (i : Instr) (s : State) : State :=
  match exec i s with
  | .next t => { t with flights := t.flights.map fun f => { f with due := 0 } }
  | _ => s
/-- The flight of a state that may complete. -/
def completes (s : State) (p : Flight → Comb → Group → Bool) : Bool :=
  match s.flights with
  | fl :: _ => match s.comb? fl.comb with
    | some c => match c.group? fl.group with
      | some g => decide (s.flight? fl.fid = some fl) && s.completable fl && fl.cont.isNone && !g.ended && decide (g.paths ≠ []) && p fl c g
      | none => false
    | none => false
  | [] => false
theorem completing {s : State} {p : Flight → Comb → Group → Bool} (h : completes s p = true) : ∃ fl c g, s.flight? fl.fid = some fl ∧ s.completable fl = true
    ∧ fl.cont = none ∧ s.comb? fl.comb = some c ∧ c.group? fl.group = some g ∧ g.ended = false ∧ g.paths ≠ [] ∧ p fl c g = true := by
  unfold completes at h
  split at h
  next fl _ _ =>
    split at h
    next c hc =>
      split at h
      next g hg =>
        simp only [Bool.and_eq_true, decide_eq_true_eq, Bool.not_eq_true', Option.isNone_iff_eq_none] at h
        obtain ⟨⟨⟨⟨⟨h1, h2⟩, h3⟩, h4⟩, h5⟩, h6⟩ := h
        exact ⟨fl, c, g, h1, h2, h3, hc, hg, h4, h5, h6⟩
      next => cases h
    next => cases h
  next => cases h

def saddRow : Form := fm 0 .i32 (.scal 4) (S 1) (S 1)
def cmpRow : Form := fm 0 .i32 (.pred 2) (V 1) (V 2)
def idxRow : Form := fm 0 .none (.idx 2) (S 1)
def bindRow : Form := fm 2 .none (.none 0) (S 1) (S 2) (S 3) (imm := 5)
def storeRow : Form := fm 0 .b32 (.none 0) (S 2) (V 0) (V 2)
/-- One flight for each kind of result: a vector, a scalar, an index register, a predicate, a bind entry, stores. -/
theorem wit_InstructionCompletes :
    completes (later (.add addRow) (world .add addRow)) (fun fl _ _ => fl.fin == .regs) = true
    ∧ completes (later (.sadd saddRow) (world .sadd saddRow)) (fun fl _ _ => fl.writes == [.s 4 0]) = true
    ∧ completes (later (.smov idxRow) (world .smov idxRow)) (fun fl _ _ => fl.writes == [.x 2 0]) = true
    ∧ completes (later (.cmp cmpRow) (world .cmp cmpRow)) (fun fl _ _ => fl.fin == .regs && fl.writes.length == 1) = true
    ∧ completes (later (.bind bindRow) (world .bind bindRow)) (fun fl _ _ => fl.writes.length == 1) = true
    ∧ completes (later (.st storeRow) (inMem 0x1f 0 .st storeRow 4)) (fun fl _ _ => fl.fin == .store) = true :=
  ⟨by decide +kernel, by decide +kernel, by decide +kernel, by decide +kernel, by decide +kernel, by decide +kernel⟩
/-- The hypotheses of the statement in its own words. -/
theorem wit_completion : ∃ fl c g, (later (.add addRow) (world .add addRow)).flight? fl.fid = some fl ∧ (later (.add addRow) (world .add addRow)).completable fl = true
    ∧ fl.cont = none ∧ (later (.add addRow) (world .add addRow)).comb? fl.comb = some c ∧ c.group? fl.group = some g ∧ g.ended = false ∧ g.paths ≠ []
    ∧ (fl.fin == .regs) = true := completing (p := fun fl _ _ => fl.fin == .regs) (by decide +kernel)

def mtsRow (r : SReg) : Form := fm 0 .none (.spec r) (S 1)
theorem wit_SpecialRegisterWrites : ∀ x ∈ ([(.exm, 0xF0), (.part, 6), (.prio, 0x1F), (.gang, 1), (.seed, 5), (.nf, 0xFFF), (.fmode, 0xF), (.trapvec, 0xFF), (.fstat, 7)] : List (SReg × W64)),
    let s := later (.mts (mtsRow x.1)) (inWorld .mts (mtsRow x.1) (setS 1 x.2))
    completes s (fun fl c _ => fl.fin == .regs && fl.writes == [.sreg x.1 x.2] && fl.nf == 0 && (s.launch? c.launch).isSome) = true := by decide +kernel

def about (i : List PathRef) (a : List Instr) (s : State) : State := { s with clk := { s.clk with issuing := i, agenda := a, cur := none } }
def asleep (s : State) : State := { s with dev := { s.dev with astate := 1 } }
def calm (n : Nat) (s : State) : State := { s with clk := { s.clk with calm := n } }
theorem wit_StepRunsDecoded :
    (∃ e, (inWorld .add addRow id).envOf r0 = some e ∧ e.b.slotOp e.k = some (.add, addRow))
    ∧ (∃ e, (inWorld .dpf (fm 3 .b32 (.none 0)) id).envOf r0 = some e ∧ e.b.slotOp e.k = none)
    ∧ (about [r0] [] (world .add addRow)).clk.issuing = [r0] ∧ (about [] [.wake] State.reset).clk.agenda = [.wake]
    ∧ inside (.instructionComplete 3) = true ∧ inside .wake = false ∧ (asleep (about [] [.instructionComplete 3] State.reset)).dev.astate ≠ 0
    ∧ (calm 5 (about [] [] State.reset)).clk.agenda = [] ∧ (calm 5 (about [] [] State.reset)).clk.calm ≠ 0 ∧ (calm 0 (about [] [] State.reset)).clk.calm = 0 :=
  ⟨⟨((inWorld .add addRow id).envOf r0).get (by decide +kernel), by simp, by decide +kernel⟩,
   ⟨((inWorld .dpf (fm 3 .b32 (.none 0)) id).envOf r0).get (by decide +kernel), by simp, by decide +kernel⟩, rfl, rfl, rfl, rfl, by decide, rfl, by decide, rfl⟩
theorem wit_EncodeDecodeAgree : Op.legal .add addRow = true ∧ decodeWord 0x0100070260000000FFFFFFFD#96 = some (.br { fm 0 .none (.none 2) .immS (imm := 0xFFFFFFFD) with pred := 1 }) := by
  decide
theorem wit_StepKeepsMemoryForm : ∃ t, (about [] [.wake] State.reset).mem.wf = true ∧ step (about [] [.wake] State.reset) = .next t := ⟨_, rfl, rfl⟩
/-! ### States that meet the hypotheses of the statements about moves -/

def plainWorld : State := window (mapped 0x1f 0 (world .nop {}))
def command (bop : Nat) (queued : Bool) : BankCmd := { num := 9, comb := 1, group := 0, key := 0x10008, bop := bop, a := 0x40000000FFFFFFFF, queued := queued }
def withBank (l : List BankCmd) : State := { plainWorld with coh := { plainWorld.coh with bank := l } }
theorem wit_BankCommandsPerform : ∀ b ∈ [0, 1, 2, 3, 4], let s := withBank [command b true]
    s.cmd? 9 = some (command b true) ∧ s.cmdFirst (command b true) = true ∧ s.snaps = [] ∧ s.mem.wf = true
      ∧ keyRegion 0x10008 = 0 ∧ ∀ i < 8, s.Plain (0x10008 + i) := by decide +kernel

def entry (tt : Nat) (data : List (Nat × Byte)) (reps : List Nat) : SBEntry :=
  { eid := 7, core := 0, launch := 2, comb := 1, group := 0, fid := 3, ctx := 0, asid := 0, ord := {}, va := 0x10010, tt := tt, data := data, reps := reps }
def withEntry (e : SBEntry) (lines : List CacheLine) : State := { plainWorld with coh := { plainWorld.coh with sb := [e], lines := lines } }
def filled (cache : CacheId) (line : Nat) (dirty : List Nat) : CacheLine :=
  { cache := cache, line := line, data := List.replicate 128 9, side := List.replicate 32 0, dirty := dirty }
/-- Plain memory with an L1 copy of the line, another device's memory, replicated memory, a card word, a window store. -/
def drainRows : List (SBEntry × Nat) := [(entry 0 (cellsFrom 0x20000 [1, 2]) [0], 0), (entry 1 (cellsFrom (key 7 0x4000) [1, 2]) [0], 0),
  (entry 4 (cellsFrom 0x20000 [1, 2]) [0, 3], 3), (entry 5 (cellsFrom (key 9 8) (leBytes 8 77)) [0], 0), (entry 6 (cellsFrom 0x20000 (leBytes 8 77)) [2], 2)]
def drainWorld (e : SBEntry) : State := let s := withEntry e [filled (.l1 0) 0x20000 []]; { s with dev := { s.dev with poden := true } }
theorem wit_StoreBufferDrains : ∀ x ∈ drainRows, (drainWorld x.1).coh.sb.find? (fun y => y.eid == x.1.eid) = some x.1 ∧ x.2 ∈ x.1.reps ∧ State.isGo x.1 = false
    ∧ (drainWorld x.1).mayDrain x.1 = true ∧ (drainWorld x.1).snaps = [] ∧ (drainWorld x.1).mem.wf = true ∧ ((drainWorld x.1).group? 1 0).isSome ∧ x.1.data ≠ []
    ∧ (x.1.tt = 1 → ∀ d ∈ x.1.data, keyRegion d.1 = 7 ∧ keyRegion (lineKey d.1) = 7)
    ∧ ∀ l ∈ (drainWorld x.1).coh.lines, l.data.length = 128 ∧ l.side.length = 32 := by decide +kernel
theorem wit_drain_plain : ∀ x ∈ drainRows, x.1.tt = 0 ∨ x.1.tt = 4 → x.1.data.all (fun d => decide (keyRegion d.1 = 0 ∧ keyAddr d.1 < 2 ^ 36)
    && decide ((drainWorld x.1).Plain d.1) && decide ((drainWorld x.1).Plain (State.replicaKey x.2 d.1))) = true := by decide +kernel

def rcnDone : State := later (.rcn rcnRow) (rcnWorld 0x20)
theorem wit_ReplicaCopiesAndForwards :
    (rcnDone.flights.any fun f => decide (rcnDone.flight? f.fid = some f) && f.rcn.contains (0x10000, 2) && !rcnDone.rcnWaits f 0x10000) = true
    ∧ rcnDone.snaps = [] ∧ rcnDone.mem.wf = true ∧ (∀ i < 128, rcnDone.Plain (key 0 (4 * 2 ^ 36 + 0x10000 + i)))
    ∧ (withBank [command 2 false]).cmd? 9 = some (command 2 false) :=
  ⟨by decide +kernel, by decide +kernel, by decide +kernel, by decide +kernel, by decide +kernel⟩

def withLines (l : List CacheLine) : State := { plainWorld with coh := { plainWorld.coh with lines := l }, dev := { plainWorld.dev with poden := true } }
def podLine : CacheLine := filled (.rdc 1) (key 7 0x4000) [3, 5]
theorem wit_CacheMovesComplete :
    (withLines []).copy? (.l1 0) 0x20000 = none ∧ (withLines []).canRead 0 0x20000 = true ∧ homeHive 0x20000 ≠ 3 ∧ (withLines []).copy? (.rdc 3) 0x20000 = none
    ∧ (withLines []).reaches 0x20000 = true ∧ (withLines [podLine]).copy? (.rdc 1) (key 7 0x4000) = some podLine ∧ key 7 0x4000 % 128 = 0
    ∧ podLine.dirty ≠ [] ∧ (withLines [podLine]).snaps = [] ∧ (withLines [podLine]).mem.wf = true
    ∧ (withLines [filled (.l1 0) 0 []]).copy? (.l1 0) 0 = some (filled (.l1 0) 0 []) ∧ homeHive 0 = hiveOf 0 ∧ List.replicate 128 9 ≠ plainWorld.bytesAt 0 128 := by
  decide +kernel

/-- The state after an instruction has issued, and its flight. -/
def inFlight (i : Instr) (s : State) (p : State → Flight → Comb → Group → Launch → Bool) : Bool :=
  let t := later i s
  match t.flights with
  | f :: _ => match t.comb? f.comb with
    | some c => match c.group? f.group, t.launch? c.launch with
      | some g, some l => decide (t.flight? f.fid = some f) && p t f c g l
      | _, _ => false
    | none => false
  | [] => false
/-- A load, and one with hint nc. -/
theorem wit_LoadReadReturns : ∀ sub ∈ ([0, 1] : List (BitVec 6)),
    inFlight (.ld { parkRow with sub := sub }) (inMem 0x1f 0 .ld { parkRow with sub := sub } 4) (fun s f c _ _ => f.accs.any fun a =>
      decide (f.accs.find? (fun x => x.lane == a.lane && x.val.isNone) = some a) && decide (a.kind = .load) && a.side.isEmpty && f.cont.isNone && f.sync.isNone
      && decide (a.key % 128 + a.size ≤ 128) && !s.heldBack f.comb f.group f.ord a.va.toNat a.size
      && !Env.storeAhead s f.comb f.group f.ord ((List.range a.size).map fun i => a.key + i)
      && !s.accessAhead f.comb f.group f.ord a.key a.size (State.betweenHives (hiveOf c.core) a.key) false && s.canRead c.core a.key) = true := by decide +kernel
def atomRowAt (scope ord : Nat) (sub : BitVec 6) : Form := fm sub .b32 (.vec 4) (V 0) (V 0) (V 2) (imm := BitVec.ofNat 32 (scope * 2 ^ 29 + ord * 2 ^ 27))
def atomRow (sub : BitVec 6) : Form := atomRowAt 3 0 sub
def casRow : Form := fm 0 .b32 (.vec 4) (V 0) (V 3) (V 2) (imm := 0x60000000)
/-- What AtomicPerforms assumes of a flight and one of its accesses. -/
def atomReady (s : State) (f : Flight) : Bool := f.accs.any fun a =>
  let ks := (List.range a.size).map fun i => a.key + i
  decide (f.accs.find? (fun x => x.lane == a.lane && x.val.isNone && x.kind != .load) = some a) && a.side.isEmpty && decide (a.size = 4 ∨ a.size = 8)
    && decide (keyRegion a.key < 7) && (f.scope != 6 || (s.atomCmd f.fid a.lane).any fun b => b.queued && s.cmdFirst b)
    && (f.orde == 0 || !s.syncAhead f) && (s.coh.lines.all fun y => y.dirty.isEmpty) && s.mayRelease f.comb f.group f.fid f.ord false (State.lockRegion f a)
    && !s.heldBack f.comb f.group f.ord a.va.toNat a.size
    && !((s.olderEntries f.comb f.group f.ord).any fun e => e.tt != 5 && e.tt != 6 && (e.data ++ e.side).any fun d => ks.contains d.1)
    && !Env.storeAhead s f.comb f.group f.ord ks && !s.accessAhead f.comb f.group f.ord a.key a.size false && s.snaps.isEmpty && s.mem.wf
    && s.reaches a.key && decide (∀ i < a.size, s.Plain (a.key + i))
theorem wit_AtomicPerforms : (∀ sub ∈ ([0, 1, 8, 9] : List (BitVec 6)),
      inFlight (.atom (atomRow sub)) (inMem 0x1f 0 .atom (atomRow sub) 4) (fun s f _ _ _ => atomReady s f) = true)
    ∧ inFlight (.cas casRow) (inMem 0x1f 0 .cas casRow 4) (fun s f _ _ _ => atomReady s f) = true := ⟨by decide +kernel, by decide +kernel⟩
/-- COMB and CLUSTER scope, each ORD, and BANK scope once the lane's command is queued. -/
theorem wit_AtomicPerforms_scopes : (∀ x ∈ [(0, 0), (1, 0), (3, 1), (3, 2), (5, 3)],
      inFlight (.atom (atomRowAt x.1 x.2 0)) (inMem 0x1f 0 .atom (atomRowAt x.1 x.2 0) 4) (fun s f _ _ _ => decide (f.scope = x.1 ∧ f.orde = x.2) && atomReady s f) = true)
    ∧ (let t : State := later (.atom (atomRowAt 6 0 0)) (onPath (fun p => { p with exm := 1 }) (inMem 0x1f 0 .atom (atomRowAt 6 0 0) 4))
       let u : State := { t with coh := { t.coh with bank := t.coh.bank.map fun (b : BankCmd) => ({ b with queued := true } : BankCmd) } }
       (u.flights.any fun f => decide (u.flight? f.fid = some f ∧ f.scope = 6) && atomReady u f) = true) := ⟨by decide +kernel, by decide +kernel⟩

def postRow : Form := barRow 1 (V 0) (V 0)
def takeRow : Form := fm 0 .b32 (.vec 4) (S 3)
def putRow : Form := fm 0 .b32 (.none 0) (S 3) (V 0) (V 2)
def oneJob : State → State := setS 1 0 ∘ onGroup fun g => { g with openJobs := [default], closed := 4, done := 4 }
def waited : State → State := setS 1 5 ∘ onGroup fun g => { g with closed := 6, done := 5, prevWait := 3 }
/-- Clause by clause: bar.post, bar.set, ldfe, stfe, bclose and bwait. -/
theorem wit_ReleaseMovesPerform :
    inFlight (.barPost postRow) (inWorld .barPost postRow (bar3 { expect := 4 })) (fun s f _ _ _ => f.sync == some (.post 3 32 0 (.none 0)) && !f.form.dst.isPred
      && s.mayRelease f.comb f.group f.fid f.ord false (State.boundRegion f.binds 0 (BitVec.ofNat 64 3))) = true
    ∧ inFlight (.barSet (barRow 3 (S 1) (V 0))) (inWorld .barSet (barRow 3 (S 1) (V 0)) (bar3 { expect := 4 })) (fun s f _ _ _ =>
        f.sync == some (.set 3 0x12) && !s.syncAhead f) = true
    ∧ inFlight (.ldfeTake takeRow) (feWorld [feWord] .ldfeTake takeRow) (fun s f _ _ _ => f.sync == some (.fe true false [feWord] f.scope) && decide (f.scope < 4)
        && s.snaps.isEmpty && s.mem.wf && (f.binds.all fun b => b.kind != 1) && f.stores.isEmpty
        && s.mayRelease f.comb f.group f.fid f.ord false (f.accs.map fun a => (a.va.toNat / 128, a.va.toNat / 128 + 1))) = true
    ∧ inFlight (.stfe putRow) (feWorld [] .stfe putRow) (fun s f _ _ _ => f.sync == some (.fe false true [feWord] f.scope) && decide (f.scope < 4)
        && s.snaps.isEmpty && s.mem.wf && (f.binds.all fun b => b.kind != 1) && f.accs.isEmpty && (f.stores.all fun x => x.data.all fun d => keyRegion d.1 == 2)
        && decide (f.stores.length = 1)
        && s.mayRelease f.comb f.group f.fid f.ord false (f.stores.map fun x => (x.va.toNat / 128, x.va.toNat / 128 + 1))) = true
    ∧ inFlight (.bclose batchRow) (inWorld .bclose batchRow oneJob) (fun s f _ g _ => f.sync == some (.bclose 0 (.scal 5)) && !State.goAhead s f
        && decide (g.openJobs ≠ []) && (g.openJobs.all fun j => j.status.isNone) && g.batches.isEmpty && g.done == g.closed) = true
    ∧ inFlight (.bwait batchRow) (inWorld .bwait batchRow waited) (fun s f _ g _ => f.sync == some (.bwait 5) && !s.syncAhead f
        && decide (((5 : W32) - g.prevWait).toNat < 2 ^ 31) && s.coh.lines.isEmpty) = true :=
  ⟨by decide +kernel, by decide +kernel, by decide +kernel, by decide +kernel, by decide +kernel, by decide +kernel⟩

def fenceRow : Form := fm 0 .none (.none 0) (imm := 0x60000000)
def bankRow : Form := fm 1 .none (.none 0) (S 1) (S 2)
def syncRow (scope : BitVec 32) : Form := fm 0 .none (.none 0) (imm := scope * 0x20000000 + 5)
/-- The binding's region, with an L1 copy of one of its lines. -/
def bound5 : State → State := (fun s => { s with coh := { s.coh with lines := [filled (.l1 0) 0x10000 []] } }) ∘ window ∘ mapped 0x1f 0 ∘ bound
/-- acq, a bar.hold that is over, fence.all, fence.bank, rel within the device and beyond it, launch with a record that can be read and one that
cannot, and bclose with a record. -/
theorem wit_release_drops :
    inFlight (.acq (syncRow 3)) (inWorld .acq (syncRow 3) bound5) (fun s f _ _ _ => f.sync == some (.acq 5 3) && !s.syncAhead f && s.coh.lines.all fun x => x.dirty.isEmpty) = true
    ∧ inFlight (.barHold (barRow 2 (V 0) (S 1))) (inWorld .barHold (barRow 2 (V 0) (S 1)) (bar3 { expect := 4, phase := 0x13 } ∘ bound5)) (fun s f c _ _ =>
        f.sync == some (.hold 3) && !s.syncAhead f && s.barRef c 3 == some (.comb 3)) = true
    ∧ inFlight (.fenceAll fenceRow) (inWorld .fenceAll fenceRow bound5) (fun s f _ _ _ => f.sync == some (.fence 3)
        && s.mayRelease f.comb f.group f.fid f.ord true [] && (s.olderFlights f.comb f.group f.ord).isEmpty) = true
    ∧ inFlight (.fenceBank bankRow) (inWorld .fenceBank bankRow bound5) (fun s f _ _ _ => f.sync == some (.fenceBank 0x10000 0x40) && !s.fenceWaits f) = true := by
  exact ⟨by decide +kernel, by decide +kernel, by decide +kernel, by decide +kernel⟩
def relWaits (scope : Nat) (s : State) (f : Flight) (c : Comb) : Bool :=
  f.sync == some (.rel 5 scope) && s.mayRelease f.comb f.group f.fid f.ord false (State.linesOf (getAt f.binds 5).base (getAt f.binds 5).extent).toList
    && !s.stuck (hiveOf c.core) (fun _ => true)
theorem wit_release_rel : inFlight (.rel (syncRow 3)) (inWorld .rel (syncRow 3) bound5) (fun s f c _ _ => relWaits 3 s f c) = true
    ∧ inFlight (.rel (syncRow 4)) (inWorld .rel (syncRow 4) bound5) (fun s f c _ _ => relWaits 4 s f c) = true := ⟨by decide +kernel, by decide +kernel⟩
theorem wit_release_launch : inFlight (.launch batchRow) (window (mapped 0x1f 0 (inWorld .launch batchRow (setS 1 0x10080)))) (fun s f c _ _ =>
    f.sync == some (.launchRec 0x10080 (.scal 5)) && s.mayRelease f.comb f.group f.fid f.ord true []
      && (match s.devRead (s.ctxOf c) 0x10080 128 with | .ok (bs, s1) => (s1.deviceLaunch (s.ctxOf c) 0x10080 (dwordsOf bs 16)).isSome | .error _ => false)
      && (match { s with mem := {}, coh := { s.coh with tlb := [] } }.devRead (s.ctxOf c) 0x10080 128 with | .ok _ => false | .error e => e.1 != 0)) = true := by decide +kernel
theorem wit_release_record : inFlight (.bclose batchRow) (window (mapped 0x1f 0 (inWorld .bclose batchRow (setS 1 0x50000 ∘ oneJob)))) (fun s f c g _ =>
    f.sync == some (.bclose 0x50000 (.scal 5)) && !State.goAhead s f && (match s.xlate (s.ctxOf c) 0 0x50000 .write with
      | .ok tt k => decide (tt = 0 ∧ keyRegion k = 0 ∧ k % 65536 = 0) && (List.range 16).all (fun i => decide (s.Plain (k + i))) | _ => false)
      && s.dev.lost.isEmpty && !s.devWaits (s.ctxOf c) && s.snaps.isEmpty && s.mem.wf && (g.openJobs.all fun j => j.status.isNone)
      && decide (g.openJobs.length = 1) && g.batches.isEmpty && g.done == g.closed) = true := by decide +kernel

def meetRow : Form := barRow 0 (V 0) (V 0)
/-- What MeetArrives assumes of a state. -/
def meets (s : State) : Bool :=
  match s.envOf r0, s.nextCycle.runnable r0 with
  | some e, some e1 => e1.timely && decide ((s.ctx e.ctx).pstate = 0) && decide (e.b.slotOp e.k = some (.barMeet, meetRow)) && e.fork.isNone
      && decide (e.active 7 ≠ 0) && e.p.joined.isNone && !e.g.paths.any (fun y => y.origin == some e.p.pix) && decide (e.check [] (.none 0) {} = none)
      && !(getAt e.c.bars 3).broken
      && s.mayRelease e.ref.comb e.ref.group 0 e.order false (State.boundRegion e.c.binds 0 (BitVec.ofNat 64 3))
  | _, _ => false
def meetWorld (x : W32) : State := inWorld .barMeet meetRow (bar3 { expect := x })
def meet33 : State := meetWorld 33
def meet32 : State := meetWorld 32
/-- One arrival short of EXPECT, and one that completes the phase. -/
theorem wit_MeetArrives : meets meet33 = true ∧ meets meet32 = true := ⟨by decide +kernel, by decide +kernel⟩
/-! ### States that meet the hypotheses of the statements about launches, paths and forks -/

def dwords (l : List Nat) : List Byte := (l.map (leBytes 8)).flatten
def put (a : Nat) (bs : List Byte) (s : State) : State := { s with mem := s.mem.setAll (cellsFrom a bs) }
/-- A context with a code object at 0x40000, a descriptor at 0x10000 and one launch record in its queue. -/
def queued : State :=
  let m := put 0x20000 (dwords ([0x10000, 31 * 2 ^ 48, 2 ^ 8 + 2 ^ 12, 0, 0, 0, 0, 0, 2 ^ 12 + 5] ++ List.replicate 7 0))
    (put 0x10000 (dwords ([0x40000, 3 * 2 ^ 44, 0, 0, 0, 0, 0x40000, 128] ++ List.replicate 8 0)) { State.reset with mem := tables 0x3f 0 })
  { m with dev := { m.dev with fwstat := 2 } }.modCtx 0 fun x => { x with en := true, ptroot := 0x1000, asid := 1, lqbase := 0x20000, ccbase := 0x28000, lqlog := 4
                                                                          objs := [{ handle := 1, obj := 0, codeVa := 0x40000, codeLen := 128, kernels := [0x10000] }] }
def written : State := after (.lqprodWrite 0 1) queued
def launched : State := after (.launchRecordRead 0) written
/-- Whether the next record of context 0 is readable, and what its validation answers. -/
def recordAnswer (s : State) (at_ : Nat) : Option (Option Nat) :=
  match s.devRead 0 at_ 128 with
  | .ok (bs, t) => match (t.modCtx 0 fun y => { y with lqcons := y.lqcons + 1 }).validate 0 (BitVec.ofNat 64 at_) 0 false (dwordsOf bs 16) with
    | some (.inl st, _) => some (some st)
    | some (.inr _, _) => some none
    | none => none
  | .error _ => none
def mayRead (s : State) : Bool := let x := s.ctx 0
  x.en && decide (x.pstate = 0) && decide (4 ≤ x.lqlog.toNat ∧ x.lqlog.toNat ≤ 16) && decide (x.lqstop = .run) && decide ((x.lqprod - x.lqcons).toNat ≤ 2 ^ x.lqlog.toNat)
    && decide (x.lqprod ≠ x.lqcons) && decide (s.ctxs.length = 64)
def lostRecord : State := written.modCtx 0 fun x => { x with lqbase := 0x80000000 }
/-- Pages 1 and 2 are mapped; page 5 is managed and absent, and the pool's one page is in use by a buffered store: the pager has to wait. -/
def crowd (s : State) : State :=
  let cs : List Host.Cell := [(0x1000, 1), (0x1001, 0x20), (0x2000, 1), (0x2001, 0x30), (0x3000, 1), (0x3001, 0x40), (0x4000, 1), (0x4001, 0x50),
    (0x5008, 0x1f), (0x500a, 1), (0x5010, 0x1f), (0x5012, 2), (0x5028, 0x5B)]
  { s with mem := s.mem.setAll cs
           coh := { s.coh with tlb := [], sb := [{ eid := 7, core := 0, launch := 2, comb := 1, group := 0, data := [(9 * 65536, 1)] }] } }.modCtx 0 fun x =>
    { x with poolmax := 1, resmax := 1, poolused := 1, held := [{ page := 6, tower := 9, big := false, used := 0 }] }
/-- The next record lies in the absent page. -/
def waitingRecord : State := crowd (written.modCtx 0 fun x => { x with lqbase := 0x50000 })
/-- Validations: what is written over the record at 0x20000 or over the descriptor at 0x10000, and the STATUS. -/
def changes : List (Nat × List Byte × Nat) := [(0x20050, [1], 0x13), (0x20000, [0x80], 0x12), (0x10040, dwords [1, 0x80000000], 0x18), (0x20010, [1], 0x10),
  (0x10008, dwords [3 * 2 ^ 44 + 200 * 2 ^ 28], 0x11), (0x20008, dwords [32 * 2 ^ 48], 0x14), (0x10008, dwords [3 * 2 ^ 44 + 2 * 2 ^ 13], 0x15)]
def kernelAt (a : Nat) (s : State) : State := put 0x20000 (dwords [a]) (s.modCtx 0 fun x => { x with objs := x.objs.map fun o => { o with kernels := [a] } })
/-- A write that fits (1) and one beyond the ring (50); an accepted record, each check that fails, descriptors that cannot be read and that wait,
and a record that cannot be read and one that waits. -/
theorem wit_LaunchQueueEvents :
    queued.dev.fwstat = 2 ∧ queued.dev.astate.toNat < 3 ∧ (queued.ctx 0).lqlog = 4 ∧ (queued.ctx 0).lqstop = .run ∧ (queued.ctx 0).reviving = false
    ∧ mayRead written = true ∧ recordAnswer written 0x20000 = some none
    ∧ (∀ x ∈ changes, mayRead (put x.1 x.2.1 written) = true ∧ recordAnswer (put x.1 x.2.1 written) 0x20000 = some (some x.2.2)) := by decide +kernel
theorem wit_records_unread : recordAnswer (kernelAt 0x80000000 written) 0x20000 = some (some 0x18) ∧ recordAnswer (crowd (kernelAt 0x50000 written)) 0x20000 = none
    ∧ recordAnswer (crowd (put 0x10040 (dwords [1, 0x50000]) written)) 0x20000 = none ∧ mayRead lostRecord = true
    ∧ (match lostRecord.devRead 0 0x80000000 128 with | .ok _ => false | .error e => e.1 != 0) = true ∧ mayRead waitingRecord = true
    ∧ (match waitingRecord.devRead 0 0x50000 128 with | .ok _ => false | .error e => e.1 == 0) = true := by decide +kernel
def gated (v : W64) : State := launched.modLaunch 1 fun l => { l with gated := true, gates := [(3, v)] }
def countersAt (a : W64) (s : State) : State := s.modCtx 0 fun x => { x with ccbase := a }
def finished : State := launched.modLaunch 1 fun l => { l with started := [0], ended := 1 }
def aborted : State := launched.modLaunch 1 fun l => { l with aborted := true }
/-- What the launch's gate gives: unmet (0), met (1), or no answer (2). -/
def gateGives (s : State) : Nat := match s.gatesMet 0 [(3, (((s.launch? 1).bind fun l => l.gates.head?).getD default).2)] with
  | some (false, _) => 0 | some (true, _) => 1 | none => 2
def isGated (s : State) (v : W64) : Bool := (s.launch? 1).any fun l => l.gated && !l.aborted && l.gates == [(3, v)]
theorem wit_gated : isGated (gated 0) 0 = true ∧ isGated (gated 7) 7 = true := ⟨by decide +kernel, by decide +kernel⟩
theorem wit_gate_unmet : gateGives (gated 7) = 0 := by decide +kernel
theorem wit_gate_met : gateGives (gated 0) = 1 := by decide +kernel
/-- The counter cannot be read, and its page waits for the pager. -/
theorem wit_gates_unread : gateGives (countersAt 0x80000000 (gated 0)) = 2 ∧ gateGives (crowd (countersAt 0x50000 (gated 0))) = 0 := ⟨by decide +kernel, by decide +kernel⟩
theorem wit_launch_ends :
    ((finished.launch? 1).any fun l => !l.aborted && decide (l.started.length = l.gx * l.gy * l.gz ∧ l.ended = l.gx * l.gy * l.gz)) = true
    ∧ ((aborted.launch? 1).any fun l => l.aborted) = true ∧ aborted.flights = [] ∧ aborted.jobs = [] ∧ aborted.coh.sb = [] ∧ finished.coh.bank = [] ∧ finished.coh.lines = [] := by
  decide +kernel

/-- A grid of four combs whose rectangle spans two hives. -/
def wide : State := launched.modLaunch 1 fun l => { l with w := 16, h := 1, gx := 4 }
def asked : State := after (.stealRequest 1) wide
def answered : State := (asked.modLaunch 1 fun l => { l with started := [0] }).modDist 1 fun d => { d with answer := some (some (1, 0)) }
def dry : State := asked.modLaunch 1 fun l => { l with started := [0, 1, 2, 3] }
/-- On a core without combs a comb without a window fits wherever its slots and registers do, whatever run is tried first. -/
theorem fitsLaunch_empty {s : State} {l : Launch} (h : s.combs = []) (h0 : l.scratch = 0) (c : Nat) :
    s.fitsLaunch l c = (decide (l.g + l.shadow ≤ (s.freeSlots c).length) && decide (l.g * l.regs ≤ s.freeRegs c)) := by
  have hr : (s.scratchRun c l.scratch).isSome = true := by
    unfold State.scratchRun; rw [List.find?_isSome]
    refine ⟨(Config.freePick s.clk.free % 192 + 0) % 192 * 4096, List.mem_map.mpr ⟨0, by decide, rfl⟩, ?_⟩
    simp only [State.runFree, h, h0, List.any_nil, Bool.not_false, Bool.and_true, decide_eq_true_eq]
    omega
  simp only [State.fitsLaunch, State.fits, hr, Bool.and_true]

def launch1 (s : State) : Launch := (s.launch? 1).getD default
def best (s : State) (l : Launch) (cs : List Nat) : Option Nat :=
  State.argmin (fun c => (s.slotsOn c).length) (cs.filter fun c => decide (l.g + l.shadow ≤ (s.freeSlots c).length) && decide (l.g * l.regs ≤ s.freeRegs c))
theorem bestCore_empty {s : State} {l : Launch} (h : s.combs = []) (h0 : l.scratch = 0) (cs : List Nat) : s.bestCore l cs = best s l cs := by
  unfold State.bestCore best
  simp only [fitsLaunch_empty h h0]

theorem wit_dispatch : ∃ l i k, ((launched.headsAt 0).filter fun x => x.1.pclass == State.topClass (launched.headsAt 0)).findSome?
    (fun x => (launched.bestCore x.1 (launched.candidates x.1 x.2).2).map fun k => (x, k)) = some ((l, i), k) ∧ launched.launch? l.num = some l := by
  have h : ((launched.headsAt 0).filter fun x => x.1.pclass == State.topClass (launched.headsAt 0)) = [(launch1 launched, 0)] := by decide +kernel
  refine ⟨launch1 launched, 0, 0, ?_, by decide +kernel⟩
  rw [h, List.findSome?_cons, bestCore_empty (by decide +kernel) (by decide +kernel)]
  decide +kernel

theorem wit_stealRequest : (wide.dist 1).victim = none ∧ (wide.dist 1).silent = none ∧ wide.headsAt 1 = []
    ∧ ((List.range 256).any fun c => hiveOf c == 1 && !(wide.freeSlots c).isEmpty) = true ∧ wide.queuedAt 0 ≠ 0
    ∧ (∀ w ∈ [0, 2, 3], wide.queuedAt w ≤ wide.queuedAt 0 ∧ (wide.queuedAt w = wide.queuedAt 0 → 0 ≤ w)) := by decide +kernel

theorem wit_stealAnswer : (asked.dist 1).victim = some 0 ∧ (asked.dist 1).answer = none
    ∧ ((asked.headsAt 0).filter fun x => (State.rectCores x.1).any fun c => hiveOf c == 1 && asked.fitsLaunch x.1 c) = [(launch1 asked, 0)]
    ∧ (dry.dist 1).victim = some 0 ∧ dry.headsAt 0 = [] := by
  refine ⟨by decide +kernel, by decide +kernel, ?_, by decide +kernel, by decide +kernel⟩
  have h : asked.headsAt 0 = [(launch1 asked, 0)] := by decide +kernel
  have hc : asked.combs = [] := by decide +kernel
  have hl : (launch1 asked).scratch = 0 := by decide +kernel
  rw [h, List.filter_cons]
  simp only [fitsLaunch_empty hc hl]
  decide +kernel

theorem wit_stolenCombPlace : (answered.dist 1).answer = some (some (1, 0)) ∧ answered.launch? 1 = some (launch1 answered) ∧ (launch1 answered).aborted = false
    ∧ (answered.ctx (launch1 answered).ctx).pstate = 0 ∧ answered.dev.offhome.length = 4
    ∧ (answered.bestCore (launch1 answered) ((State.rectCores (launch1 answered)).filter fun c => hiveOf c == 1)).isSome
    ∧ ((after (.stealAnswer 1) dry).dist 1).silent = some 512 := by
  refine ⟨by decide +kernel, by decide +kernel, by decide +kernel, by decide +kernel, by decide +kernel, ?_, by decide +kernel⟩
  rw [bestCore_empty (by decide +kernel) (by decide +kernel)]
  decide +kernel

def rested : State := { world .nop {} with clk := { (world .nop {}).clk with cur := none } }
theorem wit_issueChoice : rested.clk.issuing = [] ∧ rested.flights = [] ∧ rested.owesBoost = false ∧ rested.overdue = [] := by decide +kernel
def comes (hdr : Nat) (l : List (Op × Form)) (g : State → State) : State :=
  (bundles [(hdr, l)] (g (onPath (fun p => { p with arrived := false }) (world .nop {})))).modLaunch 2 fun l => { l with desc := { l.desc with codelen := 64 } }
def part (held : Bool) (pc : Nat) : RecEntry := { pc := pc, pl := 0xF0, exm := 0x30, pend := [(3, 9)], jid := 5, held := held }
def under (e : RecEntry) : State → State := onPath fun p => { p with pl := 0xF, exm := 0xF, cstack := [e] }
/-- The path is an arm of a dual path, whose other arm is as given. -/
def armBeside (o : Path) : State → State := onGroup fun g => { g with dual := some (5, 0), paths := g.paths.map (fun p => { p with kind := .arm, exm := 0xF, pl := 0xF })
  ++ [{ o with pix := 1, kind := .arm, pl := 0xF0, exm := 0x30 }] }
def hungry : State := onPath (fun p => { p with unchosen := 1024 }) (world .nop {})
def strayed : State := (onPath (fun p => { p with arrived := false }) (world .nop {})).modLaunch 2 fun l => { l with desc := { l.desc with codebase := 0x10000 } }
/-- A waiting path of the world, its code and its launch. -/
def arrives (s : State) (p : Launch → Path → Bundle → Bool) : Bool :=
  match s.comb? 1 with
  | some c => match s.launch? c.launch, s.path? r0 with
    | some l, some q => match s.bundleAt c.core (s.asid l.ctx) q.pc with
      | some b => decide (q.wait = .run) && !q.arrived && !q.goOn && !l.aborted && decide ((s.ctx l.ctx).pstate = 0) && p l q b
      | none => false
    | _, _ => false
  | none => false
def inCode (l : Launch) (p : Path) : Bool := decide (l.desc.codebase ≤ p.pc ∧ p.pc < l.desc.codebase + l.desc.codelen)
/-- An arrival at a plain bundle, at one without a valid slot, and outside the code; a path that has waited 1,024 cycles. -/
theorem wit_arrivals : arrives (comes 0 [(.nop, {})] id) (fun l p b => inCode l p && decide (p.kind = .main) && !b.join && !b.fin && (b.nextValid 0).isSome) = true
    ∧ arrives (comes 0 [] id) (fun l p b => inCode l p && decide (p.kind = .main) && !b.join && !b.fin && (b.nextValid 0).isNone && b.clean) = true
    ∧ arrives strayed (fun l p _ => decide (p.pc < l.desc.codebase) && decide (p.kind = .main)) = true ∧ ((hungry.path? r0).any fun p => decide (1024 ≤ p.unchosen)) = true := by decide +kernel
def atJoin (g : State → State) : State := comes (joinBits 5) [(.nop, {})] g
def joined (s : State) : Option (List RecEntry × Bool) := if arrives s (fun l p b => inCode l p && decide (p.kind = .main) && b.join && decide (b.joinId = 5)
  && ((s.group? 1 0).any fun g => !g.hasSide p)) then (s.path? r0).map fun p => (p.cstack, p.depth == 0) else none
/-- At a JOIN bundle: the pending part, and the held part; at an END bundle with a valid slot and with none. -/
theorem wit_joins : joined (atJoin (under (part false 64))) = some ([part false 64], true) ∧ joined (atJoin (under (part true 0))) = some ([part true 0], true)
    ∧ arrives (comes endBit [(.nop, {})] id) (fun l p b => inCode l p && decide (p.kind = .main) && !b.join && b.fin && (b.nextValid 0).isSome) = true
    ∧ arrives (comes endBit [] (under (part false 64))) (fun l p b => inCode l p && decide (p.kind = .main) && !b.join && b.fin && (b.nextValid 0).isNone && b.clean
        && decide (p.cstack = [part false 64])) = true := by decide +kernel
/-- An arm at its JOIN bundle: the other arm stands there, runs, or stands elsewhere. -/
theorem wit_arms_join : ∀ x ∈ [({ pc := 0, wait := .point } : Path), { pc := 64 }, { pc := 64, wait := .point }],
    let s := atJoin (armBeside x)
    arrives s (fun l p b => inCode l p && decide (p.kind = .arm) && b.join && decide (b.joinId = 5) && !p.freedArm && decide (p.cstack = [] ∧ p.depth = 0)
      && ((s.group? 1 0).any fun g => !g.hasSide p && decide (g.dual = some (5, 0)) && decide (g.otherArm p = some { x with pix := 1, kind := .arm, pl := 0xF0, exm := 0x30 }))) = true := by
  decide +kernel
/-- A side path that stands where its origin waits. -/
def besides : State := onGroup (fun g => { g with paths := g.paths.map (fun p => { p with wait := .point, exm := 0xF, pl := 0xF, pend := [(3, 9)] })
  ++ [{ pix := 3, kind := .side, origin := some 0, pl := 0xF0, exm := 0x30, pc := 0, arrived := false, pend := [(4, 10)] }] }) (world .nop {})
theorem wit_sidePathMerge : (match besides.path? r0, besides.path? { r0 with path := 3 } with
    | some o, some p => decide (p.kind = .side ∧ p.origin = some o.pix ∧ o.pix ≠ p.pix ∧ o.wait = .point ∧ p.wait = .run ∧ p.arrived = false ∧ p.pc = o.pc
        ∧ p.depth = o.depth ∧ p.rstack = o.rstack ∧ p.inHandler = o.inHandler ∧ p.cstack = [] ∧ o.endAfter = false)
    | _, _ => false) = true := by decide +kernel
/-- One arm waits at the merge point while the other stalls at bar.hold. -/
def arms : State := onGroup (fun g => { g with dual := some (1, 0), paths := g.paths.map (fun p => { p with kind := .arm, wait := .run, exm := 0xF, pl := 0xF })
  ++ [{ pix := 1, kind := .arm, pl := 0xF0, exm := 0x30, pc := 64, arrived := false, wait := .point }] }) (inWorld .barHold (barRow 2 (V 0) (S 1)) (bar3 { expect := 4, phase := 0x12 }))
theorem wit_armRelease : (match arms.path? { r0 with path := 1 }, arms.envOf r0 with
    | some p, some e => decide (p.kind = .arm ∧ p.wait = .point ∧ e.p.arrived = true ∧ e.p.wait = .run ∧ e.b.slotOp e.k = some (.barHold, barRow 2 (V 0) (S 1)))
        && arms.stallsAt e .barHold (barRow 2 (V 0) (S 1))
    | _, _ => false) = true := by decide +kernel
def asking : State := { mapped 0x3f 0 (world .nop {}) with coh := { (world .nop {}).coh with il := [], ireq := [(0, 0, 16)] } }
theorem wit_icacheLineFill : (0, 0, 16) ∈ asking.coh.ireq ∧ asking.coh.il = [] ∧ asking.ctxOfAsid 0 = some 0
    ∧ (match asking.xlate 0 0 (BitVec.ofNat 64 (16 * 256)) .exec with | .ok _ _ => true | _ => false) = true := by decide +kernel

/-- The fork of an fcall whose callee has returned, with nothing read or written by the continuation; and one marked squashed. -/
def forked : State := { after (.fcall toBundle3) (inWorld .fcall toBundle3 shadow5) with flights := [] }
def returned : State := forked.modPath r0 fun p => { p with wait := .returned (((forked.group? 1 0).bind fun g => g.forks.head?).map fun k => k.num).get! }
def squashed : State := onGroup (fun g => { g with forks := g.forks.map fun k => { k with squash := true } }) returned
def resolves (s : State) (p : Comb → Group → Fork → Path → Bool) : Bool :=
  match s.comb? 1, s.group? 1 0 with
  | some c, some g => match g.forks with
    | [k] => match g.path? k.pix, s.launch? c.launch with
      | some q, some l => decide (g.fork? k.num = some k) && !l.aborted && s.resolvable 1 g k && p c g k q
      | _, _ => false
    | _ => false
  | _, _ => false
/-- The continuation read v(half) in every lane under a prediction that is right in the lower lanes only. -/
def mixed : State := onGroup (fun g => { g with forks := g.forks.map fun k => { k with
  reads := setAt k.reads 0 0xFFFFFFFF, pred := setAt k.pred 0 (some ((List.range 32).map fun i => if i < 16 then 0 else 1)) } }) returned
theorem wit_ForksResolve :
    resolves returned (fun _ g k q => let rets := g.paths.filter fun p => p.wait == .returned k.num
      !k.squash && returned.coh.sb.isEmpty && decide (k.lanes ≠ 0) && decide (q.pl &&& k.lanes ≠ 0) && (k.reads.all fun r => r == 0)
        && decide (k.lanes &&& ~~~((rets.foldl (fun m p => m ||| p.pl) 0) &&& (rets.foldl (fun m p => m ||| p.exm) 0)) = 0)
        && g.paths.all fun p => !State.stray k p) = true
    ∧ resolves squashed (fun _ g k _ => k.squash && decide ((g.paths.filter fun p => p.wait == .returned k.num).length = 1)
        && (g.paths.all fun p => p.pl != 0 && !State.stray k p) && !g.ended) = true := by decide +kernel
theorem wit_replay : resolves mixed (fun cb g k q =>
    let rets := g.paths.filter fun p => p.wait == .returned k.num
    let pl := rets.foldl (fun m p => m ||| p.pl) 0
    let exm := rets.foldl (fun m p => m ||| p.exm) 0
    let right := fun (i : Nat) => (List.range 8).all fun r => !lane (getAt k.reads r) i || (match getAt k.pred r with
      | some v => vlane v i == vlane (getAt g.v (cb.regs / 2 + r)) i
      | none => false)
    let m := k.lanes &&& pl &&& exm &&& maskOf right
    !k.squash && !k.crossL && !k.scalarW && decide ((g.paths.filter fun p => p.kind == .side).length < 4) && decide (m = 0xFFFF)
      && decide (k.lanes &&& pl &&& ~~~m ≠ 0) && decide (q.pl &&& m ≠ 0) && (List.range 32).all (fun i => lane k.lanes i || right i)
      && rets.head?.isSome && g.paths.all fun p => !State.stray k p) = true := by decide +kernel
theorem wit_noforkClear : ∃ s : State, 3 ≤ (s.siteMark 0 64).rowN ∧ (s.siteMark 0 64).left = 0 :=
  ⟨State.reset.setSite { core := 0, site := 64, rowN := 3 }, by decide +kernel⟩
/-! ### States that meet the hypotheses of the statements about the pager, the loader, pre-emption and jobs -/

def fault (va : Nat) (code : Option Nat) : LaneFault := { lane := 3, va := BitVec.ofNat 64 va, need := .read, code := code }
def parkedAt (fs : List LaneFault) (fetch : Bool) (s : State) : State := onPath (fun p => { p with wait := .parked fs fetch false }) s
def present : State := parkedAt [fault 0x50000 none] false plainWorld
def fatal (fetch : Bool) : State := parkedAt [fault 0x50000 (some 0x12)] fetch plainWorld
/-- Page 5 is a managed page that has never been touched. -/
def untouched : State :=
  parkedAt [fault 0x51230 none] false ({ plainWorld with mem := { cells := [(0x1000, 1), (0x1001, 0x20), (0x2000, 1), (0x2001, 0x30), (0x3000, 1), (0x3001, 0x40),
    (0x4000, 1), (0x4001, 0x50), (0x5028, 0x5B)] } }.modCtx 0 fun x => { x with poolmax := 5, resmax := 5 })
theorem takeRun_empty {s : State} {t n : Nat} (h : n ≤ s.freePages t) (hp : s.pages = []) (hs : s.snaps = []) :
    s.takeRun t n = some (t * 2 ^ 20 + Config.freePick s.clk.free % (983040 / n) * n,
      { s.spend with pages := (List.range n).map (fun i => t * 2 ^ 20 + Config.freePick s.clk.free % (983040 / n) * n + i) ++ s.pages
                     coh := { s.coh with lines := s.coh.lines.filter fun x => !(keyRegion x.line == 0
                       && decide ((t * 2 ^ 20 + Config.freePick s.clk.free % (983040 / n) * n) * 65536 ≤ keyAddr x.line)
                       && decide (keyAddr x.line < (t * 2 ^ 20 + Config.freePick s.clk.free % (983040 / n) * n + n) * 65536)) } }) := by
  have hq : s.probe t n (Config.freePick s.clk.free) (s.pages.length + 32 * s.snapPages + 1) = some (t * 2 ^ 20 + Config.freePick s.clk.free % (983040 / n) * n) := by
    unfold State.probe
    simp only [hp, List.any_nil, State.snapNames, hs, Bool.or_self, Bool.false_eq_true, if_false]
  unfold State.takeRun
  rw [if_neg (by omega), hq]
theorem wit_PagerEvents :
    ((present.path? r0).any fun p => decide (p.wait = .parked [fault 0x50000 none] false false)) = true
    ∧ (match present.xlate 0 0 0x50000 .read with | .ok _ _ => true | _ => false) = true
    ∧ (∀ fetch ∈ [false, true], (((fatal fetch).path? r0).any fun p => decide (p.wait = .parked [fault 0x50000 (some 0x12)] fetch false)) = true
        ∧ (((fatal fetch).launch? 2).any fun l => !l.aborted) = true)
    ∧ untouched.mem.wf = true ∧ untouched.snaps = [] ∧ (untouched.wanted 0).head? = some 0x51230
    ∧ untouched.walkCtx 0 0x51230 = .leaf 0x5B false 0x5028 ∧ leafPresent 0x5B = false ∧ leafManaged 0x5B = true ∧ leafTT 0x5B = 0 ∧ leafAddr 0x5B = 0
    ∧ (untouched.ctx 0).poolused.toNat < (untouched.ctx 0).poolmax.toNat ∧ untouched.devWaits 0 = false ∧ (∀ j < 8, untouched.Plain (kTower (0x5028 + j)))
    ∧ ∃ p s1, untouched.takeRun (untouched.emptier (untouched.pageHive 0 5 0x5B (untouched.wantHive 0 0x51230))) 1 = some (p, s1) ∧ p < 2 ^ 23 := by
  refine ⟨by decide +kernel, by decide +kernel, by decide +kernel, by decide +kernel, by decide +kernel, by decide +kernel, by decide +kernel, by decide,
    by decide, by decide, by decide, by decide +kernel, by decide +kernel, by decide +kernel, ?_⟩
  have h0 : untouched.emptier (untouched.pageHive 0 5 0x5B (untouched.wantHive 0 0x51230)) = 0 := by decide +kernel
  rw [h0, takeRun_empty (by decide +kernel) (by decide +kernel) (by decide +kernel)]
  exact ⟨_, _, rfl, by omega⟩

/-- Firmware runs, so that register writes are taken. -/
def running (s : State) : State := { s with dev := { s.dev with fwstat := 2 } }
def loading (en : Bool) (addr len : Nat) : State := plainWorld.modCtx 0 fun x =>
  { x with en := en, lstatus := 1, loading := some { addr := BitVec.ofNat 64 addr, len := BitVec.ofNat 32 len, base := 0x100000, sigreq := false, polkey := x.polkey } }
def loaded : State := (running plainWorld).modCtx 0 fun x => { x with objs := [{ handle := 1, obj := 0, codeVa := 0x40000, codeLen := 128 }] }
/-- What testing the pages of a file gives: 0 when all can be read, else the STATUS. -/
def loadPages (addr len : Nat) : Option Nat :=
  let s := loading true addr len
  ((s.ctx 0).loading).map fun cmd =>
    match (testPages { c := 0, cmd := cmd } (addr / 65536 * 65536) ((addr + len - 1) / 65536 + 1 - addr / 65536) s : Except Nat Unit × State).1 with
    | .ok _ => 0
    | .error e => e
theorem wit_LoaderEvents :
    (running plainWorld).dev.fwstat = 2 ∧ (running plainWorld).dev.astate.toNat < 3 ∧ ((running plainWorld).ctx 0).lstatus ≠ 1
    ∧ ((loading true 0x50000 300).ctx 0).en = true ∧ ((loading false 0x50000 300).ctx 0).en = false
    ∧ 2 ^ 56 < (2 ^ 56 - 8) + 300 ∧ 0x50000 + 100 ≤ 2 ^ 56
    ∧ ((loading true 0x50000 300).ctx 0).reviving = false
    ∧ loadPages 0x50000 100 = some 0 ∧ loadPages 0x80000000 300 = some 0x39
    ∧ (match (loading true 0x50000 300).devRead 0 0x50000 256 with | .ok (h, _) => decide (fieldAt h 0 4 ≠ 0x464F4E4C) | .error _ => false) = true
    ∧ (∃ o ∈ (loaded.ctx 0).objs, o.handle = 1 ∧ o.unloaded = false) ∧ ∀ o ∈ (loaded.ctx 0).objs, o.handle = 7 → o.unloaded = true := by
  refine ⟨rfl, by decide +kernel, by decide +kernel, by decide +kernel, by decide +kernel, by decide, by decide, by decide +kernel, by decide +kernel, by decide +kernel, by decide +kernel, ?_, ?_⟩
  · exact ⟨_, List.mem_singleton.mpr rfl, rfl, rfl⟩
  · intro o ho
    rw [List.mem_singleton.mp ho]
    decide

/-- A file of one empty code section (R128, R129), whose HASH is SHA-512 of no byte; one whose first page waits for the pager. -/
def emptyHash : Nat := 0xcf83e1357eefb8bdf1542850d66d8007d620e4050b5715dc83f4a921d36ce9ce47d0d13c5d85f2b0ff8318d2877eec2f63b931bd47417a81a538327af927da3e
def fileBytes : List (Nat × List Byte) := [(0, leBytes 4 0x464F4E4C ++ leBytes 2 1 ++ leBytes 2 3), (0xC, leBytes 4 1), (0x10, leBytes 8 256),
  (0x50, (leBytes 64 emptyHash).reverse), (260, [1])]
def fileWorld : State := fileBytes.foldl (fun s x => put (0x50000 + x.1) x.2 s) (loading true 0x50000 304)
def loadCtx (s : State) : LoadCtx := { c := 0, cmd := ((s.ctx 0).loading).getD default }
def loadGives (s : State) : Nat × Bool := match (runLoad (loadCtx s) s : Except Nat Nat × State).1 with | .ok n => (n, true) | .error n => (n, false)
theorem wit_runLoad : loadGives fileWorld = (2, true) ∧ loadGives (loading true 0x50000 300) = (0x30, false)
    ∧ loadGives (crowd (loading true 0x50000 300)) = (0, false) ∧ ((fileWorld.ctx 0).loading).isSome = true
    ∧ (((loading true 0x50000 300).modCtx 0 fun x => { x with reviving := true }).ctx 0).reviving = true := by decide +kernel

def unsaved : State := (running (onPath (fun p => { p with arrived := false }) plainWorld)).modCtx 0 fun x => { x with savebase := 0x40000 }
def saving : State := after (.preemptSave 0) unsaved
/-- A saved comb without groups, and the context that holds it. -/
def bareComb : Comb := { id := 1, launch := 2, core := 0, offh := false, cx := 0, cy := 0, cz := 0, g := 0, regs := 16, lanes := 0, scratch := 0, spOff := 0, spBase := 0, spap := 0xFFFFFFF0000000, groups := [] }
def bareSaved : SavedComb := { comb := bareComb, base := 4096 }
def savedCtx (n : BitVec 2) (l : List SavedComb) : State := { unsaved with combs := [] }.modCtx 0 fun x => { x with pstate := n, saved := l }
/-- A save begins, is ready, and has no comb to write; a restore with nothing saved and with a comb. -/
theorem wit_PreemptEvents :
    unsaved.ctxs.length = 64 ∧ (unsaved.ctx 0).pstate = 0 ∧ unsaved.dev.fwstat = 2 ∧ unsaved.jobs = []
    ∧ (saving.ctx 0).pstate = 1 ∧ saving.saveReady 0 = true ∧ (saving.combs.map fun d => d.id).Nodup
    ∧ ((savedCtx 1 []).ctx 0).pstate = 1 ∧ (savedCtx 1 []).saveReady 0 = true ∧ (savedCtx 1 []).combs = [] ∧ (savedCtx 1 []).coh.mq = []
    ∧ ((savedCtx 2 []).ctx 0).pstate = 2 ∧ ((savedCtx 2 []).ctx 0).saved = [] ∧ ((savedCtx 2 [bareSaved]).ctx 0).saved = [bareSaved] ∧ bareSaved.back = false := by
  decide +kernel
theorem wit_save_header : ∃ s3, (savedCtx 1 []).bump.writeArea 0 0x40000 (headArea (savedCtx 1 []).clk.serial 0) = some s3
    ∧ s3.saveCombs 0 (savedCtx 1 []).clk.serial [] 4096 = some (s3, 4096) := by
  have hn : (headArea (savedCtx 1 []).clk.serial 0).length = 4096 := by simp [headArea, shown, Machine.hidden, leBytes]
  exact ⟨_, State.writeArea_page (tt := 0) (k := 0x40000) (by decide +kernel) (by decide) (by decide +kernel) (by omega) (by omega), rfl⟩
/-- The header's page waits for the pager. -/
theorem wit_save_waits : ((crowd ((savedCtx 1 []).modCtx 0 fun x => { x with savebase := 0x50000 })).bump.writeArea 0 0x50000
    (shown (List.replicate 16 0))).isNone = true := by decide +kernel
/-- A comb's record, and a few bytes of the area. -/
theorem wit_save_comb : ({ unsaved with combs := [bareComb] }).comb? 1 = some bareComb
    ∧ ∃ s1, ({ unsaved with combs := [bareComb] } : State).writeArea 0 (0x40000 + 4096) (combArea 7 4096 { unsaved with combs := [bareComb] } bareComb) = some s1 := by
  have hn : (combArea 7 4096 { unsaved with combs := [bareComb] } bareComb).length = 4096 := by
    simp [combArea, shown, Machine.hidden, leBytes, bareComb, fullArea, up4k, State.bytesAt]
  exact ⟨by decide +kernel, _, State.writeArea_page (tt := 0) (k := 0x41000) (by decide +kernel) (by decide) (by decide +kernel) (by omega) (by omega)⟩
theorem wit_save_bytes : unsaved.xlate 0 0 (BitVec.ofNat 64 0x40000) .write = .ok 0 0x40000 ∧ unsaved.dev.lost = [] ∧ unsaved.snaps = [] ∧ unsaved.mem.wf = true
    ∧ (∀ i < 3, unsaved.Plain (0x40000 + i)) := by decide +kernel
/-- The world's comb: its launch, and a group whose register files have the sizes of R102, with a path. -/
theorem wit_comb_record : (plainWorld.comb? 1).any (fun d => (plainWorld.launch? d.launch).isSome && decide (d.regs = 256 ∧ d.g = 1 ∧ d.scratch = 4096)
    && d.groups.all (fun g => decide (g.s.length = 64 ∧ g.x.length = 4 ∧ g.q.length = 8)) && ((d.group? 0).any fun g => (g.path? 0).isSome && (g.path? 1).isNone)) = true := by
  decide +kernel

/-- A context that restores one comb from the bytes at 0x40000. -/
def restoreBase : State :=
  { savedCtx 3 [bareSaved] with mem := {}, coh := { (savedCtx 3 [bareSaved]).coh with tlb := [{ asid := 0, page := 0, leaf := 0x1f, big := true }] } }
def restoring (bs : List Byte) : State := { restoreBase with mem := Memory.setAll {} (cellsFrom 0x40000 bs) }
def headBytes : List Byte := (headArea 0 1).map fun b => b.1
def combBytes : List Byte := (combArea 0 4096 { restoreBase with mem := {}, full := [] } bareComb).map fun b => b.1
theorem headBytes_length : headBytes.length = 4096 := by simp [headBytes, headArea, shown, Machine.hidden, leBytes]
theorem combBytes_length : combBytes.length = 4096 := by
  simp [combBytes, combArea, shown, Machine.hidden, leBytes, bareComb, fullArea, up4k, State.bytesAt]
/-- What the device reads of the area: its header and its comb record. -/
theorem restoring_reads (hs bs : List Byte) (h1 : hs.length = 4096) (h2 : bs.length = 4096) (s0 : State) (h : s0.mem = (restoring (hs ++ bs)).mem) :
    s0.bytesAt 0x40000 4096 = hs ∧ s0.bytesAt 0x41000 4096 = bs := by
  have get : ∀ i (hi : i < (hs ++ bs).length), s0.mem.get (0x40000 + i) = some (hs ++ bs)[i] := fun i hi => by
    rw [h]
    exact Memory.get_setAll_cells {} 0x40000 (hs ++ bs) rfl i hi
  constructor
  · have := State.bytesAt_of_get (s := s0) (k := 0x40000) (bs := hs) fun i hi => by
      rw [get i (by simp; omega), List.getElem_append_left hi]
    rwa [h1] at this
  · have := State.bytesAt_of_get (s := s0) (k := 0x41000) (bs := bs) fun i hi => by
      have := get (4096 + i) (by simp; omega)
      rw [show 0x41000 + i = 0x40000 + (4096 + i) by omega, this, List.getElem_append_right (by omega)]
      simp [h1]
    rwa [h2] at this
/-- The comb's place is there, and the area's two parts translate. -/
def comesBack (s : State) : Bool :=
  let s0 := s.note 0 0x40000#64
  let s1 := s0.note 0 0x41000#64
  decide ((s.ctx 0).pstate = 3) && decide ((s.ctx 0).saved[0]? = some bareSaved) && s.fitsBack bareComb && decide (s.xlate 0 0 0x40000#64 .read = .ok 0 0x40000)
    && s.dev.lost.isEmpty && decide (s0.xlate 0 0 0x41000#64 .read = .ok 0 0x41000) && s0.dev.lost.isEmpty && (s1.roomForTiles bareComb 17).isSome
theorem restore_place {hs bs : List Byte} (h1 : hs.length = 4096) (h2 : bs.length = 4096) (h : comesBack (restoring (hs ++ bs)) = true) : ∃ s0 s1 s2,
    ((restoring (hs ++ bs)).ctx 0).pstate = 3 ∧ ((restoring (hs ++ bs)).ctx 0).saved[0]? = some bareSaved ∧ (restoring (hs ++ bs)).fitsBack bareComb = true
    ∧ (restoring (hs ++ bs)).devRead 0 0x40000 4096 = .ok (hs, s0) ∧ s0.devRead 0 (0x40000 + 4096) 4096 = .ok (bs, s1) ∧ s1.roomForTiles bareComb 17 = some s2 := by
  simp only [comesBack, Bool.and_eq_true, decide_eq_true_eq, List.isEmpty_iff] at h
  obtain ⟨⟨⟨⟨⟨⟨⟨a, b⟩, c⟩, d⟩, e⟩, f⟩, g⟩, r⟩ := h
  have r1 := State.devRead_page (c := 0) (va := 0x40000) (n := 4096) d (by decide) e (by omega) (by omega) (by omega)
  have r2 := State.devRead_page (c := 0) (va := 0x41000) (n := 4096) f (by decide) g (by omega) (by omega) (by omega)
  rw [(restoring_reads hs bs h1 h2 _ (State.note_mem _ _ _)).1] at r1
  rw [(restoring_reads hs bs h1 h2 _ ((State.note_mem _ _ _).trans (State.note_mem _ _ _))).2] at r2
  exact ⟨_, _, _, a, b, c, r1, r2, (Option.some_get r).symm⟩
theorem wit_restore_intact : comesBack (restoring (headBytes ++ combBytes)) = true ∧ intact (headArea 0 1) headBytes = true
    ∧ intact (combArea 0 4096 { restoreBase with mem := {}, full := [] } bareComb) combBytes = true :=
  ⟨by decide +kernel, intact_self _, intact_self _⟩
/-- The last device-private byte of the header, and of the comb record, is changed. -/
def other (b : Byte) : Byte := ~~~b
theorem other_ne (b : Byte) : b ≠ other b := by
  unfold other
  revert b
  decide
def priv (off : Nat) : Byte := Config.freeByte 0 off
def headChanged : List Byte := ((shown (leBytes 8 0x31 ++ leBytes 8 1) ++ Machine.hidden 0 16 4079).map fun b => b.1) ++ [other (priv 4095)]
theorem headArea_last : headArea 0 1 = (shown (leBytes 8 0x31 ++ leBytes 8 1) ++ Machine.hidden 0 16 4079) ++ [(priv 4095, true)] := by
  simp [headArea, Machine.hidden, priv, List.range_succ (n := 4079)]
def combHead : List AreaByte := shown (leBytes 8 (combId bareComb).toNat ++ leBytes 8 (coreReg 0).toNat ++ leBytes 8 ((restoreBase.launch? 2).getD default).lid.toNat)
def combChanged : List Byte := ((combHead ++ Machine.hidden 0 4120 4071).map fun b => b.1) ++ [other (priv 8191)]
theorem combArea_last : combArea 0 4096 { restoreBase with mem := {}, full := [] } bareComb = (combHead ++ Machine.hidden 0 4120 4071) ++ [(priv 8191, true)] := by
  have h8 : ∀ n, (leBytes 8 n).length = 8 := fun _ => rfl
  have hl : ({ restoreBase with mem := {}, full := [] } : State).launch? 2 = restoreBase.launch? 2 := rfl
  simp [combArea, hl, shown, Machine.hidden, h8, bareComb, fullArea, up4k, State.bytesAt, combHead, priv, List.range_succ (n := 4071)]
theorem wit_restore_changed : comesBack (restoring (headChanged ++ combBytes)) = true ∧ intact (headArea 0 1) headChanged = false
    ∧ comesBack (restoring (headBytes ++ combChanged)) = true
    ∧ intact (combArea 0 4096 { restoreBase with mem := {}, full := [] } bareComb) combChanged = false := by
  refine ⟨by decide +kernel, ?_, by decide +kernel, ?_⟩
  · rw [headArea_last]; exact intact_changed _ _ _ (other_ne _)
  · rw [combArea_last]; exact intact_changed _ _ _ (other_ne _)

def job (card : List W64) : Job := { num := 20, ctx := 0, asid := 0, launch := 2, comb := 1, core := 0, group := 0, card := card, ord := {} }
def withJobs (l : List Job) (s : State) : State := { s with jobs := l }
/-- The first word of a card. -/
def word0 (eng op rest : Nat) : W64 := BitVec.ofNat 64 (eng * 2 ^ 60 + op * 2 ^ 56 + rest)
def copyCard : List W64 := [word0 0 0 128, 0x50000, 0x60000, 0]
def goEntry : SBEntry := entry 5 (cellsFrom (key 9 0x20) (leBytes 8 0)) [0]
def atGo (card : List (Option W64)) (l : List Job) : State := onGroup (fun g => { g with card := card }) (withJobs l (withEntry goEntry []))
/-- A card's checks at GO: its block is taken, and the first check that fails (0 none, 1 reserved fields, 2 form, 3 alignment). -/
def atGoCheck (card : List W64) : Option Nat :=
  let s := atGo (card.map some) []
  match s.comb? 1 with
  | none => none
  | some c =>
    if (acceptBlock card).isSome || !s.goReady goEntry || s.acceptBusy goEntry ((s.group? 1 0).getD {}) then none
    else
      let k := cardCheck ((s.bump.modSB fun l => l.filter fun x => x.eid != 7).modGroup 1 0 fun g => { g with card := List.replicate 4 none, openJobs := g.openJobs ++ [{ num := s.clk.serial }] }) c card []
      if jobOps (jobEng card) ≤ jobOp card then some 9 else if k.rsv then some 1 else if k.form then some 2 else if k.align then some 3 else some 0
theorem wit_JobEvents_accept : atGoCheck copyCard = some 0 ∧ atGoCheck [word0 0 5 100, 0x50000, 0x60000, 1] = some 9 ∧ atGoCheck [word0 0 0 100, 0x50000, 0x60000, 0x11] = some 1
    ∧ atGoCheck [word0 0 0 100, 0x50001, 0x60000, 1] = some 3 ∧ atGoCheck [word0 1 0 (3 * 2 ^ 52), 0x50000, 0x60000, 0x70000] = some 0
    ∧ (gCard [word0 1 0 (3 * 2 ^ 52), 0x50000, 0x60000, 0x70000]).cnt = 0 ∧ (atGo [some 1, none, some 2, some 3] []).acceptBusy goEntry (((atGo [some 1, none, some 2, some 3] []).group? 1 0).getD {}) = false ∧ (atGo [some 1, none, some 2, some 3] []).goReady goEntry = true := by decide +kernel
def landing : Job := { job copyCard with phase := .ending 1 0, writes := [{ data := [(0x60000, 5), (0x60001, 6)], count := 2 }], owed := 5 }
def paying : Job := { job copyCard with phase := .ending 1 0, writes := [{ count := 2 }], owed := 5, pb := true, bar := 3 }
def ending : Job := { job copyCard with phase := .ending 0x15 7, flags := 3 }
theorem wit_JobEvents_end : (withJobs [landing] plainWorld).job? 20 = some landing ∧ (∀ w ∈ landing.writes, (withJobs [landing] plainWorld).landReady landing w = true ∧ ∀ d ∈ w.data, keyRegion d.1 < 7 ∧ plainWorld.Plain d.1) ∧ plainWorld.mem.wf = true
    ∧ (withJobs [paying] plainWorld).job? 20 = some paying ∧ (((bar3 { expect := 4 } plainWorld).comb? 1).any fun c => decide (plainWorld.barRef c 3 = some (.comb 3)) && decide (3 < c.bars.length)
        && decide ((getAt c.bars 3).arrived < (getAt c.bars 3).expect)) = true
    ∧ (withJobs [ending] plainWorld).job? 20 = some ending ∧ (withJobs [ending] plainWorld).lateCancel ending = false ∧ ending.coll = none
    ∧ ((((withJobs [ending] plainWorld).modLaunch 2 fun l => { l with aborted := true }).launch? 2).any fun l => l.aborted) = true := by decide +kernel

/-- Each engine's card starts, and its work does not fail, over zeroed memory. -/
def works : List (Nat × Nat × List W64 × (State → Job → Work)) :=
  [(0, 0, copyCard, copyWork), (0, 1, [word0 0 1 (3 * 2 ^ 16 + 31), 0x50000, 0x60000, BitVec.ofNat 64 (8 * 2 ^ 27 + 9 * 2 ^ 20 + 2 * 2 ^ 7)], convWork false),
   (0, 2, [word0 0 2 (3 * 2 ^ 16 + 31), 0x50000, 0x60000, BitVec.ofNat 64 (8 * 2 ^ 27 + 9 * 2 ^ 20 + 2 * 2 ^ 7)], convWork true),
   (1, 0, [word0 1 0 (3 * 2 ^ 52 + 4 * 2 ^ 46 + 1), 0x50000, 0x60000, 0x70000], rowsWork false),
   (1, 1, [word0 1 1 (3 * 2 ^ 52 + 4 * 2 ^ 46 + 1), 0x50000, 0x60000, 0x70000], rowsWork true),
   (3, 1, [word0 3 1 (8 + 0x02 * 2 ^ 51), 0x50000, 0x60000, 0], accmWork), (3, 2, [word0 3 2 8, 0x50000, 0x60000, 0], amaxWork),
   (3, 3, [word0 3 3 64, 0x1122334455667788, 0x60000, 0], fillWork), (3, 4, [word0 3 4 128, 0x50000, 0x60000, 0], bankCopyWork)]
def startsOk (x : Nat × Nat × List W64 × (State → Job → Work)) : Bool :=
  let s := withJobs [job x.2.2.1] plainWorld
  let r := fun (todo : List Nat) => { job x.2.2.1 with phase := .reading todo }
  decide (s.startable 20 x.1 x.2.1 = some (job x.2.2.1)) && decide ((x.2.2.2 s (job x.2.2.1)).fail = none) && !State.waitsForPage (x.2.2.2 s (job x.2.2.1))
    && [[], [0x50000]].all fun todo => decide ((withJobs [r todo] plainWorld).readingJob 20 x.1 x.2.1 = some (r todo, todo)) && !State.waitsForPage (x.2.2.2 (withJobs [r todo] plainWorld) (r todo))
/-- A gather whose first list entry is out of its table. -/
def strayRow : State := put 0x70000 (leBytes 4 99) (withJobs [job [word0 1 0 (3 * 2 ^ 52 + 4 * 2 ^ 46 + 1), 0x50000, 0x60000, 0x70000]] plainWorld)
theorem wit_EngineJobs : (∀ x ∈ works, startsOk x = true) ∧ plainWorld.isStale 0x50000 = false ∧ plainWorld.reaches 0x50000 = true
    ∧ (match strayRow.job? 20 with | some j => decide ((rowsWork false strayRow j).fail = some (0x16, 0)) | none => false) = true := by decide +kernel
/-- A conv that has still to read one of its source lines may write a line that does not need it and not yet one that does. -/
def halfCopy : Job := { job [word0 0 1 (31 * 2 ^ 16 + 63), 0x50000, 0x60000, BitVec.ofNat 64 (8 * 2 ^ 27 + 9 * 2 ^ 20 + 2 * 2 ^ 7)] with phase := .reading [0x50080] }
theorem wit_writeEarly :
    let w := convWork false (((withJobs [halfCopy] plainWorld).placeView 0).withRead halfCopy.got) halfCopy
    w.early = true ∧ w.fail = none ∧ (w.writes[0]?).isSome ∧ 0 ∉ halfCopy.early ∧ (∀ k ∈ w.needs 0, k ∉ [0x50080])
      ∧ (w.writes[1]?).isSome ∧ 0x50080 ∈ w.needs 1 := by decide +kernel
/-- A copy whose source's page waits for the pager, before it starts and as it decides; and one that fails. -/
def absentCopy : List W64 := [word0 0 0 128, 0x50000, 0x10000, 0]
def lostCopy : List W64 := [word0 0 0 128, 0x80000000, 0x10000, 0]
def jobWaits (ph : JobPhase) : State := crowd (withJobs [{ job absentCopy with phase := ph }] plainWorld)
theorem wit_jobs_wait : (jobWaits .waiting).startable 20 0 0 = some (job absentCopy) ∧ State.waitsForPage (copyWork (jobWaits .waiting) (job absentCopy)) = true
    ∧ (jobWaits (.reading [])).readingJob 20 0 0 = some ({ job absentCopy with phase := .reading [] }, [])
    ∧ State.waitsForPage (copyWork (jobWaits (.reading [])) { job absentCopy with phase := .reading [] }) = true
    ∧ (copyWork (withJobs [job lostCopy] plainWorld) (job lostCopy)).fail.isSome = true := by decide +kernel
def chainCard : List W64 := [word0 2 0 5, 0x50000, 0x60000, 0x70000]
def mvCard1 : List W64 := [word0 3 0 (9 * 2 ^ 51 + 11 * 2 ^ 44 + 2 ^ 42 + 2 ^ 16), 0x50000, 0x60000, 0x70000]
theorem wit_chain_mv : (withJobs [job chainCard] plainWorld).startable 20 2 0 = some (job chainCard) ∧ (withJobs [job mvCard1] plainWorld).startable 20 3 0 = some (job mvCard1)
    ∧ mvFmts (mvCard mvCard1) = some (.bf16, .e4m3) := by decide +kernel

/-! ### The matrix engine -/

def tiles12 (i : Bool) : State → State := onComb fun c => { c with tiles := [{ num := 1, isInt := i, el := List.replicate 4096 0 }, { num := 2, isInt := i, el := List.replicate 4096 0 }] }
def issued (o : Op) (f : Form) (i : Bool) : State := after (Op.mk o f) (inWorld o f (tiles12 i))
def atHead (s : State) (o : Op) : Bool :=
  let t := { s with clk := { s.clk with cycle := s.clk.cycle + 40 } }
  match t.coh.mq with
  | q :: _ => match t.comb? q.comb, q.fids with
    | some c, [n] => decide (q.op = o) && t.engineReady c q && (t.engineUnits c q).isEmpty && q.out.isNone && q.todo.isNone && decide (q.core = c.core) && c.gangs.isEmpty && (t.flight? n).isSome
    | _, _ => false
  | [] => false
theorem wit_MatrixEvents_acc : ∀ x ∈ accRows, (∀ i ∈ [false, true], atHead (issued x.1.o x.1.f i) x.1.o = true) := by decide +kernel
/-- A gang instruction of one group: its row, and the state in which its entry has entered the queue. -/
def gangEntry (o : Op) (f : Form) : State :=
  after (Op.mk o f) (onComb (fun c => { c with scratch := 65536, eprog := setAt (List.replicate 64 0) 0 0x78000000 }) (window (mapped 0x1f 0 (inWorld o f
    (setS 1 0xFFFFFFF0000000 ∘ setS 2 0xFFFFFFF0002000 ∘ setS 3 0x10000)))))
/-- The entry at the head, with nothing left to read. -/
def readDone (s : State) : State := { s with coh := { s.coh with mq := s.coh.mq.map fun q => { q with todo := some [] } } }
def mmaF : Form := fm 0 .none (.acc 3) (S 1) (S 2) (imm := 0x296F)
def mmvTile : Form := fm 0 .none (.acc 3) (S 1) (S 3) (S 2) (imm := 0x5589)
def mmvWin : Form := { fm 0 .none (.none 0) (S 1) (S 3) (S 2) (imm := 0x5589) with mod := true }
def drainRow : Form := fm 0 .none (.none 0) (.acc 3) (S 1) (S 2) (imm := 8)
/-- What the clauses about one operation assume of the head entry. -/
def headOf (s : State) (p : Comb → QEntry → Flight → Bool) : Bool :=
  match s.comb? 1, s.coh.mq with
  | some c, q :: _ => match q.fids with
    | [n] => match s.flight? n with
      | some f => decide (q.core = c.core ∧ q.comb = c.id ∧ q.out = none ∧ q.fids = [f.fid]) && c.gangs.isEmpty && p c q f
      | none => false
    | _ => false
  | _, _ => false
/-- Before it reads, the engine takes the operands' units; with nothing left to read it computes. -/
theorem wit_MatrixEvents_units : headOf (gangEntry .mma mmaRow) (fun c q _ => q.todo.isNone && (gangEntry .mma mmaRow).engineReady c q
    && !((gangEntry .mma mmaRow).engineUnits c q).isEmpty) = true := by decide +kernel
theorem wit_MatrixEvents_mma : ∀ f ∈ [mmaRow, mmaF], headOf (readDone (gangEntry .mma f)) (fun c q _ => decide (q.op = .mma ∧ q.kdone = 0 ∧ q.todo = some [])
    && !q.form.imm.getLsbD 14 && !q.form.imm.getLsbD 15 && decide (((readDone (gangEntry .mma f)).tileOf c.id (dstTile q.form)).el.length = 4096)
    && (decide (q.form.immBits 0 5 = 0 ∧ q.form.immBits 5 5 = 0 ∧ q.form.immBits 10 2 = 0) == decide (f = mmaRow))) = true := by decide +kernel

theorem wit_MatrixEvents_mmv : ∀ f ∈ [mmvTile, mmvWin], headOf (readDone (gangEntry .mmv f)) (fun c q _ =>
    let s := readDone (gangEntry .mmv f)
    decide (q.op = .mmv ∧ q.todo = some []) && (s.windowKey c (getAt q.ops 0).toNat 8).isSome && decide ((s.tileOf c.id (dstTile q.form)).el.length = 4096)
    && decide (q.form.immBits 26 6 + 1 = 1) && ((s.withRead q.got).weightLine q.keys 0).isSome
    && (q.form.mod == decide (f = mmvWin)) && (s.windowKey c (getAt q.ops 2).toNat 4).isSome) = true := by decide +kernel
theorem wit_MatrixEvents_drain : headOf (readDone (gangEntry .drain drainRow)) (fun c q _ => decide (q.op = .drain ∧ q.todo = some [])
    && (State.drainProg c q.form).isLeft && ((readDone (gangEntry .drain drainRow)).windowKey c (getAt q.ops 0).toNat 128).isSome) = true := by decide +kernel
def epldWorld : State := after (.epld epldRow) (window (mapped 0x1f 0 (inWorld .epld epldRow (setS 1 0x10000))))
def epldRead : State := readDone { epldWorld with flights := epldWorld.flights.map fun f => { f with accs := f.accs.map fun a => { a with val := some 7 } } }
theorem wit_MatrixEvents_epld : headOf epldRead (fun c q f => decide (q.op = .epld) && epldRead.engineReady c q && decide ((f.accs.map fun x => x.lane).Nodup)
    && decide (c.eprog.length = 64) && decide (f.accs.length = 2)) = true := by decide +kernel
/-- An entry that is reading, and one that has computed two line writes. -/
def headIs (g : QEntry → QEntry) : State := let s := gangEntry .mma mmaRow; { s with coh := { s.coh with mq := s.coh.mq.map g } }
def lineWrites : List (List (Nat × Byte)) := [cellsFrom (kScratch 0 0) [1], cellsFrom (kScratch 0 128) [2]]
theorem wit_MatrixEvents_steps : (headIs fun q => { q with todo := some [[kScratch 0 0]] }).isStale (lineKey (kScratch 0 0)) = false
    ∧ ((headIs fun q => { q with out := some (lineWrites, 0, none) }).coh.mq.all fun q => q.out == some (lineWrites, 0, none)) = true := by decide +kernel

def waitingGang : State := after (.mma mmaRow) (mmaWorld 3)
def overdue : State := { waitingGang with clk := { waitingGang.clk with cycle := 70000 } }
theorem wit_MatrixEvents_timeout : ((overdue.comb? 1).any fun c => match c.gangs with
    | [l] => decide (l.gang = 3) && decide (l.since + 65536 ≤ overdue.clk.cycle) && decide (l.members.length = 1)
    | _ => false) = true := by decide +kernel

/-! ### Collectives, snapshots, the pod, the host, registers and power -/

def descWords (p : Nat) : List W64 := [BitVec.ofNat 64 (8 * 2 ^ 47 + 9 * 2 ^ 16 + (p - 1)), 4, BitVec.ofNat 64 (10 * 2 ^ 32 + 128), 0x70000, 0x71000, 0, 0, 0]
def collJob (op p : Nat) : Job := { job [word0 4 op 256, 0x50000, 0x60000, 0x72000] with coll := some { desc := descWords p }, owed := 256 }
def peersAt (l : List Nat) (s : State) : State := put 0x70000 (l.map (leBytes 2)).flatten s
/-- A collective that starts: how often its peer list names this device. -/
def collStarts (op : Nat) (l : List Nat) : Option Nat :=
  let s := withJobs [collJob op l.length] (peersAt l plainWorld)
  if s.startable 20 4 op = some (collJob op l.length) ∧ s.persBusy (collJob op l.length) (cDesc (descWords l.length)) = false then
    let x := s.readPlain (collJob op l.length) false 0x70000 (2 * l.length)
    if x.fail.isNone && State.inARow l && !s.hiveTaken (collJob op l.length) (cDesc (descWords l.length)) then some (((List.range l.length).filter fun i => leNat ((x.bytes.drop (2 * i)).take 2) == s.dev.devid.toNat).length) else none
  else none
theorem wit_CollectivesAndHops_start : (∀ op ∈ [0, 1, 2, 3], collStarts op [1, 0] = some 1) ∧ collStarts 0 [2, 1] = some 0 ∧ State.inARow [0, 1, 0] = false
    ∧ (withJobs [{ collJob 0 2 with num := 9, core := 1 }, collJob 0 2] plainWorld).hiveTaken (collJob 0 2) (cDesc (descWords 2)) = true
    ∧ (withJobs [{ collJob 0 2 with num := 9 }, { collJob 0 2 with coll := some { desc := setAt (descWords 2) 0 (getAt (descWords 2) 0 ||| BitVec.ofNat 64 (2 ^ 43)) } }] plainWorld).persBusy
        (collJob 0 2) (cDesc (setAt (descWords 2) 0 (getAt (descWords 2) 0 ||| BitVec.ofNat 64 (2 ^ 43)))) = true := by decide +kernel
def packet (hops : List (Nat × Nat)) : Packet :=
  { nhop := hops.length, fmt := 8, src := 1, cid := 9, chunk := 0, step := 4, contrib := 1, ncont := 1, len := 128, hops := hops, payload := List.replicate 128 1, owners := [] }
def withPacket (p : Packet) : State := { plainWorld with spire := { plainWorld.spire with loc := [p] } }
theorem wit_CollectivesAndHops_hops : ∀ o ∈ [0, 1, 2, 3, 15], packet [(o, 0), (2, 0)] ∈ (withPacket (packet [(o, 0), (2, 0)])).spire.loc
    ∧ (withPacket (packet [(o, 0), (2, 0)])).dev.devid.toNat = 0 ∧ (packet [(o, 0), (2, 0)]).nhop ≠ 0 := by decide +kernel
def slot5 : Slot := { num := 5, cid := 9, step := 4, chunk := 0, expect := some 2, job := some 20, route := [(2, 0)], tmo := 0, ranks := 2, packs := [packet [(2, 0)]], born := 0 }
def lateSlot : State := { plainWorld with spire := { plainWorld.spire with slots := [slot5] }, clk := { plainWorld.clk with cycle := 10000000 } }
/-- Packets that are late, that find a slot of a later step, and that find a job. -/
def hop (o : Nat) : Packet := { packet [(o, 0), (2, 0)] with hops := [(2, 0)], nhop := 1 }
def expiredKey : State := { withPacket (packet [(1, 0), (2, 0)]) with spire := { (withPacket (packet [(1, 0), (2, 0)])).spire with expired := [State.slotKey 9 4 0 false] } }
def laterSlot : State := { plainWorld with spire := { plainWorld.spire with slots := [{ num := 5, cid := 9, step := 7, chunk := 0, pers := true, born := 0 }] } }
def deliverable (ph : JobPhase) : State :=
  withJobs [{ collJob 0 2 with phase := ph, coll := some { desc := descWords 2, peers := [1, 0], want := true } }] (withPacket (packet [(2, 0), (2, 0)]))
theorem wit_hop_cases : expiredKey.slotFor (hop 1) = none ∧ expiredKey.spire.expired.contains (State.slotKey 9 4 0 false) = true
    ∧ (laterSlot.slotFor { hop 1 with pers := true }).any (fun z => decide (4 < z.step)) = true
    ∧ ((withPacket (packet [(2, 0), (2, 0)])).jobsFor (hop 2)).isEmpty = true
    ∧ ((deliverable .waiting).jobsFor (hop 2)).length = 1 ∧ (deliverable .waiting).deliveryWaits (hop 2) ((deliverable .waiting).jobsFor (hop 2)) = true
    ∧ ((deliverable .running).jobsFor (hop 2)).length = 1 ∧ (deliverable .running).deliveryWaits (hop 2) ((deliverable .running).jobsFor (hop 2)) = false := by decide +kernel
theorem wit_slotExpiry : lateSlot.spire.slots.find? (fun y => y.num == 5) = some slot5 ∧ slot5.born + 1500 * lateSlot.dev.tmodef.toNat ≤ lateSlot.clk.cycle := by decide +kernel

/-- A second leaf maps virtual addresses from 2 MiB on to host memory. -/
def hostMapped (s : State) : State := { s with mem := { cells := [(0x1000, 1), (0x1001, 0x20), (0x2000, 1), (0x2001, 0x30), (0x3000, 1), (0x3001, 0x40), (0x4000, 0x1f), (0x4008, 0x1f), (0x400f, 0x40)] } }
def armCard (dest : W64) : List W64 := [word0 5 0 0, dest, 0, 0x72000]
def armWorld (dest : W64) : State := withJobs [job (armCard dest)] (put 0x72000 (leBytes 8 (9 * 65536) ++ leBytes 8 4 ++ leBytes 8 0x10000) (hostMapped plainWorld))
/-- The TTs of an arm's destination, when the job starts and its descriptor and destination can be accessed. -/
def armTTs (dest : W64) : Option (List Nat) :=
  let s := armWorld dest
  let x := s.readPlain (job (armCard dest)) false 0x72000 32
  let g := x.s.range (job (armCard dest)) .write false dest.toNat 0x10000
  if s.startable 20 5 0 = some (job (armCard dest)) ∧ x.fail = none ∧ g.fail = none then some (g.ps.map fun p => p.tt).eraseDups else none
def cancelCard : List W64 := [word0 5 1 0, 0, 0, 0x72000]
def armed : Job := { job (armCard 0x210000) with num := 15, phase := .running }
def canceller : Job := job cancelCard
/-- How many arms end as a cancel is accepted. -/
def cancels : Option Nat :=
  let s := atGo (cancelCard.map some) [armed]
  match s.comb? 1, s.group? 1 0, s.devRead 0 0x72000 32 with
  | some c, some g, .ok (bs, s2) =>
    if s.goReady goEntry && !s.acceptBusy goEntry g && !(cardCheck s2 c cancelCard bs).rsv && !(cardCheck s2 c cancelCard bs).align then some (armsOf s2 0 0x72000).length else none
  | _, _, _ => none
def pageToDrain : SnapPage := { va := 0x50000, tower := 5 }
def draining : Snap := { job := 20, ctx := 0, desc := 0x72000, cid := 9, step := 4, extent := 0x100000, dest := 0x210000, cut := true, pages := [pageToDrain] }
def drains : State := { withJobs [{ job (armCard 0x210000) with phase := .running }] (hostMapped plainWorld) with snaps := [draining] }
theorem wit_SnapshotEvents : armTTs 0x10000 = some [0] ∧ armTTs 0x210000 = some [2]
    ∧ (withJobs [canceller] plainWorld).startable 20 5 1 = some canceller ∧ cancels = some 1
    ∧ drains.snaps = [draining] ∧ drains.snapLost pageToDrain = false := by decide +kernel
theorem wit_drain_ranges : (drains.spend.range (job (armCard 0x210000)) .write false (0x210000 + snapBase 1 0) 81920).fail = none
    ∧ (drains.spend.range (job (armCard 0x210000)) .write false (0x72000 + 24) 8).fail = none := by decide +kernel

def podWorld (home : BitVec 10) : State :=
  let s := running plainWorld
  { s with dev := { s.dev with poden := true, devid := 3 } }.modCtx 0 fun x => { x with asid := 5, pods := setAt x.pods 2 { pexp := 4, pv := true, phome := home }, podBars := if home = 3 then [{ n := 2, bar := { expect := 4, arrived := 1 }, phased := [1] }] else [] }
theorem wit_PodAndHostEvents : ∀ home ∈ ([3, 6] : List (BitVec 10)), let s := podWorld home
    s.dev.astate.toNat < 3 ∧ s.dev.poden = true ∧ s.roused.ctxWith 5 = some 0 ∧ (getAt (s.ctx 0).pods 2).pv = true ∧ (s.podHere 0 2 ↔ home = 3)
      ∧ s.dev.fwstat = 2 ∧ s.dev.link0 = true ∧ s.mem.wf = true ∧ s.snaps = []
      ∧ (match s.roused.keysVa 0 0 .write s.freeHive 2 0x50010 8 with | .ok ([(k, n)], _) => decide (keyRegion k = 0 ∧ n = 8) | _ => false) = true
      ∧ (∀ i < 8, s.Plain (0x50010 + i)) ∧ s.roused.ctxWith 6 = none := by decide +kernel

def enabled : State := after (.contextEnable 3 0x8000000000000005) (running State.reset)
def invalidating : State := after (.invalidatePage 3 0x10000) enabled
theorem wit_RegisterAndContextEvents :
    (running State.reset).ctxs.length = 64 ∧ (running State.reset).dev.astate.toNat < 3 ∧ (running State.reset).dev.fwstat = 2
    ∧ ((running State.reset).ctx 3).en = false ∧ (enabled.ctx 3).asid = 5 ∧ (enabled.ctx 4).en = false
    ∧ (enabled.ctx 3).en = true ∧ enabled.launches = [] ∧ (enabled.ctx 3).inval = none ∧ (invalidating.ctx 3).inval = some (some 1)
    ∧ ((after (.invalidateAll 3) enabled).ctx 3).inval = some none
    ∧ (State.reset.dev.retired[2]?) = some 0 ∧ State.reset.dev.stale = [] ∧ (∀ k < 64, (State.reset.ctx k).en = false) := by decide +kernel
/-- Context 0 alone is enabled, and its ring for host fault records lies in a mapped page. -/
def recorded : State := (running plainWorld).modCtx 0 fun x => { x with en := true, frbase := 0x50000, frlog := 4 }
theorem wit_retire_record : (∀ i < 64, (recorded.ctx i).en = true ↔ i = 0) ∧ (recorded.ctx 0).frlog = 4 ∧ recorded.devWaits 0 = false
    ∧ (recorded.ctx 0).frprod - (recorded.ctx 0).frcons = 0 ∧ recorded.recordVa 0 = 0x50000
    ∧ recorded.xlate 0 0 (BitVec.ofNat 64 0x50000) .write = .ok 0 0x50000 ∧ (∀ i < 64, recorded.Plain (0x50000 + i))
    ∧ recorded.dev.lost = [] ∧ recorded.dev.stale = [] ∧ recorded.snaps = [] ∧ recorded.mem.wf = true := by decide +kernel
def staleLine : State := { State.reset with dev := { State.reset.dev with stale := [(2, 9)] } }
theorem wit_lineRebuild : (2, 9) ∈ staleLine.dev.stale ∧ staleLine.heldIn 2 ≤ staleLine.capacity 2 := by decide +kernel

def tolerates (n : W32) (poden : Bool) : State := { State.reset with dev := { State.reset.dev with ltol := n, poden := poden } }
theorem wit_PowerAndFirmwareEvents_idle : (tolerates 2 false).idle = true ∧ (tolerates 80 false).idle = true ∧ (tolerates 6000 true).idle = true
    ∧ (tolerates 6000 false).idle = true ∧ (tolerates 6000 false).dev.astate = 0 ∧ (tolerates 6000 false).mem.wf = true := by decide +kernel
def verifying : State := after (.firmwareVerifyRun 1) State.reset
def reporting : State := after (.writeReport 1) State.reset
theorem wit_PowerAndFirmwareEvents : verifying.dev.fwRun = some (0, 0) ∧ State.reset.dev.fwstat ≠ 1 ∧ State.reset.dev.fwstat ≠ 2 ∧ reporting.dev.astat = 1 := by decide +kernel
/-- An image that begins as R349 says, with no accepted key. -/
def image : State := { (put (kHost 0x1000) [0x46, 0x57, 0x4E, 0x33] State.reset) with dev := { State.reset.dev with fwRun := some (0x1000, 130) } }
theorem wit_firmwareImage : image.dev.fwRun = some (0x1000, 130) ∧ (image.bytesAt (kHost 0x1000) 130).take 4 = [0x46, 0x57, 0x4E, 0x33] := by decide +kernel
end Sys2Proof.Tests
end

section
/-! SUPPORT. Updates of contexts, what comes from outside, and the places of BAR0 (R322). -/

namespace Sys2Proof.Machine

/-! ### Contexts -/

/-- The model's replacement of a list's element is the library's. -/
theorem setAt_eq_set {α : Type} (l : List α) (i : Nat) (a : α) : setAt l i a = l.set i a := by
  induction l generalizing i with
  | nil => rfl
  | cons x xs ih => cases i <;> simp [setAt, ih]

theorem getAt_setAt_same {α : Type} [Inhabited α] (l : List α) (i : Nat) (a : α) :
    getAt (setAt l i a) i = if i < l.length then a else default := by
  rw [getAt, setAt_eq_set, List.getElem?_set_self']
  by_cases h : i < l.length <;> simp [h]

@[simp] theorem State.modCtx_ctxs_length (s : State) (c : Nat) (f : Ctx → Ctx) : (s.modCtx c f).ctxs.length = s.ctxs.length := by
  simp [State.modCtx, setAt_eq_set]

theorem State.ctx_modCtx_same {s : State} {c : Nat} (f : Ctx → Ctx) (h : c < s.ctxs.length) : (s.modCtx c f).ctx c = f (s.ctx c) := by
  simp [State.modCtx, State.ctx, setAt_eq_set, h]

theorem State.ctx_modCtx_other (s : State) {c k : Nat} (f : Ctx → Ctx) (h : k ≠ c) : (s.modCtx c f).ctx k = s.ctx k := by
  simp [State.modCtx, State.ctx, setAt_eq_set, Ne.symm h]

/-- A part of a context's record that an update of its own context keeps is as before in every context. -/
theorem State.ctx_modCtx_proj {α : Type} (s : State) (c k : Nat) (f : Ctx → Ctx) (p : Ctx → α) (h : p (f (s.ctx c)) = p (s.ctx c)) :
    p ((s.modCtx c f).ctx k) = p (s.ctx k) := by
  by_cases hk : k = c
  · subst hk
    by_cases hl : k < s.ctxs.length
    · rw [State.ctx_modCtx_same f hl, h]
    · simp [State.modCtx, State.ctx, setAt_eq_set, hl]
  · rw [State.ctx_modCtx_other s f hk]

/-! ### What comes from outside -/

@[simp] theorem State.roused_ctx (s : State) (c : Nat) : s.roused.ctx c = s.ctx c := rfl
@[simp] theorem State.roused_ctxs (s : State) : s.roused.ctxs = s.ctxs := rfl
@[simp] theorem State.roused_mem (s : State) : s.roused.mem = s.mem := rfl

theorem State.outside_on {s : State} (f : State → State) (h : s.dev.astate.toNat < 3) : s.outside f = f s.roused :=
  if_neg (Nat.not_le.mpr h)

/-- A write to the page of a context that the device exposes is taken. -/
theorem State.pageWrite_exposed {s : State} {c : Nat} (f : State → State) (h : s.Exposes c) : s.pageWrite c f = f s.roused := by
  obtain ⟨hc, hfw, hon⟩ := h
  rw [State.pageWrite, State.outside_on _ hon, if_neg (by simp [State.roused, hfw, hc])]

/-! ### BAR0 (R322) -/

theorem RegSpan.page_device {off : Nat} (h : off < 0x1000) (ha : off % 8 = 0) : (⟨off, 8⟩ : RegSpan).page = some (none, off) := by
  simp [RegSpan.page, RegSpan.ok, bar0, h, ha]

theorem RegSpan.page_context {c off : Nat} (hc : c < 64) (h : off < 0x1000) (ha : off % 8 = 0) :
    (⟨0x10000 + 0x1000 * c + off, 8⟩ : RegSpan).page = some (some c, off) := by
  have h1 : (0x10000 + 0x1000 * c + off) % 8 = 0 := by omega
  have h2 : (0x10000 + 0x1000 * c + off - 0x10000) / 0x1000 = c := by omega
  have h3 : (0x10000 + 0x1000 * c + off) % 0x1000 = off := by omega
  have h4 : ¬ 0x10000 + 0x1000 * c + off < 0x1000 := by omega
  have h5 : 0x10000 ≤ 0x10000 + 0x1000 * c + off ∧ 0x10000 + 0x1000 * c + off < 0x50000 := by omega
  rw [RegSpan.page, if_pos (by simp [RegSpan.ok, h1]), bar0, if_neg h4, if_pos (by simpa using h5), h2, h3]

theorem RegSpan.page_misaligned {off size : Nat} (h : size ≠ 8 ∨ off % 8 ≠ 0) : (⟨off, size⟩ : RegSpan).page = none := by
  rw [RegSpan.page, if_neg]
  rcases h with h | h <;> simp [RegSpan.ok, h]

theorem RegSpan.page_outside {off size : Nat} (h : (0x1000 ≤ off ∧ off < 0x10000) ∨ 0x50000 ≤ off) : (⟨off, size⟩ : RegSpan).page = none := by
  have h1 : ¬ off < 0x1000 := by omega
  have h2 : ¬ (0x10000 ≤ off ∧ off < 0x50000) := by omega
  have h3 : bar0 off = none := by rw [bar0, if_neg h1, if_neg (by simpa using h2)]
  simp [RegSpan.page, h3]

/-! ### Register writes -/

/-- A write to the device page changes the device's registers as `Dev.write` says. -/
theorem registerWrite_device {s : State} {off : Nat} (v : W64) (hon : s.dev.astate.toNat < 3) (h : off < 0x1000) (ha : off % 8 = 0) :
    exec (.registerWrite off 8 v) s = .next { s.roused with dev := s.roused.dev.write off v } := by
  change Host.Outcome.next (s.writeReg ⟨off, 8⟩ v) = _
  simp only [State.writeReg, RegSpan.page_device h ha, State.outside_on _ hon]

/-- A write that names no register page, or is no aligned 8-byte access, is dropped. -/
theorem registerWrite_dropped {s : State} {off size : Nat} (v : W64) (hon : s.dev.astate.toNat < 3) (h : (⟨off, size⟩ : RegSpan).page = none) :
    exec (.registerWrite off size v) s = .next s.roused := by
  change Host.Outcome.next (s.writeReg ⟨off, size⟩ v) = _
  simp only [State.writeReg, h, State.outside_on _ hon]

/-- A write to a context's page changes the context's registers as `Ctx.write` says; LQLOG has a rule of its own. -/
theorem registerWrite_context {s : State} {c off : Nat} {v : W64} {x : Ctx} (he : s.Exposes c) (h : off < 0x1000) (ha : off % 8 = 0)
    (hne : off ≠ 0x108) (hx : (s.ctx c).write (s.ctx c).en off v = x) :
    exec (.registerWrite (0x10000 + 0x1000 * c + off) 8 v) s = .next (s.roused.modCtx c fun _ => x) := by
  change Host.Outcome.next (s.writeReg ⟨0x10000 + 0x1000 * c + off, 8⟩ v) = _
  simp only [State.writeReg, RegSpan.page_context he.1 h ha, State.pageWrite_exposed _ he, if_neg hne]
  rw [← hx]
  rfl

/-- A launch queue that runs and whose log is out of range or whose ring has room stays as it is. -/
theorem State.lqTest_calm {s : State} {c : Nat} (hrun : (s.ctx c).lqstop = .run)
    (h : State.lqlogOk (s.ctx c) = false ∨ State.lqOver (s.ctx c) = false) : s.lqTest c = s := by
  simp only [State.lqTest, hrun]
  rcases h with h | h <;> simp [h]

/-- A log out of range, or one that leaves room for what LQPROD is ahead, shows no overflow (R28). -/
theorem State.lqlog_calm (x : Ctx) (n : Nat) (hn : x.lqlog.toNat = n % 32)
    (h : n % 32 < 4 ∨ 16 < n % 32 ∨ (x.lqprod - x.lqcons).toNat ≤ 2 ^ (n % 32)) :
    State.lqlogOk x = false ∨ State.lqOver x = false := by
  rw [State.lqlogOk, State.lqOver, hn, Bool.and_eq_false_iff, decide_eq_false_iff_not, decide_eq_false_iff_not, decide_eq_false_iff_not]
  omega

/-- LQLOG while the launch queue runs and the new value shows no overflow (R28). -/
theorem registerWrite_lqlog {s : State} {c : Nat} (v : W64) (he : s.Exposes c) (hl : c < s.ctxs.length) (hrun : (s.ctx c).lqstop = .run)
    (hlog : v.toNat % 32 < 4 ∨ 16 < v.toNat % 32 ∨ ((s.ctx c).lqprod - (s.ctx c).lqcons).toNat ≤ 2 ^ (v.toNat % 32)) :
    exec (.registerWrite (0x10000 + 0x1000 * c + 0x108) 8 v) s
      = .next (s.roused.modCtx c fun _ => { s.ctx c with lqlog := v.setWidth 5 }) := by
  have hpage := RegSpan.page_context (off := 0x108) he.1 (by decide) (by decide)
  have hx := State.ctx_modCtx_same (s := s.roused) (fun x => { x with lqlog := v.setWidth 5, lqstop := .run }) hl
  change Host.Outcome.next (s.writeReg ⟨_, 8⟩ v) = _
  simp only [State.writeReg, hpage, State.pageWrite_exposed _ he, if_true, State.writeLqlog, State.roused_ctx, hrun]
  rw [State.lqTest_calm (by rw [hx]) (by rw [hx]; exact State.lqlog_calm _ _ (BitVec.toNat_setWidth ..) hlog)]
  simp only [State.modCtx, State.roused_ctx, ← hrun]

end Sys2Proof.Machine
end

section
/-! SUPPORT. The registers of BAR0: what a write keeps, what a read gives, and the events that writes are (R6, R322 to R324). -/

namespace Sys2Proof.Machine

/-! ### Fields -/

/-- A field kept in place is a remainder cut down to a multiple. -/
theorem keepBits_eq_ofNat (v : W64) {hi lo : Nat} (h : lo ≤ hi) :
    keepBits v hi lo = BitVec.ofNat 64 (v.toNat % 2 ^ (hi + 1) / 2 ^ lo * 2 ^ lo) := by
  rw [keepBits, ← Nat.mod_mul_right_div_self, ← pow_add, show lo + (hi + 1 - lo) = hi + 1 by omega]

/-- A field kept in place is the value under the field's mask. -/
theorem keepBits_eq_and (v : W64) {hi lo m : Nat} (hm : m = (2 ^ (hi + 1 - lo) - 1) * 2 ^ lo) :
    keepBits v hi lo = v &&& BitVec.ofNat 64 m := by
  apply BitVec.eq_of_getLsbD_eq
  intro i hi64
  rw [hm, keepBits, BitVec.getLsbD_and, BitVec.getLsbD_ofNat, BitVec.getLsbD_ofNat, Nat.testBit_mul_two_pow, Nat.testBit_mul_two_pow,
    Nat.testBit_mod_two_pow, Nat.testBit_two_pow_sub_one, Nat.testBit_div_two_pow, BitVec.testBit_toNat]
  by_cases hlo : lo ≤ i
  · rw [Nat.sub_add_cancel hlo]
    simp [hi64, hlo, Bool.and_comm]
  · simp [hlo]

/-- A register field that holds bits of the written value reads as those bits in their place. -/
theorem field_extract (v : W64) (hi lo : Nat) : State.field (v.extractLsb' lo (hi + 1 - lo)).toNat lo = keepBits v hi lo := by
  simp [State.field, keepBits, BitVec.extractLsb'_toNat, Nat.shiftRight_eq_div_pow]

/-- A register field that holds the written value's low bits reads as those bits. -/
theorem field_setWidth (v : W64) (w : Nat) : State.field (v.setWidth (w + 1)).toNat 0 = keepBits v w 0 := by
  simp [State.field, keepBits]

theorem bit_eq_keepBits (v : W64) : (if v.getLsbD 0 then 1 else 0 : W64) = keepBits v 0 0 := by
  rcases Nat.mod_two_eq_zero_or_one v.toNat with h | h <;> simp [keepBits, BitVec.getLsbD, Nat.testBit_zero, h]

theorem keepBits_all (v : W64) : keepBits v 63 0 = v := by
  rw [keepBits_eq_and v (m := 2 ^ 64 - 1) (by decide), show BitVec.ofNat 64 (2 ^ 64 - 1) = BitVec.allOnes 64 by decide, BitVec.and_allOnes]

/-- Bits from `lo` on, as the written value divided. -/
theorem extract_eq_ofNat (v : W64) (lo w : Nat) : v.extractLsb' lo w = BitVec.ofNat w (v.toNat / 2 ^ lo) := by
  rw [BitVec.extractLsb', Nat.shiftRight_eq_div_pow]

/-! ### Reading back what was written (R6) -/

/-- The registers of the device page that hold what was written, each with the mask of its bits. -/
def devPlainRegs : List (Nat × Nat) :=
  [(0x010, 0xFFFFFFFF), (0x100, 0xFFFFFFFFFFFFFFFF), (0x108, 0xFFFFFFFF), (0x140, 0xFFFFFFFFFFFFFFFF)]

/-- The registers of a context's page that hold what was written whether EN is 1 or 0, each with the mask of its bits. -/
def ctxPlainRegs : List (Nat × Nat) :=
  [(0x100, 0x00FFFFFFFFFFFF80), (0x120, 0x00FFFFFFFFFF8000), (0x140, 0x00FFFFFFFFFFFFFF), (0x148, 0xFFFFFFFF),
    (0x150, 0x00FFFFFFFFFF0000), (0x168, 1), (0x1A0, 0xFFFFFFFFFFFFFFFF), (0x1C0, 0x00FFFFFFFFFFFFC0), (0x1C8, 0x1F),
    (0x1D8, 0xFFFFFFFF), (0x200, 0x00FFFFFFFFFF0000), (0x220, 0x00FFFFFFF0000000), (0x228, 0x00FFFFFFC0000000)]

theorem devPlainRegs_aligned : ∀ x ∈ devPlainRegs, x.1 < 0x1000 ∧ x.1 % 8 = 0 := by decide

theorem ctxPlainRegs_aligned : ∀ x ∈ ctxPlainRegs, x.1 < 0x1000 ∧ x.1 % 8 = 0 ∧ x.1 ≠ 0x108 := by decide

theorem readDev_write_plain (d : Dev) (v : W64) : ∀ x ∈ devPlainRegs, State.readDev (d.write x.1 v) x.1 = v &&& BitVec.ofNat 64 x.2 := by
  simp only [devPlainRegs, List.forall_mem_cons]
  refine ⟨?_, ?_, ?_, ?_, by simp⟩
  · exact (field_setWidth v 31).trans (keepBits_eq_and v (by decide))
  · exact (keepBits_all v).symm.trans (keepBits_eq_and v (by decide))
  · exact (field_setWidth v 31).trans (keepBits_eq_and v (by decide))
  · exact (keepBits_all v).symm.trans (keepBits_eq_and v (by decide))

theorem readCtx_write_plain (x : Ctx) (busy : Bool) (v : W64) :
    ∀ r ∈ ctxPlainRegs, State.readCtx (x.write busy r.1 v) r.1 = v &&& BitVec.ofNat 64 r.2 := by
  simp only [ctxPlainRegs, List.forall_mem_cons]
  refine ⟨?_, ?_, ?_, ?_, ?_, ?_, ?_, ?_, ?_, ?_, ?_, ?_, ?_, by simp⟩
  · exact keepBits_eq_and v (hi := 55) (lo := 7) (by decide)
  · exact keepBits_eq_and v (hi := 55) (lo := 15) (by decide)
  · exact keepBits_eq_and v (hi := 55) (lo := 0) (by decide)
  · exact (field_setWidth v 31).trans (keepBits_eq_and v (by decide))
  · exact keepBits_eq_and v (hi := 55) (lo := 16) (by decide)
  · exact (bit_eq_keepBits v).trans (keepBits_eq_and v (by decide))
  · exact (keepBits_all v).symm.trans (keepBits_eq_and v (by decide))
  · exact keepBits_eq_and v (hi := 55) (lo := 6) (by decide)
  · exact (field_setWidth v 4).trans (keepBits_eq_and v (by decide))
  · exact (field_setWidth v 31).trans (keepBits_eq_and v (by decide))
  · exact keepBits_eq_and v (hi := 55) (lo := 16) (by decide)
  · exact (field_extract v 55 28).trans (keepBits_eq_and v (by decide))
  · exact (field_extract v 55 30).trans (keepBits_eq_and v (by decide))

theorem readReg_device {s : State} {off : Nat} (hon : s.dev.astate.toNat < 3) (h : off < 0x1000) (ha : off % 8 = 0) :
    s.readReg ⟨off, 8⟩ = some (State.readDev s.dev off) := by
  simp [State.readReg, RegSpan.page_device h ha, RegSpan.ok, ha, Nat.not_le.mpr hon]

theorem readReg_context {s : State} {c off : Nat} (he : s.Exposes c) (h : off < 0x1000) (ha : off % 8 = 0) :
    s.readReg ⟨0x10000 + 0x1000 * c + off, 8⟩ = some (State.readCtx (s.ctx c) off) := by
  obtain ⟨hc, hfw, hon⟩ := he
  have h1 : (0x10000 + 0x1000 * c + off) % 8 = 0 := by omega
  simp [State.readReg, RegSpan.page_context hc h ha, RegSpan.ok, h1, Nat.not_le.mpr hon, hfw]

theorem readReg_misaligned {s : State} {off size : Nat} (hon : s.dev.astate.toNat < 3) (h : size ≠ 8 ∨ off % 8 ≠ 0) :
    s.readReg ⟨off, size⟩ = some (BitVec.allOnes 64) := by
  have hok : (⟨off, size⟩ : RegSpan).ok = false := by rcases h with h | h <;> simp [RegSpan.ok, h]
  simp only [State.readReg, hok, if_neg (Nat.not_le.mpr hon), Bool.not_false, if_true]

/-- An update of a context leaves the device as exposed as it was. -/
theorem State.Exposes.roused_modCtx {s : State} {c : Nat} (h : s.Exposes c) (f : Ctx → Ctx) : (s.roused.modCtx c f).Exposes c :=
  ⟨h.1, h.2.1, Nat.succ_pos 2⟩

/-- A register of the device page reads back the bits that it has. -/
theorem registerWrite_device_readBack {s : State} (v : W64) (hon : s.dev.astate.toNat < 3) :
    ∀ x ∈ devPlainRegs, ∃ t, exec (.registerWrite x.1 8 v) s = .next t ∧ t.readReg ⟨x.1, 8⟩ = some (v &&& BitVec.ofNat 64 x.2) := by
  intro x hx
  obtain ⟨h, ha⟩ := devPlainRegs_aligned x hx
  refine ⟨_, registerWrite_device v hon h ha, ?_⟩
  have hoff : (s.roused.dev.write x.1 v).astate.toNat < 3 := by
    unfold Dev.write
    split <;> exact Nat.succ_pos 2
  rw [readReg_device hoff h ha, readDev_write_plain _ v x hx]

/-- A register of a context's page reads back the bits that it has. -/
theorem registerWrite_context_readBack {s : State} {c : Nat} (v : W64) (he : s.Exposes c) (hl : c < s.ctxs.length) :
    ∀ x ∈ ctxPlainRegs, ∃ t, exec (.registerWrite (0x10000 + 0x1000 * c + x.1) 8 v) s = .next t
      ∧ t.readReg ⟨0x10000 + 0x1000 * c + x.1, 8⟩ = some (v &&& BitVec.ofNat 64 x.2) := by
  intro x hx
  obtain ⟨h, ha, hne⟩ := ctxPlainRegs_aligned x hx
  refine ⟨_, registerWrite_context he h ha hne rfl, ?_⟩
  rw [readReg_context (he.roused_modCtx _) h ha, State.ctx_modCtx_same (s := s.roused) _ hl, readCtx_write_plain _ _ v x hx]

/-! ### Values that registers take -/

/-- A field that takes at most `m` of what is written. -/
theorem capped_eq_min (v : W64) (w m : Nat) :
    (if m < v.toNat % 2 ^ w then BitVec.ofNat w m else v.setWidth w) = BitVec.ofNat w (min m (v.toNat % 2 ^ w)) := by
  split
  · rw [Nat.min_eq_left (by omega)]
  · rw [Nat.min_eq_right (by omega)]
    apply BitVec.eq_of_toNat_eq
    simp

/-- PWRLIM takes at most 2900 (R323). -/
theorem Dev.write_pwrlim (d : Dev) (v : W64) : d.write 0x020 v = { d with pwrlim := BitVec.ofNat 16 (min 2900 (v.toNat % 65536)) } :=
  congrArg (fun w => { d with pwrlim := w }) (capped_eq_min v 16 2900)

/-- LCTHR takes at most 64 (R323). -/
theorem Dev.write_lcthr (d : Dev) (v : W64) : d.write 0x030 v = { d with lcthr := BitVec.ofNat 7 (min 64 (v.toNat % 128)) } :=
  congrArg (fun w => { d with lcthr := w }) (capped_eq_min v 7 64)

theorem Dev.write_anonce (d : Dev) (v : W64) {i : Nat} (h : i < 4) : d.write (0x120 + 8 * i) v = { d with anonce := setAt d.anonce i v } := by
  interval_cases i <;> rfl

/-- Offsets of the device page without a writable register of the plain kind ignore a write (R6). -/
theorem Dev.write_other (d : Dev) (v : W64) {off : Nat}
    (h : off ∉ [0x010, 0x020, 0x028, 0x030, 0x100, 0x108, 0x120, 0x128, 0x130, 0x138, 0x140]) : d.write off v = d := by
  simp only [List.mem_cons, List.not_mem_nil, or_false, not_or] at h
  unfold Dev.write
  split <;> simp_all

theorem registerWrite_device_other {s : State} {off : Nat} (v : W64) (hon : s.dev.astate.toNat < 3) (hoff : off < 0x1000)
    (h : off ∉ [0x010, 0x020, 0x028, 0x030, 0x100, 0x108, 0x120, 0x128, 0x130, 0x138, 0x140]) :
    exec (.registerWrite off 8 v) s = .next { s.roused with dev := s.roused.dev } := by
  by_cases ha : off % 8 = 0
  · rw [registerWrite_device v hon hoff ha, Dev.write_other _ v h]
  · exact registerWrite_dropped v hon (RegSpan.page_misaligned (.inr ha))

/-- The registers that a context fixes keep their values while EN is 1 (R324). -/
theorem Ctx.write_fixed (x : Ctx) (v : W64) : ∀ off ∈ [0x008, 0x010, 0x018, 0x038, 0x040], x.write true off v = x := by
  simp only [List.forall_mem_cons]
  exact ⟨rfl, rfl, rfl, rfl, rfl, by simp⟩

/-- A write of a pod-barrier entry (R331). -/
theorem Ctx.write_pod (x : Ctx) (busy : Bool) (v : W64) {i : Nat} (h : i < 16) :
    x.write busy (0x240 + 8 * i) v
      = x.writePod i { pexp := BitVec.ofNat 32 (v.toNat / 2 ^ 32), pv := v.getLsbD 31, phome := v.setWidth 10 } := by
  rw [← extract_eq_ofNat]
  interval_cases i <;> rfl

/-! ### The clauses about registers -/

/-- What a read of DEVID gives. -/
theorem readDev_devid (d : Dev) : State.readDev d 0x008 = BitVec.ofNat 64 ((if d.poden then 65536 else 0) + d.devid.toNat) := by
  have h := d.devid.isLt
  have hor := Nat.two_pow_add_eq_or_of_lt (i := 16) (b := d.devid.toNat) (by omega) (if d.poden then 1 else 0)
  change State.field _ _ ||| State.field _ _ = _
  rw [State.field, State.field, ← BitVec.ofNat_or, Nat.pow_zero, Nat.mul_one, Nat.mul_comm, ← hor]
  cases d.poden <;> rfl

/-- Writes to the registers of the device page that have no event of their own (R323, R349, R351). -/
theorem deviceRegisters {s : State} (v : W64) (hon : s.dev.astate.toNat < 3) :
    let n := v.toNat
    let w := s.roused
    let D := w.dev
    let host := fun (off : Nat) (d : Dev) => exec (.registerWrite off 8 v) s = .next { w with dev := d }
    host 0x010 { D with ltol := v.setWidth 32 } ∧ host 0x020 { D with pwrlim := BitVec.ofNat 16 (min 2900 (n % 65536)) }
    ∧ host 0x028 { D with tmodef := if n % 2 ^ 32 = 0 then 1 else v.setWidth 32 }
    ∧ host 0x030 { D with lcthr := BitVec.ofNat 7 (min 64 (n % 128)) }
    ∧ host 0x100 { D with fwaddr := v } ∧ host 0x108 { D with fwlen := v.setWidth 32 }
    ∧ (∀ i < 4, host (0x120 + 8 * i) { D with anonce := setAt D.anonce i v })
    ∧ host 0x140 { D with arpt := v } := by
  intro n w D host
  have hw : ∀ off, off < 0x1000 → off % 8 = 0 → ∀ d, D.write off v = d → host off d := by
    rintro off h ha _ rfl
    exact registerWrite_device v hon h ha
  refine ⟨?_, ?_, ?_, ?_, ?_, ?_, fun i hi => ?_, ?_⟩
  · exact hw 0x010 (by decide) (by decide) _ rfl
  · exact hw 0x020 (by decide) (by decide) _ (Dev.write_pwrlim D v)
  · exact hw 0x028 (by decide) (by decide) _ rfl
  · exact hw 0x030 (by decide) (by decide) _ (Dev.write_lcthr D v)
  · exact hw 0x100 (by decide) (by decide) _ rfl
  · exact hw 0x108 (by decide) (by decide) _ rfl
  · exact hw (0x120 + 8 * i) (by omega) (by omega) _ (Dev.write_anonce D v hi)
  · exact hw 0x140 (by decide) (by decide) _ rfl

/-- DEVID (R323): with PODEN = 1 the stations send what they held. -/
theorem devidWrite_next {s : State} (v : W64) (hon : s.dev.astate.toNat < 3) :
    exec (.devidWrite v) s = .next { s.roused with
      dev := { s.roused.dev with poden := v.getLsbD 16, devid := if s.dev.poden then s.dev.devid else v.setWidth 10 }
      spire := if v.getLsbD 16 then { s.spire with
          podOut := s.spire.podHeld.reverse ++ s.spire.podOut, podHeld := []
          sent := s.spire.packHeld.reverse ++ s.spire.sent, packHeld := []
          verdicts := s.spire.verdHeld.reverse ++ s.spire.verdicts, verdHeld := [] } else s.spire } := by
  change Host.Outcome.next (s.writeDevid v) = _
  rw [State.writeDevid, State.outside_on _ hon]
  rfl

theorem rwsplitWrite_next {s : State} (v : W64) (hon : s.dev.astate.toNat < 3) :
    exec (.rwsplitWrite v) s = .next { s.roused with dev := { s.roused.dev with rwsplit := v.setWidth 16 } } := by
  change Host.Outcome.next (s.outside _) = _
  rw [State.outside_on _ hon]

/-- The registers that a context fixes take what is written while EN is 0 (R324). -/
theorem fixedRegisters {s : State} {c : Nat} (v : W64) (he : s.Exposes c) (hen : (s.ctx c).en = false) :
    let n := v.toNat
    let X := s.ctx c
    let reg := fun (off : Nat) (x : Ctx) =>
      exec (.registerWrite (0x10000 + 0x1000 * c + off) 8 v) s = .next (s.roused.modCtx c fun _ => x)
    reg 0x008 { X with ptroot := BitVec.ofNat 64 (n % 2 ^ 39 / 4096 * 4096) }
      ∧ reg 0x010 { X with poolmax := v.setWidth 32 } ∧ reg 0x018 { X with resmax := v.setWidth 32 }
      ∧ reg 0x038 { X with swapbase := BitVec.ofNat 64 (n % 2 ^ 56 / 65536 * 65536) } ∧ reg 0x040 { X with swaplen := v.setWidth 32 } := by
  intro n X reg
  have hw : ∀ off, off < 0x1000 → off % 8 = 0 → off ≠ 0x108 → ∀ x, X.write false off v = x → reg off x := by
    rintro off h ha hne _ rfl
    exact registerWrite_context he h ha hne (by rw [hen])
  refine ⟨?_, ?_, ?_, ?_, ?_⟩
  · exact hw 0x008 (by decide) (by decide) (by decide) _ (congrArg (fun w => { X with ptroot := w }) (keepBits_eq_ofNat v (hi := 38) (lo := 12) (by decide)))
  · exact hw 0x010 (by decide) (by decide) (by decide) _ rfl
  · exact hw 0x018 (by decide) (by decide) (by decide) _ rfl
  · exact hw 0x038 (by decide) (by decide) (by decide) _ (congrArg (fun w => { X with swapbase := w }) (keepBits_eq_ofNat v (hi := 55) (lo := 16) (by decide)))
  · exact hw 0x040 (by decide) (by decide) (by decide) _ rfl

/-- The other registers of a context's page take what is written whether EN is 1 or 0 (R27, R134, R168, R171, R208, R353). -/
theorem plainRegisters {s : State} {c : Nat} (v : W64) (he : s.Exposes c) :
    let n := v.toNat
    let X := s.ctx c
    let reg := fun (off : Nat) (x : Ctx) =>
      exec (.registerWrite (0x10000 + 0x1000 * c + off) 8 v) s = .next (s.roused.modCtx c fun _ => x)
    (reg 0x100 { X with lqbase := BitVec.ofNat 64 (n % 2 ^ 56 / 128 * 128) }
      ∧ reg 0x120 { X with ccbase := BitVec.ofNat 64 (n % 2 ^ 56 / 2 ^ 15 * 2 ^ 15) }
      ∧ reg 0x140 { X with objaddr := BitVec.ofNat 64 (n % 2 ^ 56) } ∧ reg 0x148 { X with objlen := v.setWidth 32 }
      ∧ reg 0x150 { X with imgbase := BitVec.ofNat 64 (n % 2 ^ 56 / 65536 * 65536) } ∧ reg 0x168 { X with sigreq := v.getLsbD 0 })
    ∧ (reg 0x1A0 { X with ctxtv := v } ∧ reg 0x1C0 { X with frbase := BitVec.ofNat 64 (n % 2 ^ 56 / 64 * 64) }
      ∧ reg 0x1C8 { X with frlog := v.setWidth 5 } ∧ reg 0x1D8 { X with frcons := v.setWidth 32 }
      ∧ reg 0x200 { X with savebase := BitVec.ofNat 64 (n % 2 ^ 56 / 65536 * 65536) }
      ∧ reg 0x220 { X with spap := BitVec.ofNat 28 (n / 2 ^ 28) } ∧ reg 0x228 { X with stkap := BitVec.ofNat 26 (n / 2 ^ 30) }) := by
  intro n X reg
  have hw : ∀ off, off < 0x1000 → off % 8 = 0 → off ≠ 0x108 → ∀ x, X.write X.en off v = x → reg off x :=
    fun off h ha hne x hx => registerWrite_context he h ha hne hx
  have kept : ∀ lo ≤ 55, keepBits v 55 lo = BitVec.ofNat 64 (n % 2 ^ 56 / 2 ^ lo * 2 ^ lo) := fun lo h => keepBits_eq_ofNat v h
  have whole : keepBits v 55 0 = BitVec.ofNat 64 (n % 2 ^ 56) := by rw [kept 0 (by decide), pow_zero, Nat.div_one, Nat.mul_one]
  refine ⟨⟨?_, ?_, ?_, ?_, ?_, ?_⟩, ?_, ?_, ?_, ?_, ?_, ?_, ?_⟩
  · exact hw 0x100 (by decide) (by decide) (by decide) _ (congrArg (fun w => { X with lqbase := w }) (kept 7 (by decide)))
  · exact hw 0x120 (by decide) (by decide) (by decide) _ (congrArg (fun w => { X with ccbase := w }) (kept 15 (by decide)))
  · exact hw 0x140 (by decide) (by decide) (by decide) _ (congrArg (fun w => { X with objaddr := w }) whole)
  · exact hw 0x148 (by decide) (by decide) (by decide) _ rfl
  · exact hw 0x150 (by decide) (by decide) (by decide) _ (congrArg (fun w => { X with imgbase := w }) (kept 16 (by decide)))
  · exact hw 0x168 (by decide) (by decide) (by decide) _ rfl
  · exact hw 0x1A0 (by decide) (by decide) (by decide) _ rfl
  · exact hw 0x1C0 (by decide) (by decide) (by decide) _ (congrArg (fun w => { X with frbase := w }) (kept 6 (by decide)))
  · exact hw 0x1C8 (by decide) (by decide) (by decide) _ rfl
  · exact hw 0x1D8 (by decide) (by decide) (by decide) _ rfl
  · exact hw 0x200 (by decide) (by decide) (by decide) _ (congrArg (fun w => { X with savebase := w }) (kept 16 (by decide)))
  · exact hw 0x220 (by decide) (by decide) (by decide) _ (congrArg (fun w => { X with spap := w }) (extract_eq_ofNat v 28 28))
  · exact hw 0x228 (by decide) (by decide) (by decide) _ (congrArg (fun w => { X with stkap := w }) (extract_eq_ofNat v 30 26))

/-- The invalidation register, the loader's doorbell and the pre-emption doorbell are write-only and read as zero (R6). -/
theorem writeOnly_read_zero {s : State} {c : Nat} (he : s.Exposes c) :
    ∀ off ∈ [0x028, 0x158, 0x1F0], s.readReg ⟨0x10000 + 0x1000 * c + off, 8⟩ = some 0 := by
  have hoff : ∀ off ∈ [0x028, 0x158, 0x1F0], off < 0x1000 ∧ off % 8 = 0 := by decide
  have hzero : ∀ off ∈ [0x028, 0x158, 0x1F0], State.readCtx (s.ctx c) off = 0 := by
    simp only [List.forall_mem_cons]
    exact ⟨rfl, rfl, rfl, by simp⟩
  intro off hm
  rw [readReg_context he (hoff off hm).1 (hoff off hm).2, hzero off hm]

/-! ### The events that writes are (R322) -/

/-- The registers of a context's page whose writes are events of their own. -/
theorem regEvent_context {c : Nat} (v : W64) (hc : c < 64) :
    let low := v.toNat % 4
    let at_ := fun (off : Nat) => (⟨0x10000 + 0x1000 * c + off, 8⟩ : RegSpan)
    regEvent (at_ 0x000) v = (if v.getLsbD 63 then .contextEnable c v else .contextDisable c v)
      ∧ regEvent (at_ 0x028) v = (if v.getLsbD 0 then .invalidateAll c else .invalidatePage c v)
      ∧ regEvent (at_ 0x110) v = .lqprodWrite c v
      ∧ (low = 1 → regEvent (at_ 0x158) v = .loaderLoad c v ∧ regEvent (at_ 0x1F0) v = .preemptSave c)
      ∧ (low = 2 → regEvent (at_ 0x158) v = .loaderUnload c v ∧ regEvent (at_ 0x1F0) v = .preemptRestore c)
      ∧ (∀ k < 4, regEvent (at_ (0x170 + 8 * k)) v = .polkeyWrite c k v) := by
  intro low at_
  have hp : ∀ off, off < 0x1000 → off % 8 = 0 → (at_ off).page = some (some c, off) := fun off => RegSpan.page_context hc
  refine ⟨?_, ?_, ?_, fun h => ⟨?_, ?_⟩, fun h => ⟨?_, ?_⟩, fun k hk => ?_⟩
  · simp only [regEvent, hp 0x000 (by decide) (by decide)]
  · simp only [regEvent, hp 0x028 (by decide) (by decide)]
  · simp only [regEvent, hp 0x110 (by decide) (by decide)]
  · simp only [regEvent, hp 0x158 (by decide) (by decide), show v.toNat % 4 = 1 from h, if_true]
  · simp only [regEvent, hp 0x1F0 (by decide) (by decide), show v.toNat % 4 = 1 from h, if_true]
  · simp [regEvent, hp 0x158 (by decide) (by decide), show v.toNat % 4 = 2 from h]
  · simp [regEvent, hp 0x1F0 (by decide) (by decide), show v.toNat % 4 = 2 from h]
  · have hk' := hp (0x170 + 8 * k) (by omega) (by omega)
    interval_cases k <;> simp [regEvent, hk']

end Sys2Proof.Machine
end

section
/-! SUPPORT. Measurements (R350), POLKEY (R134) and invalidations (R324). -/

namespace Sys2Proof.Machine

/-! ### Measurements (R350) -/

theorem leBytes_length (n v : Nat) : (leBytes n v).length = n := by
  induction n generalizing v with
  | zero => rfl
  | succ n ih => rw [leBytes, List.length_cons, ih]

/-- An event record begins with its kind and its ASID. -/
theorem measureEvent_head (kind asid : Nat) (digest : List Byte) : (measureEvent kind asid digest).take 16 = leBytes 8 kind ++ leBytes 8 asid := by
  have h : (leBytes 8 kind ++ leBytes 8 asid).length = 16 := by rw [List.length_append, leBytes_length, leBytes_length]
  rw [measureEvent, List.take_left' h]

theorem State.measureFree_events (s : State) (kind a : Nat) :
    (s.measureFree kind a).dev.events = s.dev.events ++ [measureEvent kind a s.freeDigest] := rfl

theorem State.measureFree_measure (s : State) (kind a : Nat) :
    (s.measureFree kind a).dev.measure = sha512 (s.dev.measure ++ sha512 (measureEvent kind a s.freeDigest)) := rfl

/-- POLKEY (R134, R350): the key is stored and the write measured. -/
theorem polkeyWrite_measured {s : State} {c k : Nat} (v : W64) (he : s.Exposes c) (hl : c < s.ctxs.length) (hk : k < 4) :
    ∃ t e, exec (.polkeyWrite c k v) s = .next t ∧ getAt (t.ctx c).polkey k = (if k < (s.ctx c).polkey.length then v else 0)
      ∧ t.dev.events = s.dev.events ++ [e] ∧ e.take 16 = leBytes 8 4 ++ leBytes 8 (s.ctx c).asid.toNat
      ∧ t.dev.measure = sha512 (s.dev.measure ++ sha512 e) := by
  let u := s.roused.modCtx c fun x => { x with polkey := setAt x.polkey k v }
  have hu : u.ctx c = { s.ctx c with polkey := setAt (s.ctx c).polkey k v } := State.ctx_modCtx_same (s := s.roused) _ hl
  refine ⟨u.measureFree 4 (s.asid c), measureEvent 4 (s.asid c) u.freeDigest, ?_, ?_, State.measureFree_events ..,
    measureEvent_head .., State.measureFree_measure ..⟩
  · change Host.Outcome.next (s.pageWrite c _) = _
    rw [State.pageWrite_exposed _ he, if_neg (Nat.not_le.mpr hk)]
    rfl
  · change getAt (u.ctx c).polkey k = _
    rw [hu]
    exact getAt_setAt_same _ _ _

/-! ### Invalidations (R324) -/

theorem invalidatePage_starts {s : State} {c : Nat} (v : W64) (he : s.Exposes c) (hv : v.getLsbD 0 = false) (hi : (s.ctx c).inval = none) :
    exec (.invalidatePage c v) s
      = .next (s.roused.modCtx c fun _ => { s.ctx c with inval := some (some (v.toNat / 2 ^ 16 % 2 ^ 40)) }) := by
  change Host.Outcome.next (s.pageWrite c _) = _
  rw [State.pageWrite_exposed _ he, hv]
  simp [State.invalidate, State.modCtx, hi, BitVec.extractLsb'_toNat, Nat.shiftRight_eq_div_pow]

/-- An invalidation of all pages covers one that already runs. -/
theorem invalidateAll_starts {s : State} {c : Nat} (he : s.Exposes c) :
    exec (.invalidateAll c) s = .next (s.roused.modCtx c fun _ => { s.ctx c with inval := some none }) := by
  change Host.Outcome.next (s.pageWrite c _) = _
  rw [State.pageWrite_exposed _ he, State.invalidate]
  cases h : (s.ctx c).inval <;> simp [State.modCtx, h]

theorem invalidationComplete_page {s : State} {c p : Nat} (h64 : s.ctxs.length = 64) (h : (s.ctx c).inval = some (some p)) :
    ∃ t, exec (.invalidationComplete c) s = .next t ∧ (c < 64 → (t.ctx c).inval = none) ∧ t.mem = s.mem
      ∧ (∀ y ∈ t.coh.tlb, ¬ (y.asid = (s.ctx c).asid.toNat ∧ y.page = p)) ∧ ∀ y ∈ t.coh.tlb, y ∈ s.coh.tlb := by
  refine ⟨(s.forgetPage (s.asid c) p).modCtx c fun x => { x with inval := none }, ?_, fun hc => ?_, rfl, ?_, ?_⟩
  · change Host.Outcome.next (s.invalDone c) = _
    simp only [State.invalDone, h]
  · rw [State.ctx_modCtx_same _ (by simpa [h64] using hc)]
  · rintro y hy ⟨ha, rfl⟩
    have := (List.mem_filter.mp hy).2
    simp [State.asid, ha] at this
  · exact fun y hy => (List.mem_filter.mp hy).1

theorem invalidationComplete_all {s : State} {c : Nat} (h64 : s.ctxs.length = 64) (h : (s.ctx c).inval = some none) :
    ∃ t, exec (.invalidationComplete c) s = .next t ∧ (c < 64 → (t.ctx c).inval = none) ∧ t.mem = s.mem
      ∧ t.coh.tlb = s.coh.tlb.filter fun y => y.asid != (s.ctx c).asid.toNat := by
  refine ⟨(s.forgetAll (s.asid c)).modCtx c fun x => { x with inval := none }, ?_, fun hc => ?_, rfl, rfl⟩
  · change Host.Outcome.next (s.invalDone c) = _
    simp only [State.invalDone, h]
  · rw [State.ctx_modCtx_same _ (by simpa [h64] using hc)]

end Sys2Proof.Machine
end

section
/-! SUPPORT. What a performed write changes and what it leaves alone (R290). -/

namespace Sys2Proof.Machine

/-! ### What a performed write leaves alone -/

/-- What every step of a fold keeps, the fold keeps. -/
theorem foldl_keeps {σ τ α : Type} {p : σ → α} {f : σ → τ → σ} (h : ∀ s x, p (f s x) = p s) (l : List τ) (s : σ) : p (l.foldl f s) = p s := by
  induction l generalizing s with
  | nil => rfl
  | cons x l ih => rw [List.foldl_cons, ih, h]

theorem State.takePage_ctxs {s s' : State} {t p : Nat} (h : s.takePage t = some (p, s')) : s'.ctxs = s.ctxs := by
  unfold State.takePage State.takeRun at h
  split at h
  · cases h
  · split at h
    · cases h
    · cases h; rfl

theorem State.takeShadows_ctxs {s s' : State} {t base : Nat} {is : List Nat} {l : List (Nat × Nat)}
    (h : s.takeShadows t base is = some (l, s')) : s'.ctxs = s.ctxs := by
  induction is generalizing s l with
  | nil => cases h; rfl
  | cons i is ih =>
    unfold State.takeShadows at h
    split at h
    · cases h
    · next p u hu =>
      split at h
      · cases h
      · next hl =>
        cases h
        rw [ih hl, State.copyPage_ctxs, State.takePage_ctxs hu]

theorem State.shadowFor_ctxs (s : State) (job page : Nat) : (s.shadowFor job page).ctxs = s.ctxs := by
  unfold State.shadowFor
  split
  · rfl
  · split
    · rfl
    · next p _ =>
      dsimp only
      generalize (if p.big = true then 32 else 1 : Nat) = k
      split
      · rfl
      · split
        · rfl
        · next h =>
          have hs := State.takeShadows_ctxs h
          exact hs

theorem State.snapHook_ctxs (s : State) (k : Nat) : (s.snapHook k).ctxs = s.ctxs := by
  unfold State.snapHook
  split
  · exact foldl_keeps (p := State.ctxs) (fun s n => State.shadowFor_ctxs s _ _) _ s
  · split
    · exact foldl_keeps (p := State.ctxs) (fun s n => State.shadowFor_ctxs s _ _) _ s
    · rfl

theorem State.rebuildHook_ctxs (s : State) (ks : List Nat) : (s.rebuildHook ks).ctxs = s.ctxs := by
  unfold State.rebuildHook
  dsimp only
  split <;> rfl

theorem State.hostHook_ctxs (s : State) (data : List (Nat × Byte)) : (s.hostHook data).ctxs = s.ctxs := by
  unfold State.hostHook
  split <;> rfl

theorem State.performRaw_ctxs (s : State) (passed : List (Nat × Nat)) (data : List (Nat × Byte)) : (s.performRaw passed data).ctxs = s.ctxs := by
  have h := foldl_keeps (p := State.ctxs) State.snapHook_ctxs (data.map fun d => d.1) s
  unfold State.performRaw
  dsimp only
  split <;> simp only [State.squashHook_ctxs, State.hostHook_ctxs, State.rebuildHook_ctxs, h]

@[simp] theorem State.perform_ctxs (s : State) (data : List (Nat × Byte)) : (s.perform data).ctxs = s.ctxs := State.performRaw_ctxs s _ _

@[simp] theorem State.performAt_ctxs (s : State) (k : Nat) (bs : List Byte) : (s.performAt k bs).ctxs = s.ctxs := State.perform_ctxs s _

/-! ### A performed write while no snapshot is armed -/

theorem State.snapHook_none {s : State} (h : s.snaps = []) (k : Nat) : s.snapHook k = s := by
  simp [State.snapHook, h]

theorem State.snapHooks_none {s : State} (h : s.snaps = []) (ks : List Nat) : ks.foldl (fun s k => s.snapHook k) s = s := by
  induction ks with
  | nil => rfl
  | cons k ks ih => rw [List.foldl_cons, State.snapHook_none h, ih]

theorem State.rebuildHook_mem (s : State) (ks : List Nat) : (s.rebuildHook ks).mem = s.mem := by
  unfold State.rebuildHook
  dsimp only
  split <;> rfl

theorem State.rebuildHook_snaps (s : State) (ks : List Nat) : (s.rebuildHook ks).snaps = s.snaps := by
  unfold State.rebuildHook
  dsimp only
  split <;> rfl

theorem State.hostHook_mem (s : State) (data : List (Nat × Byte)) : (s.hostHook data).mem = s.mem := by
  unfold State.hostHook
  split <;> rfl

theorem State.performRaw_mem {s : State} (h : s.snaps = []) (passed : List (Nat × Nat)) (data : List (Nat × Byte)) :
    (s.performRaw passed data).mem = s.mem.setAll data := by
  unfold State.performRaw
  dsimp only
  rw [State.snapHooks_none h]
  split <;> simp [State.hostHook_mem, State.rebuildHook_mem, State.mirror, State.rebuildHook_snaps, h, Memory.setAll]

/-- A write that touches no trap record is written whole. -/
theorem State.masked_plain {s : State} {data : List (Nat × Byte)} (h : ∀ d ∈ data, s.Plain d.1) : s.masked data = data := by
  unfold State.masked
  split
  · rfl
  · next l _ =>
    refine (List.filterMap_congr (g := some) fun d hd => ?_).trans List.filterMap_some
    have hp := h d hd
    simp only [State.writable]
    rw [if_neg]
    simp only [Bool.and_eq_true, beq_iff_eq, decide_eq_true_eq, List.contains_iff_mem, not_and]
    exact fun hr => hp hr.1 hr.2

/-- A run of bytes that touches no trap record reads as it was written. -/
theorem State.perform_bytesAt {s : State} {k : Nat} {bs : List Byte} (hs : s.snaps = []) (hw : s.MemOk)
    (hp : ∀ i < bs.length, s.Plain (k + i)) : (s.perform (cellsFrom k bs)).bytesAt k bs.length = bs := by
  have hplain : ∀ d ∈ cellsFrom k bs, s.Plain d.1 := by
    intro d hd
    obtain ⟨h1, h2⟩ := mem_cellsFrom hd
    have := hp (d.1 - k) (by omega)
    rwa [Nat.add_sub_cancel' h1] at this
  refine State.bytesAt_of_get fun i hi => ?_
  rw [State.perform, State.performFor, State.masked_plain hplain, State.performRaw_mem hs]
  exact Memory.get_setAll_cells s.mem k bs hw i hi

/-- A read depends on memory, and on the combs whose windows have undefined bytes. -/
theorem State.bytesAt_congr {s t : State} (hm : t.mem = s.mem) (hc : t.combs = s.combs) (k n : Nat) : t.bytesAt k n = s.bytesAt k n := by
  induction n generalizing k with
  | zero => rfl
  | succ n ih => simp only [State.bytesAt, ih, State.byteAt, State.saltAt, hm, hc]

end Sys2Proof.Machine
end

section
/-! SUPPORT. Contexts come and go (R324, R332). -/

namespace Sys2Proof.Machine

/-! ### What freeing a context's objects leaves alone (R137, R324) -/

/-- What tells whether a context lives: that there is one, its EN, and its pod barriers. -/
def State.life (s : State) (c : Nat) : Nat × Bool × List PodBar := (s.ctxs.length, (s.ctx c).en, (s.ctx c).podBars)

theorem State.life_of_ctxs {s t : State} (h : t.ctxs = s.ctxs) (c : Nat) : t.life c = s.life c := by
  simp only [State.life, State.ctx, h]

/-- An update of a context that keeps EN and the pod barriers keeps every context's life. -/
theorem State.life_modCtx (s : State) (c k : Nat) {f : Ctx → Ctx} (h : ∀ x, (f x).en = x.en ∧ (f x).podBars = x.podBars) :
    (s.modCtx c f).life k = s.life k := by
  simp only [State.life, State.modCtx_ctxs_length, State.ctx_modCtx_proj s c k f Ctx.en (h _).1, State.ctx_modCtx_proj s c k f Ctx.podBars (h _).2]

theorem State.freePagesOf_life (s : State) (ps : List Nat) (k : Nat) : (s.freePagesOf ps).life k = s.life k := rfl

theorem State.unmapPage_ctxs (s : State) (c : Nat) (x : Nat × Nat) : (s.unmapPage c x).ctxs = s.ctxs := by
  unfold State.unmapPage
  dsimp only
  split
  · split
    · exact State.performAt_ctxs s _ _
    · rfl
  · rfl

theorem State.freeTabs_life (s : State) (c n k : Nat) : (s.freeTabs c n).life k = s.life k := by
  induction n generalizing s with
  | zero => rfl
  | succ n ih =>
    unfold State.freeTabs
    dsimp only
    split
    · rfl
    · rw [ih, State.life_modCtx, State.freePagesOf_life]
      · exact State.life_of_ctxs (foldl_keeps (p := State.ctxs) (fun s t => State.performAt_ctxs s _ _) _ s) k
      · exact fun _ => ⟨rfl, rfl⟩

theorem State.freeObj_life (s : State) (c k : Nat) (o : CodeObj) : (s.freeObj c o).life k = s.life k := by
  have hunmap := State.life_of_ctxs (foldl_keeps (p := State.ctxs) (fun s x => State.unmapPage_ctxs s c x) (o.priv ++ o.shared) s) k
  unfold State.freeObj
  dsimp only
  split
  · rw [State.freeTabs_life, State.life_modCtx, State.freePagesOf_life, hunmap]
    exact fun _ => ⟨rfl, rfl⟩
  · rw [State.freePagesOf_life, State.freeTabs_life, State.life_modCtx, State.freePagesOf_life, hunmap]
    exact fun _ => ⟨rfl, rfl⟩

/-- What is left of a context's record once what it held is given back. -/
def Ctx.emptied (x : Ctx) : Ctx :=
  { x with reviving := false, poolused := 0, held := [], swapped := [], homes := [], tabs := [], saved := [], pstate := 0, inval := none
           podViews := [] }

/-- A context without launches that is not enabled gives back its objects, its pages and its waiting writes. -/
theorem State.freeCtx_eq {s : State} {c : Nat} (hn : ∀ l ∈ s.launches, l.ctx ≠ c) (hen : (s.ctx c).en = false) :
    let u := (s.ctx c).objs.foldl (fun s o => s.freeObj c o) s
    let ps := ((s.ctx c).held.map fun h => (List.range (State.pageCount h.big)).map fun i => h.tower + i).flatten ++ (s.ctx c).tabs.map fun t => t.2
    let w : State := { u.freePagesOf ps with devq := (u.freePagesOf ps).devq.filter fun w => w.ctx != c }
    s.freeCtx c = (w.forgetAll (s.ctx c).asid.toNat).modCtx c Ctx.emptied := by
  have hany : (s.launches.any fun l => l.ctx == c) = false := by
    rw [List.any_eq_false]
    intro l hm
    simp [hn l hm]
  rw [State.freeCtx, if_neg (by simp [hany, hen])]
  rfl

theorem State.freeCtx_disabled {s : State} {c : Nat} (hl : c < s.ctxs.length) (hn : ∀ l ∈ s.launches, l.ctx ≠ c) (hen : (s.ctx c).en = false) :
    let t := s.freeCtx c
    (t.ctx c).en = false ∧ (t.ctx c).podBars = (s.ctx c).podBars ∧ (t.ctx c).held = [] ∧ (t.ctx c).poolused = 0
      ∧ ∀ h ∈ (s.ctx c).held, h.tower ∉ t.pages := by
  intro t
  let u := (s.ctx c).objs.foldl (fun s o => s.freeObj c o) s
  have hlife : u.life c = s.life c := foldl_keeps (p := fun s => s.life c) (fun s o => State.freeObj_life s c c o) _ s
  simp only [State.life, Prod.mk.injEq] at hlife
  obtain ⟨hlen, huen, hubars⟩ := hlife
  have ht : t = _ := State.freeCtx_eq hn hen
  have hctx : t.ctx c = (u.ctx c).emptied := by
    rw [ht, State.ctx_modCtx_same]
    · rfl
    · exact hlen ▸ hl
  refine ⟨?_, ?_, ?_, ?_, fun h hh hp => ?_⟩
  · rw [hctx, Ctx.emptied, huen, hen]
  · rw [hctx, Ctx.emptied, hubars]
  · rw [hctx, Ctx.emptied]
  · rw [hctx, Ctx.emptied]
  · rw [ht] at hp
    have hnot := (List.mem_filter.mp hp).2
    have hmem : h.tower ∈ ((s.ctx c).held.map fun h => (List.range (State.pageCount h.big)).map fun i => h.tower + i).flatten := by
      refine List.mem_flatten_of_mem (List.mem_map_of_mem hh) (List.mem_map.mpr ⟨0, ?_, rfl⟩)
      cases h.big <;> decide
    simp [hmem] at hnot

/-! ### Contexts come and go (R324, R332) -/

theorem State.asidTaken_iff (s : State) (c a : Nat) :
    s.asidTaken c a = true ↔ ∃ k < 64, k ≠ c ∧ (s.ctx k).en = true ∧ (s.ctx k).asid.toNat = a := by
  simp [State.asidTaken, State.asid, and_assoc]

theorem State.asidTaken_modCtx (s : State) (c a : Nat) (f : Ctx → Ctx) : (s.modCtx c f).asidTaken c a = s.asidTaken c a := by
  rw [Bool.eq_iff_iff, State.asidTaken_iff, State.asidTaken_iff]
  refine exists_congr fun k => and_congr_right fun _ => and_congr_right fun hk => ?_
  rw [State.ctx_modCtx_other s f hk]

/-- Telling devices that barriers are there again changes nothing but the spire. -/
theorem State.tellBack_keeps {α : Type} {p : State → α} (h : ∀ (s : State) (x : Spire), p { s with spire := x } = p s) (s : State) (a : Nat) :
    p (s.tellBack a) = p s := by
  unfold State.tellBack
  refine (foldl_keeps (p := p) (fun s x => ?_) _ _).trans (h s _)
  unfold State.podSend
  exact h s _

/-- Telling devices that barriers are gone changes nothing but the spire. -/
theorem State.tellGone_keeps {α : Type} {p : State → α} (h : ∀ (s : State) (x : Spire), p { s with spire := x } = p s) (s : State) (c : Nat) :
    p (s.tellGone c) = p s := by
  unfold State.tellGone
  refine foldl_keeps (p := p) (fun s x => ?_) _ _
  unfold State.podGone State.podSend
  exact (h _ _).trans (h s _)

/-- The pod barriers of a new context are one of each number. -/
theorem State.homeBars_find (s : State) (c : Nat) {i : Nat} (h : i < 16) :
    (s.homeBars c).find? (fun y => y.n == i) = some { n := i, bar := { expect := (getAt (s.ctx c).pods i).pexp } } := by
  rw [State.homeBars, List.find?_map, List.find?_range_eq_some (i := i) |>.mpr ⟨by simp, by simpa using h, fun j hj => by simpa using Nat.ne_of_lt hj⟩]
  rfl

/-- The state in which EN := 1 tests the ASID that it has stored; what cached translations a former life left are gone. -/
def State.asidStored (s : State) (c : Nat) (v : W64) : State :=
  (if s.launches.any (fun l => l.ctx == c) then s.forgetAll (s.asid c) else s).modCtx c fun x => { x with asid := v.setWidth 16 }

theorem State.asidStored_ctxs (s : State) (c : Nat) (v : W64) :
    (s.asidStored c v).ctxs = (s.modCtx c fun x => { x with asid := v.setWidth 16 }).ctxs := by
  unfold State.asidStored
  split <;> rfl

theorem State.asidStored_ctx {s : State} {c : Nat} (v : W64) (hl : c < s.ctxs.length) :
    (s.asidStored c v).ctx c = { s.ctx c with asid := v.setWidth 16 } := by
  rw [State.ctx, State.asidStored_ctxs]
  exact State.ctx_modCtx_same _ hl

theorem State.asidStored_mem (s : State) (c : Nat) (v : W64) : (s.asidStored c v).mem = s.mem := by
  unfold State.asidStored
  split <;> rfl

theorem State.asidStored_dev (s : State) (c : Nat) (v : W64) : (s.asidStored c v).dev = s.dev := by
  unfold State.asidStored
  split <;> rfl

theorem State.asidStored_taken (s : State) (c a : Nat) (v : W64) : (s.asidStored c v).asidTaken c a = s.asidTaken c a := by
  rw [State.asidStored, State.asidTaken_modCtx]
  split <;> rfl

theorem State.enable_taken {s : State} {c : Nat} {v : W64} (hen : (s.ctx c).en = false) (ht : s.asidTaken c (v.toNat % 65536) = true) :
    s.enable c v = s.asidStored c v := by
  have h := State.asidStored_taken s c (v.toNat % 65536) v
  rw [ht] at h
  rw [State.enable, if_neg (by simp [hen])]
  exact if_pos h

/-- A context that is created with a free ASID, before the devices that use its barriers are told. -/
def State.created (s : State) (c : Nat) (v : W64) : State :=
  ((s.asidStored c v).modCtx c fun x =>
    { x with en := true, podBars := (s.asidStored c v).homeBars c, reviving := s.launches.any fun l => l.ctx == c })

theorem State.created_ctx {s : State} {c : Nat} (v : W64) (hl : c < s.ctxs.length) :
    (s.created c v).ctx c = { s.ctx c with
      en := true, asid := v.setWidth 16, podBars := s.homeBars c, reviving := s.launches.any fun l => l.ctx == c } := by
  have hstored := State.asidStored_ctx v hl
  have hlen : c < (s.asidStored c v).ctxs.length := by rw [State.asidStored_ctxs, State.modCtx_ctxs_length]; exact hl
  have hbars : (s.asidStored c v).homeBars c = s.homeBars c := by simp only [State.homeBars, hstored]
  rw [State.created, State.ctx_modCtx_same _ hlen, hstored, hbars]

theorem State.created_ctx_other (s : State) {c k : Nat} (v : W64) (h : k ≠ c) : (s.created c v).ctx k = s.ctx k := by
  rw [State.created, State.ctx_modCtx_other _ _ h, State.ctx, State.asidStored_ctxs]
  exact State.ctx_modCtx_other s _ h

theorem State.created_mem (s : State) (c : Nat) (v : W64) : (s.created c v).mem = s.mem := State.asidStored_mem s c v

theorem State.created_dev (s : State) (c : Nat) (v : W64) : (s.created c v).dev = s.dev := State.asidStored_dev s c v

theorem State.enable_free {s : State} {c : Nat} {v : W64} (hen : (s.ctx c).en = false) (ht : s.asidTaken c (v.toNat % 65536) = false) :
    s.enable c v = ((s.created c v).measureFree 2 (v.toNat % 65536)).tellBack (v.toNat % 65536) := by
  have h := State.asidStored_taken s c (v.toNat % 65536) v
  have hf : ¬ (s.asidStored c v).asidTaken c (v.toNat % 65536) = true := by rw [h, ht]; decide
  rw [State.enable, if_neg (by simp [hen])]
  exact if_neg hf


/-- EN := 1 with an ASID that another enabled context has (R324). -/
theorem contextEnable_taken {s : State} {c : Nat} (v : W64) (he : s.Exposes c) (hv : v.getLsbD 63 = true) (hen : (s.ctx c).en = false)
    (ht : ∃ k < 64, k ≠ c ∧ (s.ctx k).en = true ∧ (s.ctx k).asid.toNat = v.toNat % 65536) :
    ∃ t, exec (.contextEnable c v) s = .next t ∧ t.ctxs = (s.modCtx c fun x => { x with asid := v.setWidth 16 }).ctxs ∧ t.mem = s.mem := by
  refine ⟨s.roused.asidStored c v, ?_, State.asidStored_ctxs .., State.asidStored_mem ..⟩
  change Host.Outcome.next (s.pageWrite c _) = _
  rw [State.pageWrite_exposed _ he, if_pos hv, State.enable_taken (s := s.roused) hen ((State.asidTaken_iff s.roused c _).mpr ht)]

/-- EN := 1 with a free ASID (R324, R331, R350). -/
theorem contextEnable_free {s : State} {c : Nat} (v : W64) (he : s.Exposes c) (hl : c < s.ctxs.length) (hv : v.getLsbD 63 = true)
    (hen : (s.ctx c).en = false) (ht : ¬ ∃ k < 64, k ≠ c ∧ (s.ctx k).en = true ∧ (s.ctx k).asid.toNat = v.toNat % 65536) :
    ∃ t e, exec (.contextEnable c v) s = .next t ∧ (t.ctx c).en = true ∧ (t.ctx c).asid = v.setWidth 16
      ∧ (∀ i < 16, (t.ctx c).podBars.find? (fun y => y.n == i) = some { n := i, bar := { expect := (getAt (s.ctx c).pods i).pexp } })
      ∧ ((t.ctx c).reviving = true ↔ ∃ l ∈ s.launches, l.ctx = c)
      ∧ (∀ k, k ≠ c → t.ctx k = s.ctx k) ∧ t.mem = s.mem ∧ t.dev.events = s.dev.events ++ [e]
      ∧ e.take 16 = leBytes 8 2 ++ leBytes 8 (v.toNat % 65536) ∧ t.dev.measure = sha512 (s.dev.measure ++ sha512 e) := by
  let a := v.toNat % 65536
  let n := s.roused.created c v
  let m := n.measureFree 2 a
  have hfree : s.roused.asidTaken c a = false := by
    rw [Bool.eq_false_iff, Ne, State.asidTaken_iff]
    exact ht
  have hctx : ∀ k, (m.tellBack a).ctx k = n.ctx k := fun k => State.tellBack_keeps (p := fun s => s.ctx k) (fun _ _ => rfl) m a
  have hmem : (m.tellBack a).mem = n.mem := State.tellBack_keeps (p := State.mem) (fun _ _ => rfl) m a
  have hdev : (m.tellBack a).dev = m.dev := State.tellBack_keeps (p := State.dev) (fun _ _ => rfl) m a
  have hn := State.created_ctx (s := s.roused) v hl
  refine ⟨m.tellBack a, measureEvent 2 a n.freeDigest, ?_, ?_, ?_, fun i hi => ?_, ?_, fun k hk => ?_, ?_, ?_, measureEvent_head .., ?_⟩
  · change Host.Outcome.next (s.pageWrite c _) = _
    rw [State.pageWrite_exposed _ he, if_pos hv, State.enable_free (s := s.roused) hen hfree]
  · rw [hctx, hn]
  · rw [hctx, hn]
  · rw [hctx, hn]
    exact State.homeBars_find s.roused c hi
  · rw [hctx, hn]
    simp [State.roused]
  · rw [hctx]
    exact State.created_ctx_other s.roused v hk
  · rw [hmem]
    exact State.created_mem s.roused c v
  · rw [hdev, State.measureFree_events, State.created_dev]
    rfl
  · rw [hdev, State.measureFree_measure, State.created_dev]
    rfl

/-- EN := 0 of a context without launches (R324, R326, R332). -/
theorem contextDisable_enabled {s : State} {c : Nat} (v : W64) (he : s.Exposes c) (hl : c < s.ctxs.length) (hv : v.getLsbD 63 = false)
    (hen : (s.ctx c).en = true) (hn : ∀ l ∈ s.launches, l.ctx ≠ c) :
    ∃ t, exec (.contextDisable c v) s = .next t ∧ (t.ctx c).en = false ∧ (t.ctx c).podBars = [] ∧ (t.ctx c).held = []
      ∧ (t.ctx c).poolused = 0 ∧ ∀ h ∈ (s.ctx c).held, h.tower ∉ t.pages := by
  let g := s.roused.tellGone c
  let u := g.modCtx c fun x => { x with en := false, podBars := [] }
  have hgctxs : g.ctxs = s.ctxs := State.tellGone_keeps (p := State.ctxs) (fun _ _ => rfl) s.roused c
  have hglaunches : g.launches = s.launches := State.tellGone_keeps (p := State.launches) (fun _ _ => rfl) s.roused c
  have hu : u.ctx c = { s.ctx c with en := false, podBars := [] } := by
    refine (State.ctx_modCtx_same _ (hgctxs ▸ hl)).trans ?_
    rw [State.ctx, hgctxs]
    rfl
  have hulen : c < u.ctxs.length := by rw [State.modCtx_ctxs_length, hgctxs]; exact hl
  obtain ⟨h1, h2, h3, h4, h5⟩ := State.freeCtx_disabled hulen (fun l hm => hn l (hglaunches ▸ hm)) (by rw [hu])
  refine ⟨u.freeCtx c, ?_, h1, by rw [h2, hu], h3, h4, ?_⟩
  · have hnone : (s.roused.launches.filter fun l => l.ctx == c) = [] := List.filter_eq_nil_iff.mpr fun l hm => by simpa using hn l hm
    change Host.Outcome.next (s.pageWrite c _) = _
    rw [State.pageWrite_exposed _ he, hv, State.disable, hnone]
    simp [hen, u, g]
  · rw [hu] at h5
    exact h5

/-- A context that is not enabled stores the ASID (R324). -/
theorem contextDisable_disabled {s : State} {c : Nat} (v : W64) (he : s.Exposes c) (hv : v.getLsbD 63 = false) (hen : (s.ctx c).en = false) :
    exec (.contextDisable c v) s = .next (s.roused.modCtx c fun _ => { s.ctx c with asid := v.setWidth 16 }) := by
  change Host.Outcome.next (s.pageWrite c _) = _
  rw [State.pageWrite_exposed _ he, hv, State.disable]
  simp [hen, State.modCtx]

end Sys2Proof.Machine
end

section
/-! SUPPORT. Host fault records (R168), and the retirement and rebuild of pseudo-channels (R328, R329). -/

namespace Sys2Proof.Machine

/-! ### Translation while the device page changes -/

/-- The state with another device page. -/
def State.withDev (s : State) (d : Dev) : State := { s with dev := d }

theorem State.withDev_ctx (s : State) (d : Dev) : (s.withDev d).ctx = s.ctx := rfl
theorem State.withDev_combs (s : State) (d : Dev) : (s.withDev d).combs = s.combs := rfl
theorem State.withDev_ctxOf (s : State) (d : Dev) : (s.withDev d).ctxOf = s.ctxOf := rfl

theorem State.spBases_withDev (s : State) (d : Dev) : (s.withDev d).spBases = s.spBases := by
  funext c
  rw [State.spBases, State.spBases, State.withDev_ctx, State.withDev_combs, State.withDev_ctxOf]

theorem State.stkBases_withDev (s : State) (d : Dev) : (s.withDev d).stkBases = s.stkBases := by
  funext c
  rw [State.stkBases, State.stkBases, State.withDev_ctx, State.withDev_combs, State.withDev_ctxOf]

/-- The definition is unfolded as a function: applied to an address, the kernel would search the bases to compare the sides. -/
theorem State.inAperture_withDev (s : State) (d : Dev) : (s.withDev d).inAperture = s.inAperture := by
  delta State.inAperture
  rw [State.spBases_withDev]

theorem State.inStack_withDev (s : State) (d : Dev) : (s.withDev d).inStack = s.inStack := by
  delta State.inStack
  rw [State.stkBases_withDev]

theorem State.uncorrectable_withDev {s : State} {d : Dev} (h : d.lost = s.dev.lost) (k : Nat) :
    (s.withDev d).uncorrectable k = s.uncorrectable k := by
  simp only [State.uncorrectable, State.withDev, h]

theorem State.walk_withDev {s : State} {d : Dev} (h : d.lost = s.dev.lost) (va t : Nat) (ls : List (Nat × Nat)) :
    (s.withDev d).walk va t ls = s.walk va t ls := by
  induction ls generalizing t with
  | nil => rfl
  | cons l ls ih =>
    have hw : ∀ k, (s.withDev d).wordAt k = s.wordAt k := fun k => by
      rw [State.wordAt, State.wordAt, State.natAt, State.natAt, State.bytesAt_congr (s := s) (t := s.withDev d) rfl rfl]
    obtain ⟨sh, w⟩ := l
    simp only [State.walk]
    rw [State.uncorrectable_withDev h, hw, ih]

theorem State.xlateTable_withDev {s : State} {d : Dev} (h : d.lost = s.dev.lost) (c core va : Nat) (need : Access) :
    (s.withDev d).xlateTable c core va need = s.xlateTable c core va need := by
  have hwalk : (s.withDev d).walkCtx c va = s.walkCtx c va := State.walk_withDev h ..
  have htlb : (s.withDev d).tlbAt = s.tlbAt := rfl
  have hasid : (s.withDev d).asid = s.asid := rfl
  unfold State.xlateTable
  rw [hwalk, htlb, hasid]

/-- A device page with the same lost parity groups translates every address as before. -/
theorem State.xlate_withDev {s : State} {d : Dev} (h : d.lost = s.dev.lost) (c core : Nat) (va : W64) (need : Access) :
    (s.withDev d).xlate c core va need = s.xlate c core va need := by
  have htable : (s.withDev d).xlateTable = s.xlateTable := by
    funext c core va need
    exact State.xlateTable_withDev h c core va need
  have hlines : (s.withDev d).uncorrectable = s.uncorrectable := funext (State.uncorrectable_withDev h)
  unfold State.xlate
  rw [htable, hlines, State.inAperture_withDev, State.inStack_withDev, State.withDev_combs, State.withDev_ctxOf]

/-! ### Host fault records (R168, R352) -/

/-- Recording a translation changes cached translations and touches only. -/
theorem State.note_keeps {α : Type} {p : State → α} {c : Nat} (hcoh : ∀ (s : State) (x : Coh), p { s with coh := x } = p s)
    (hheld : ∀ (s : State) (f : List Held → List Held), p (s.modCtx c fun x => { x with held := f x.held }) = p s) (s : State) (va : W64) :
    p (s.note c va) = p s := by
  unfold State.note
  dsimp only
  split
  · rfl
  · split
    · exact hheld s (List.map _)
    · split
      · exact (hcoh _ _).trans (hheld s (List.map _))
      · split
        · exact (hcoh _ _).trans (hheld s (List.map _))
        · exact hheld s (List.map _)

theorem State.recordBytes_length (r : FaultRec) : (State.recordBytes r).length = 64 := by
  simp [State.recordBytes, leBytes_length]

/-- A record lies within one page. -/
theorem State.recordVa_page (s : State) (c : Nat) : s.recordVa c % 65536 + 64 ≤ 65536 := by
  rw [State.recordVa]
  omega

/-- A record of a ring in range with room, in a page that translates, is written at its place and counted. -/
theorem State.hostRecord_written {s : State} {c tt k : Nat} (r : FaultRec) (hl : c < s.ctxs.length)
    (hlog : 4 ≤ (s.ctx c).frlog.toNat ∧ (s.ctx c).frlog.toNat ≤ 12) (hwait : s.devWaits c = false)
    (hroom : ((s.ctx c).frprod - (s.ctx c).frcons).toNat ≠ 2 ^ (s.ctx c).frlog.toNat)
    (hx : s.xlate c 0 (BitVec.ofNat 64 (s.recordVa c)) .write = .ok tt k) (ht : tt ≠ 4 ∧ tt ≠ 5 ∧ tt ≠ 6) (hva : s.recordVa c + 64 ≤ 2 ^ 56)
    (hlost : s.dev.lost = []) (hs : s.snaps = []) (hw : s.MemOk) (hp : ∀ i < 64, s.Plain (k + i)) :
    (s.hostRecord c r).bytesAt k 64 = State.recordBytes r ∧ ((s.hostRecord c r).ctx c).frprod = (s.ctx c).frprod + 1 := by
  let n := s.note c (BitVec.ofNat 64 (s.recordVa c))
  let u := n.perform (cellsFrom k (State.recordBytes r))
  have hedit : s.devEdit c (s.recordVa c) 64 (fun _ => State.recordBytes r) = .ok u := by
    rw [State.devEdit_page hx ht hlost (State.recordVa_page s c) hva, List.take_of_length_le (State.recordBytes_length r).le]
  have hrec : s.hostRecord c r = u.modCtx c fun x => { x with frprod := x.frprod + 1 } := by
    rw [State.hostRecord]
    simp only [hedit, hwait, hroom]
    rw [if_neg (by simp; omega)]
    simp
  have hnsnaps : n.snaps = s.snaps := State.note_keeps (p := State.snaps) (fun _ _ => rfl) (fun _ _ => rfl) s _
  have hncombs : n.combs = s.combs := State.note_keeps (p := State.combs) (fun _ _ => rfl) (fun _ _ => rfl) s _
  have hnprod : (n.ctx c).frprod = (s.ctx c).frprod :=
    State.note_keeps (p := fun s => (s.ctx c).frprod) (fun _ _ => rfl) (fun s f => State.ctx_modCtx_proj s c c _ Ctx.frprod rfl) s _
  have hnlen : n.ctxs.length = s.ctxs.length :=
    State.note_keeps (p := fun s => s.ctxs.length) (fun _ _ => rfl) (fun s f => State.modCtx_ctxs_length s c _) s _
  have hu : u.bytesAt k 64 = State.recordBytes r := by
    have hpn : ∀ i < (State.recordBytes r).length, n.Plain (k + i) := by
      rw [State.recordBytes_length]
      intro i hi
      have := hp i hi
      simp only [State.Plain, State.stackPages, hncombs] at this ⊢
      exact this
    have := State.perform_bytesAt (s := n) (k := k) (hnsnaps.trans hs) (by rw [State.MemOk, State.note_mem]; exact hw) hpn
    rwa [State.recordBytes_length] at this
  rw [hrec]
  refine ⟨(State.bytesAt_congr (State.modCtx_mem u c _) (State.modCtx_combs u c _) k 64).trans hu, ?_⟩
  rw [State.ctx_modCtx_same _ (by rw [State.perform_ctxs, hnlen]; exact hl), State.ctx, State.perform_ctxs]
  exact congrArg (· + 1) hnprod

/-! ### Retirement and rebuild (R327 to R329) -/

/-- The lines of a tower whose pseudo-channel by R327 changes between two sets of retired pseudo-channels. -/
def movedLines (old new : W64) : List Nat := (List.range (60 * 2 ^ 23)).filter fun l => channelOf old (128 * l) != channelOf new (128 * l)

theorem mem_movedLines {old new : W64} {l : Nat} :
    l ∈ movedLines old new ↔ l < 60 * 2 ^ 23 ∧ channelOf old (128 * l) ≠ channelOf new (128 * l) := by
  rw [movedLines, List.mem_filter, List.mem_range, bne_iff_ne]

/-- RETIRED of a tower with one more pseudo-channel. -/
def State.retiredWith (s : State) (t p : Nat) : W64 := getAt s.dev.retired t ||| BitVec.ofNat 64 (2 ^ p)

/-- The lines still to be rebuilt once a pseudo-channel of a tower is retired: its moved lines, and those of before. -/
def State.staleWith (s : State) (t : Nat) (moved : List Nat) : List (Nat × Nat) :=
  s.dev.stale.filter (fun x => x.1 != t || !moved.contains x.2) ++ moved.map fun l => (t, l)

theorem State.mem_staleWith {s : State} {t x l : Nat} {moved : List Nat} :
    (x, l) ∈ s.staleWith t moved ↔ (x = t ∧ l ∈ moved) ∨ (x, l) ∈ s.dev.stale := by
  simp only [State.staleWith, List.mem_append, List.mem_filter, List.mem_map, Prod.mk.injEq, Bool.or_eq_true, bne_iff_ne, Bool.not_eq_true',
    List.contains_eq_mem, decide_eq_false_iff_not]
  constructor
  · rintro (⟨h, -⟩ | ⟨a, ha, rfl, rfl⟩)
    · exact .inr h
    · exact .inl ⟨rfl, ha⟩
  · rintro (⟨rfl, h⟩ | h)
    · exact .inr ⟨l, h, rfl, rfl⟩
    · by_cases hm : x = t ∧ l ∈ moved
      · exact .inr ⟨l, hm.2, hm.1.symm, rfl⟩
      · refine .inl ⟨h, ?_⟩
        tauto

/-- REBUILD counts a tower's lines that are still to be rebuilt. -/
theorem getAt_countStale (stale : List (Nat × Nat)) {t : Nat} (h : t < 8) :
    getAt (State.countStale stale) t = BitVec.ofNat 32 (stale.filter fun y => y.1 == t).length := by
  simp [getAt, State.countStale, h]

/-- The device page once a pseudo-channel is retired. -/
def State.retiredDev (s : State) (t p : Nat) : Dev :=
  let stale := s.staleWith t (movedLines (getAt s.dev.retired t) (s.retiredWith t p))
  { s.dev with retired := setAt s.dev.retired t (s.retiredWith t p), stale := stale, rebuild := State.countStale stale
               lost := s.lostGroups t p ++ s.dev.lost }

/-- The host fault record of a retirement (R328). -/
def retireRecord (t p : Nat) : FaultRec := { code := 0x21, info := BitVec.ofNat 64 (64 * t + p) }

/-- A pseudo-channel that is not yet retired is retired, and every enabled context is told. -/
theorem channelRetire_next {s : State} {t p : Nat} (ht : t < 8) (hp : p < 64) (hold : (getAt s.dev.retired t).getLsbD p = false) :
    exec (.channelRetire t p) s = .next (((List.range 64).filter fun k => (s.ctx k).en).foldl
      (fun u k => u.hostRecord k (retireRecord t p)) (s.withDev (s.retiredDev t p))) := by
  change Host.Outcome.next (s.retire t p) = _
  rw [State.retire, if_neg (by simp [hold]; omega)]
  rfl

/-- The one enabled context is the list of the enabled ones. -/
theorem State.enabled_eq_singleton {s : State} {c : Nat} (hc : c < 64) (h : ∀ i < 64, (s.ctx i).en = true ↔ i = c) :
    ((List.range 64).filter fun k => (s.ctx k).en) = [c] := by
  have hsame : ((List.range 64).filter fun k => (s.ctx k).en) = (List.range 64).filter fun k => k == c := by
    refine List.filter_congr fun k hk => ?_
    rw [Bool.eq_iff_iff, h k (List.mem_range.mp hk), beq_iff_eq]
  rw [hsame, List.filter_beq, List.count_eq_one_of_mem List.nodup_range (List.mem_range.mpr hc)]
  rfl

/-- A line is rebuilt where its tower has room. -/
theorem lineRebuild_done {s : State} {t l : Nat} (hm : (t, l) ∈ s.dev.stale) (hroom : s.heldIn t ≤ s.capacity t) :
    let stale := s.dev.stale.filter fun x => x != (t, l)
    exec (.lineRebuild t l) s = .next (s.withDev { s.dev with stale := stale, rebuild := State.countStale stale }) := by
  have hshrink : ∀ fuel, s.shrink t fuel = s := by
    rintro (_ | fuel)
    · rfl
    · rw [State.shrink, if_pos hroom]
  change Host.Outcome.next (s.rebuilt t l) = _
  simp only [State.rebuilt, hshrink, ite_self]
  rw [if_neg (by simp [hm]; omega)]
  rfl

/-- A retirement sets the RETIRED bit, names the lines to be rebuilt and is recorded for every enabled context (R328). -/
theorem channelRetire_effect {s : State} {t p : Nat} (ht : t < 8) (hp : p < 64) (hold : (getAt s.dev.retired t).getLsbD p = false) :
    let old := getAt s.dev.retired t
    let new := old ||| BitVec.ofNat 64 (2 ^ p)
    let moves := fun (l : Nat) => l < 60 * 2 ^ 23 ∧ channelOf old (128 * l) ≠ channelOf new (128 * l)
    ∃ u, exec (.channelRetire t p) s = .next (((List.range 64).filter fun k => (s.ctx k).en).foldl (fun u k => u.hostRecord k (retireRecord t p)) u)
      ∧ u.dev.retired = setAt s.dev.retired t new ∧ u.mem = s.mem ∧ u.ctxs = s.ctxs
      ∧ (∀ x l, (x, l) ∈ u.dev.stale ↔ (x = t ∧ moves l) ∨ (x, l) ∈ s.dev.stale)
      ∧ ∀ x < 8, getAt u.dev.rebuild x = BitVec.ofNat 32 (u.dev.stale.filter fun y => y.1 == x).length := by
  intro old new moves
  refine ⟨s.withDev (s.retiredDev t p), channelRetire_next ht hp hold, rfl, rfl, rfl, fun x l => ?_, fun x hx => getAt_countStale _ hx⟩
  exact State.mem_staleWith.trans (or_congr_left (and_congr_right fun _ => mem_movedLines))

/-- The record of a retirement is written for the one context that is enabled (R168, R328). -/
theorem channelRetire_record {s : State} {t p c tt k : Nat} (h64 : s.ctxs.length = 64) (ht : t < 8) (hp : p < 64)
    (hold : (getAt s.dev.retired t).getLsbD p = false) (hen : ∀ i < 64, (s.ctx i).en = true ↔ i = c)
    (hlog : 4 ≤ (s.ctx c).frlog.toNat ∧ (s.ctx c).frlog.toNat ≤ 12) (hwait : s.devWaits c = false)
    (hroom : ((s.ctx c).frprod - (s.ctx c).frcons).toNat ≠ 2 ^ (s.ctx c).frlog.toNat)
    (hx : s.xlate c 0 (BitVec.ofNat 64 (s.recordVa c)) .write = .ok tt k) (htt : tt ≠ 4 ∧ tt ≠ 5 ∧ tt ≠ 6)
    (hva : s.recordVa c + 64 ≤ 2 ^ 56) (hlost : s.dev.lost = []) (hstale : s.dev.stale = []) (hs : s.snaps = []) (hw : s.MemOk)
    (hplain : ∀ i < 64, s.Plain (k + i)) (hc : c < 64) :
    ∃ u, exec (.channelRetire t p) s = .next u ∧ u.bytesAt k 64 = State.recordBytes (retireRecord t p)
      ∧ (u.ctx c).frprod = (s.ctx c).frprod + 1 := by
  have hlost' : (s.retiredDev t p).lost = [] := by simp [State.retiredDev, State.lostGroups, hstale, hlost]
  have hx' : (s.withDev (s.retiredDev t p)).xlate c 0 (BitVec.ofNat 64 (s.recordVa c)) .write = .ok tt k := by
    rw [State.xlate_withDev (hlost'.trans hlost.symm), hx]
  have hl : c < (s.withDev (s.retiredDev t p)).ctxs.length := lt_of_lt_of_eq hc h64.symm
  refine ⟨_, channelRetire_next ht hp hold, ?_⟩
  rw [State.enabled_eq_singleton hc hen]
  exact State.hostRecord_written (retireRecord t p) hl hlog hwait hroom hx' htt hva hlost' hs hw hplain

theorem lineRebuild_effect {s : State} {t l : Nat} (hm : (t, l) ∈ s.dev.stale) (ht : t < 8) (hroom : s.heldIn t ≤ s.capacity t) :
    ∃ u, exec (.lineRebuild t l) s = .next u ∧ u.mem = s.mem ∧ (t, l) ∉ u.dev.stale
      ∧ (∀ y, y ≠ (t, l) → (y ∈ u.dev.stale ↔ y ∈ s.dev.stale))
      ∧ getAt u.dev.rebuild t = BitVec.ofNat 32 (u.dev.stale.filter fun y => y.1 == t).length := by
  have hmem : ∀ y, y ∈ s.dev.stale.filter (fun x => x != (t, l)) ↔ y ∈ s.dev.stale ∧ y ≠ (t, l) := fun y => by
    rw [List.mem_filter, bne_iff_ne]
  refine ⟨_, lineRebuild_done hm hroom, rfl, fun h => ((hmem _).mp h).2 rfl, fun y hy => ?_, getAt_countStale _ ht⟩
  exact (hmem y).trans (and_iff_left hy)

end Sys2Proof.Machine
end

section
/-! Registers, contexts, invalidations and retirement: the statement O59. -/

namespace Sys2Proof.Machine

/-- Settles O59, clause by clause: the device page, the events that writes are, a context's page with its coming and going,
invalidations, retirement and rebuild. -/
theorem registerAndContextEvents : Obligations.RegisterAndContextEvents := by
  unfold Obligations.RegisterAndContextEvents
  intro s c v h64
  refine ⟨fun hon => ?_, fun hc => ?_, fun he => ?_, fun p hi => invalidationComplete_page h64 hi, fun hi => invalidationComplete_all h64 hi,
    fun t p ht hp hold => ?_, fun t l hm ht hroom => lineRebuild_effect hm ht hroom⟩
  · obtain ⟨h1, h2, h3, h4, h5, h6, h7, h8⟩ := deviceRegisters v hon
    refine ⟨h1, h2, h3, h4, h5, h6, h7, h8, fun off hoff hno => registerWrite_device_other v hon hoff hno,
      fun off hoff => registerWrite_dropped v hon (RegSpan.page_outside hoff),
      fun off size h => ⟨registerWrite_dropped v hon (RegSpan.page_misaligned h), readReg_misaligned hon h⟩,
      readReg_device hon (by decide) (by decide), ?_, registerWrite_device_readBack v hon, devidWrite_next v hon, rwsplitWrite_next v hon⟩
    rw [readReg_device hon (by decide) (by decide), readDev_devid]
  · exact ⟨rfl, rfl, rfl, rfl, regEvent_context v hc⟩
  · have hl : c < s.ctxs.length := lt_of_lt_of_eq he.1 h64.symm
    obtain ⟨⟨h1, h2, h3, h4, h5, h6⟩, h7, h8, h9, h10, h11, h12, h13⟩ := plainRegisters v he
    refine ⟨fun hen off hm => ?_, fun hen => fixedRegisters v he hen, h1, h2, h3, h4, h5, h6, h7, h8, h9, h10, h11, h12, h13, fun i hi => ?_,
      fun hrun hlog => registerWrite_lqlog v he hl hrun hlog, registerWrite_context_readBack v he hl, writeOnly_read_zero he,
      fun k hk => polkeyWrite_measured v he hl hk, fun hv hen => ⟨contextEnable_taken v he hv hen, contextEnable_free v he hl hv hen⟩,
      fun hv hen hn => contextDisable_enabled v he hl hv hen hn, fun hv hen => contextDisable_disabled v he hv hen,
      fun hv hi => invalidatePage_starts v he hv hi, invalidateAll_starts he⟩
    · have hoff : ∀ off ∈ [0x008, 0x010, 0x018, 0x038, 0x040], off < 0x1000 ∧ off % 8 = 0 ∧ off ≠ 0x108 := by decide
      obtain ⟨h, ha, hne⟩ := hoff off hm
      exact registerWrite_context he h ha hne (by rw [hen]; exact Ctx.write_fixed _ v off hm)
    · exact registerWrite_context he (by omega) (by omega) (by omega) (Ctx.write_pod _ _ v hi)
  · refine ⟨channelRetire_effect ht hp hold, fun tt k hen hlo hhi hwait hroom hx h4 h5 h6 _ hva hlost hstale hs hw hplain hc => ?_⟩
    exact channelRetire_record h64 ht hp hold hen ⟨hlo, hhi⟩ hwait hroom hx ⟨h4, h5, h6⟩ hva hlost hstale hs hw hplain hc

end Sys2Proof.Machine
end

section
/-! SUPPORT. The launch queue: its tests, the validation of a record, and the record that is read next (R28, R30). -/

namespace Sys2Proof.Machine

/-! ### LQPROD (R28) -/

theorem State.lqlogOk_iff (x : Ctx) : State.lqlogOk x = true ↔ 4 ≤ x.lqlog.toNat ∧ x.lqlog.toNat ≤ 16 := by
  simp [State.lqlogOk]

theorem State.lqOver_iff (x : Ctx) : State.lqOver x = true ↔ 2 ^ x.lqlog.toNat < (x.lqprod - x.lqcons).toNat := by
  simp [State.lqOver]

/-- A launch queue that runs and whose producer is too far ahead stops with a record (R28). -/
theorem State.lqTest_over {s : State} {c : Nat} (hrun : (s.ctx c).lqstop = .run) (hlog : State.lqlogOk (s.ctx c) = true)
    (hover : State.lqOver (s.ctx c) = true) :
    s.lqTest c = (s.modCtx c fun y => { y with lqstop := .overflow false false }).hostRecord c { code := 0x20 } := by
  simp [State.lqTest, hrun, hlog, hover]

/-- The context once LQPROD is written while the queue runs. -/
def State.produced (s : State) (c : Nat) (v : W64) : State := s.roused.modCtx c fun _ => { s.ctx c with lqprod := v.setWidth 32 }

theorem State.produced_ctx {s : State} {c : Nat} (v : W64) (hl : c < s.ctxs.length) :
    (s.produced c v).ctx c = { s.ctx c with lqprod := v.setWidth 32 } := State.ctx_modCtx_same (s := s.roused) _ hl

/-- A write of LQPROD while the queue runs is stored, and then tested. -/
theorem lqprodWrite_tested {s : State} {c : Nat} (v : W64) (he : s.Exposes c) (hrun : (s.ctx c).lqstop = .run) :
    exec (.lqprodWrite c v) s = .next ((s.produced c v).lqTest c) := by
  have hstore : (s.roused.modCtx c fun x => { x with lqprod := v.setWidth 32, lqstop := .run }) = s.produced c v := by
    simp only [State.produced, State.modCtx, State.roused_ctx, ← hrun]
  change Host.Outcome.next (s.pageWrite c fun s => s.writeLqprod c v) = _
  simp only [State.pageWrite_exposed _ he, State.writeLqprod, State.roused_ctx, hrun, hstore]

/-! ### Validation (R30) -/

/-- A record whose fields are in range and whose reserved fields are zero: check 1 of R30. -/
theorem recordOk_iff (d : List Nat) :
    recordOk d = true ↔ getAt d 0 < 2 ^ 56 ∧ getAt d 1 < 2 ^ 57 ∧ getAt d 2 < 2 ^ 46 ∧ getAt d 3 < 2 ^ 56
      ∧ (∀ i ∈ [4, 5, 6, 7], getAt d i / 2 ^ 12 % 16 = 0) ∧ getAt d 8 < 2 ^ 13 ∧ getAt d 9 < 2 ^ 8
      ∧ (∀ i ∈ [10, 11, 12, 13, 14, 15], getAt d i = 0) ∧ getAt d 2 / 2 ^ 43 % 8 ≤ 4 := by
  have hfield : ∀ n, bitsOf n 15 12 = n / 2 ^ 12 % 16 := fun _ => rfl
  have hcount : ∀ n, bitsOf n 45 43 = n / 2 ^ 43 % 8 := fun _ => rfl
  simp only [recordOk, hfield, hcount, Bool.and_eq_true, decide_eq_true_eq, List.all_eq_true, beq_iff_eq, and_assoc]

/-- One axis of a rectangle that R16 allows. -/
def AxisFits (o n : Nat) : Prop := n ∈ [1, 2, 4, 8, 12, 16] ∧ o + n ≤ 16 ∧ (n ≤ 2 → o % n = 0) ∧ (2 < n → o % 4 = 0)

theorem axisOk_iff (o n : Nat) : axisOk o n = true ↔ AxisFits o n := by
  have halign : (if n ≤ 2 then o % n == 0 else o % 4 == 0) = true ↔ (n ≤ 2 → o % n = 0) ∧ (2 < n → o % 4 = 0) := by
    split <;> simp <;> omega
  simp only [axisOk, AxisFits, Bool.and_eq_true, List.contains_iff_mem, decide_eq_true_eq, halign, and_assoc]

/-- The rectangle of a launch is one that R16 allows. -/
def Launch.RectFits (l : Launch) : Prop := AxisFits l.x0 l.w ∧ AxisFits l.y0 l.h

/-- A comb of a launch fits an empty core (R19, R30). -/
def Launch.SizeFits (l : Launch) : Prop := l.shadow ≤ 16 ∧ l.scratch ≤ 192 * 4096 ∧ l.g + l.shadow ≤ 64 ∧ l.g * l.regs ≤ 4096

/-- A launch's gangs fit its combs, and shadow slots are asked for by a forking kernel only (R30). -/
def Launch.GangFits (l : Launch) : Prop := l.desc.gangw ≤ l.g ∧ (0 < l.shadow → l.desc.forken = true)

theorem launchCheck_rect {l : Launch} (h : ¬ l.RectFits) : launchCheck l = some 0x10 := by
  rw [launchCheck, if_pos]
  simpa [Launch.RectFits, ← axisOk_iff, imp_iff_not_or] using h

theorem launchCheck_size {l : Launch} (hr : l.RectFits) (h : ¬ l.SizeFits) : launchCheck l = some 0x11 := by
  obtain ⟨hx, hy⟩ := hr
  rw [← axisOk_iff] at hx hy
  rw [launchCheck, if_neg (by simp [hx, hy]), if_pos]
  simp only [Launch.SizeFits] at h
  simp only [Bool.or_eq_true, decide_eq_true_eq]
  omega

theorem Launch.SizeFits.unrefused {l : Launch} (h : l.SizeFits) :
    ¬ (16 < l.shadow || 192 * 4096 < l.scratch || 64 < l.g + l.shadow || 4096 < l.g * l.regs) = true := by
  obtain ⟨h1, h2, h3, h4⟩ := h
  simp only [Bool.or_eq_true, decide_eq_true_eq]
  omega

/-- A launch whose rectangle and size pass is checked for its lanes and its gangs. -/
theorem launchCheck_fits {l : Launch} (hr : l.RectFits) (hs : l.SizeFits) :
    launchCheck l = if 32 * l.g < l.lanes then some 0x14
      else if l.g < l.desc.gangw || (0 < l.shadow && !l.desc.forken) then some 0x15 else none := by
  obtain ⟨hx, hy⟩ := hr
  rw [← axisOk_iff] at hx hy
  rw [launchCheck, if_neg (by simp [hx, hy]), if_neg hs.unrefused]

theorem launchCheck_lanes {l : Launch} (hr : l.RectFits) (hs : l.SizeFits) (h : 32 * l.g < l.lanes) : launchCheck l = some 0x14 := by
  rw [launchCheck_fits hr hs, if_pos h]

theorem launchCheck_gang {l : Launch} (hr : l.RectFits) (hs : l.SizeFits) (hl : l.lanes ≤ 32 * l.g) (h : ¬ l.GangFits) :
    launchCheck l = some 0x15 := by
  rw [launchCheck_fits hr hs, if_neg (Nat.not_lt.mpr hl), if_pos]
  simpa [Launch.GangFits, imp_iff_not_or, -not_and, not_and_or, Nat.pos_iff_ne_zero] using h

theorem launchCheck_passed {l : Launch} (hr : l.RectFits) (hs : l.SizeFits) (hl : l.lanes ≤ 32 * l.g) (h : l.GangFits) :
    launchCheck l = none := by
  obtain ⟨hg, hf⟩ := h
  rw [launchCheck_fits hr hs, if_neg (Nat.not_lt.mpr hl), if_neg]
  simpa [imp_iff_not_or, Nat.not_lt.mpr hg] using hf

section
variable {s : State} {c : Nat} {ra lid : W64} {dev : Bool} {d : List Nat}

theorem State.validate_malformed (h : ¬ recordOk d = true) : s.validate c ra lid dev d = some (.inl 0x13, s) := by
  simp [State.validate, h]

theorem State.validate_unknown (hd : recordOk d = true) (h : ∀ o ∈ (s.ctx c).objs, o.unloaded = true ∨ getAt d 0 ∉ o.kernels) :
    s.validate c ra lid dev d = some (.inl 0x12, s) := by
  have hnone : ((s.ctx c).objs.find? fun o => !o.unloaded && o.kernels.contains (getAt d 0)) = none := by
    rw [List.find?_eq_none]
    intro o ho
    rcases h o ho with h | h <;> simp [h]
  simp only [State.validate, hd, hnone, Bool.not_true, Bool.false_eq_true, if_false]

variable {o : CodeObj} (hd : recordOk d = true)
  (ho : (s.ctx c).objs.find? (fun o => !o.unloaded && o.kernels.contains (getAt d 0)) = some o)
include hd ho

theorem State.validate_descUnread {e va : Nat} (h : s.devRead c (getAt d 0) 128 = .error (e, va)) :
    s.validate c ra lid dev d = if e = 0 then none else some (.inl 0x18, s) := by
  simp only [State.validate, hd, ho, h, Bool.not_true, Bool.false_eq_true, if_false]

variable {kb : List Byte} {s1 : State} (hk : s.devRead c (getAt d 0) 128 = .ok (kb, s1))
include hk

theorem State.validate_bindsUnread {e va : Nat} (hn : (descOf (dwordsOf kb 16)).nbind ≠ 0)
    (h : s1.devRead c (descOf (dwordsOf kb 16)).bindtab (32 * (descOf (dwordsOf kb 16)).nbind) = .error (e, va)) :
    s.validate c ra lid dev d = if e = 0 then none else some (.inl 0x18, s1) := by
  simp only [State.validate, hd, ho, hk, hn, h, Bool.not_true, Bool.false_eq_true, if_false]

/-- Once the descriptor and the bindings are read, checks 4 to 7 of R30 decide. -/
theorem State.validate_read {bb : List Byte} {s2 : State}
    (h : ((descOf (dwordsOf kb 16)).nbind = 0 ∧ bb = [] ∧ s2 = s1) ∨ ((descOf (dwordsOf kb 16)).nbind ≠ 0
      ∧ s1.devRead c (descOf (dwordsOf kb 16)).bindtab (32 * (descOf (dwordsOf kb 16)).nbind) = .ok (bb, s2))) :
    let k := descOf (dwordsOf kb 16)
    let l := launchOf c ra lid dev d k ((entries bb 32 k.nbind).map bindOf) o.obj
    s.validate c ra lid dev d = (launchCheck l).elim (some (.inr l, s2)) fun st => some (.inl st, s2) := by
  intro k l
  rcases h with ⟨hn, rfl, rfl⟩ | ⟨hn, hb⟩
  · simp only [State.validate, hd, ho, hk, hn, Bool.not_true, Bool.false_eq_true, if_false, if_true]
    cases hl : launchCheck l <;> simp_all [k, l]
  · simp only [State.validate, hd, ho, hk, hn, hb, Bool.not_true, Bool.false_eq_true, if_false]
    cases hl : launchCheck l <;> simp_all [k, l]

end

end Sys2Proof.Machine
end

section
/-! SUPPORT. The launch queue's next record, gates, and the ends of launches (R28, R30, R31, R33, R167). -/

namespace Sys2Proof.Machine

/-- An accepted record has the address, the LID and the context that it was read with. -/
theorem State.validate_names {s t : State} {c : Nat} {ra lid : W64} {dev : Bool} {d : List Nat} {l : Launch}
    (h : s.validate c ra lid dev d = some (.inr l, t)) : l.recAddr = ra ∧ l.lid = lid ∧ l.ctx = c := by
  unfold State.validate at h
  split at h
  · cases h
  · split at h
    · cases h
    · split at h
      · split at h <;> cases h
      · dsimp only at h
        split at h
        · split at h <;> cases h
        · split at h <;> cases h
          exact ⟨rfl, rfl, rfl⟩

/-! ### The next record (R28) -/

section
variable {s t : State} {c : Nat} {ra lid : W64} {d : List Nat}

theorem State.takeRecord_accepted {l : Launch} (h : s.validate c ra lid false d = some (.inr l, t)) :
    s.takeRecord c ra lid d = some ((t.accept l).writeStatus l 1) := by
  delta State.takeRecord
  rw [h]

theorem State.takeRecord_refused {st : Nat} (h : s.validate c ra lid false d = some (.inl st, t)) :
    s.takeRecord c ra lid d = some (t.writeStatus (State.recordStub c ra lid) st) := by
  delta State.takeRecord
  rw [h]

theorem State.takeRecord_waits (h : s.validate c ra lid false d = none) : s.takeRecord c ra lid d = none := by
  delta State.takeRecord
  rw [h]

end

/-- The launch queue of a context has a record to read. -/
structure State.Queued (s : State) (c : Nat) : Prop where
  enabled : (s.ctx c).en = true
  lives   : (s.ctx c).reviving = false
  thawed  : (s.ctx c).pstate = 0
  log     : State.lqlogOk (s.ctx c) = true
  runs    : (s.ctx c).lqstop = .run
  fits    : State.lqOver (s.ctx c) = false
  some_   : (s.ctx c).lqprod ≠ (s.ctx c).lqcons

/-- The address of the record that a launch queue reads next. -/
def State.recordAt (s : State) (c : Nat) : Nat :=
  (s.ctx c).lqbase.toNat % 2 ^ 56 / 128 * 128 + 128 * ((s.ctx c).lqcons.toNat % 2 ^ (s.ctx c).lqlog.toNat)

/-- The state whose launch queue stands behind the record that has been read. -/
def State.nextRecord (s : State) (c : Nat) : State := s.modCtx c fun y => { y with lqcons := y.lqcons + 1 }

/-- What validation says of the next record, which read as `bs` and left the state `s1`. -/
def State.recordVerdict (s : State) (c : Nat) (bs : List Byte) (s1 : State) : Option ((Nat ⊕ Launch) × State) :=
  (s1.nextRecord c).validate c (BitVec.ofNat 64 (s.recordAt c)) ((s.ctx c).lqcons.setWidth 64) false (dwordsOf bs 16)

section
variable {s : State} {c : Nat} (hq : s.Queued c)
include hq

theorem State.Queued.reads :
    ((s.ctx c).en = true ∧ (s.ctx c).reviving = false ∧ s.frozen c = false ∧ State.lqlogOk (s.ctx c) = true)
      ∧ ((s.ctx c).lqstop != .run) = false ∧ ((s.ctx c).lqprod == (s.ctx c).lqcons) = false ∧ s.lqTest c = s := by
  obtain ⟨h1, h2, h3, h4, h5, h6, h7⟩ := hq
  exact ⟨⟨h1, h2, by simp [State.frozen, h3], h4⟩, by simp [h5], by simp [h7], State.lqTest_calm h5 (.inr h6)⟩

/-- A record that is read is taken behind LQCONS; while it must wait nothing happens. -/
theorem State.readRecord_ok {bs : List Byte} {s1 : State} (h : s.devRead c (s.recordAt c) 128 = .ok (bs, s1)) :
    s.readRecord c = ((s1.nextRecord c).takeRecord c (BitVec.ofNat 64 (s.recordAt c)) ((s.ctx c).lqcons.setWidth 64) (dwordsOf bs 16)).getD s := by
  obtain ⟨⟨h1, h2, h3, h4⟩, h5, h6, h7⟩ := hq.reads
  rw [State.recordAt] at h ⊢
  simp only [State.readRecord, State.nextRecord, h7, h1, h2, h3, h4, h5, h6, h, Bool.not_true, Bool.or_self, Bool.false_eq_true, if_false]

theorem State.readRecord_accepted {bs : List Byte} {s1 s2 : State} {l : Launch} (h : s.devRead c (s.recordAt c) 128 = .ok (bs, s1))
    (hv : s.recordVerdict c bs s1 = some (.inr l, s2)) :
    s.readRecord c = (s2.accept l).writeStatus l 1 := by
  rw [State.readRecord_ok hq h, State.takeRecord_accepted hv, Option.getD_some]

theorem State.readRecord_refused {bs : List Byte} {s1 s2 : State} {st : Nat} (h : s.devRead c (s.recordAt c) 128 = .ok (bs, s1))
    (hv : s.recordVerdict c bs s1 = some (.inl st, s2)) :
    s.readRecord c = s2.writeStatus (State.recordStub c (BitVec.ofNat 64 (s.recordAt c)) ((s.ctx c).lqcons.setWidth 64)) st := by
  rw [State.readRecord_ok hq h, State.takeRecord_refused hv, Option.getD_some]

theorem State.readRecord_waits {bs : List Byte} {s1 : State} (h : s.devRead c (s.recordAt c) 128 = .ok (bs, s1))
    (hv : s.recordVerdict c bs s1 = none) :
    s.readRecord c = s := by
  rw [State.readRecord_ok hq h, State.takeRecord_waits hv, Option.getD_none]

/-- A record that cannot be read stops the queue with a record of its own, and one whose page must still come waits. -/
theorem State.readRecord_error {e va : Nat} (h : s.devRead c (s.recordAt c) 128 = .error (e, va)) :
    s.readRecord c = if e = 0 then s else (s.modCtx c fun y => { y with lqstop := .unreadable }).hostRecord c
      { code := 0x23, info := BitVec.ofNat 64 (s.recordAt c), launch := (s.ctx c).lqcons.setWidth 64 } := by
  obtain ⟨⟨h1, h2, h3, h4⟩, h5, h6, h7⟩ := hq.reads
  rw [State.recordAt] at h ⊢
  simp only [State.readRecord, h7, h1, h2, h3, h4, h5, h6, h, Bool.not_true, Bool.or_self, Bool.false_eq_true, if_false]

end

/-! ### Gates (R33) -/

section
variable {s : State} {c i : Nat} {v : W64} {r : List (Nat × W64)}

theorem State.gatesMet_read {bs : List Byte} {s1 s2 : State} {m : Bool} (h : s.devRead c (s.counterVa c i) 8 = .ok (bs, s1))
    (hr : s1.gatesMet c r = some (m, s2)) : s.gatesMet c ((i, v) :: r) = some (m && decide (v.toNat ≤ leNat bs), s2) := by
  simp only [State.gatesMet, h, hr]

/-- A gate whose page the pager has still to bring is not met. -/
theorem State.gatesMet_waits {va : Nat} {s2 : State} {m : Bool} (h : s.devRead c (s.counterVa c i) 8 = .error (0, va))
    (hr : s.gatesMet c r = some (m, s2)) : s.gatesMet c ((i, v) :: r) = some (false, s2) := by
  simp only [State.gatesMet, h, hr, if_true, Option.map_some]

theorem State.gatesMet_unread {e va : Nat} (h : s.devRead c (s.counterVa c i) 8 = .error (e, va)) (he : e ≠ 0) :
    s.gatesMet c ((i, v) :: r) = none := by
  simp only [State.gatesMet, h, he, if_false]

end

/-- The state in which a launch's gates are looked at. -/
def State.looking (s : State) (l : Launch) : State := s.modLaunch l.num fun y => { y with looked := s.clk.cycle }

section
variable {s s1 : State} {l : Launch} (hl : s.launch? l.num = some l) (hg : l.gated = true) (ha : l.aborted = false)
include hl hg ha

theorem State.evalGates_unmet (h : (s.looking l).gatesMet l.ctx l.gates = some (false, s1)) : s.evalGates l.num = s1 := by
  rw [State.looking] at h
  simp only [State.evalGates, hl, hg, ha, h, Bool.not_true, Bool.or_self, Bool.false_eq_true, if_false]

theorem State.evalGates_met (h : (s.looking l).gatesMet l.ctx l.gates = some (true, s1)) :
    s.evalGates l.num = (s1.awake.dropCounters l).modLaunch l.num fun y => { y with gated := false, began := s1.clk.serial } := by
  rw [State.looking] at h
  simp only [State.evalGates, hl, hg, ha, h, Bool.not_true, Bool.or_self, Bool.false_eq_true, if_false]

theorem State.evalGates_unread (h : (s.looking l).gatesMet l.ctx l.gates = none) :
    s.evalGates l.num = ({ (s.looking l).awake with launches := (s.looking l).launches.filter fun y => y.num != l.num }.writeStatus l 0x19).sweepObjs
      l.ctx := by
  rw [State.looking] at h ⊢
  simp only [State.evalGates, hl, hg, ha, h, Bool.not_true, Bool.or_self, Bool.false_eq_true, if_false]

end

/-! ### Ends of launches (R31, R167) -/

/-- No remote data cache holds a byte that is not written back. -/
def State.RdcClean (s : State) : Prop := ∀ y ∈ s.coh.lines, ∀ h, y.cache = .rdc h → y.dirty = []

theorem State.RdcClean.writeBackAll {s : State} (h : s.RdcClean) (hive : Nat) (p : Nat → Bool) : s.writeBackAll hive p = s := by
  have hnone : (s.coh.lines.filter fun c => c.cache == .rdc hive && !c.dirty.isEmpty && p c.line) = [] := by
    rw [List.filter_eq_nil_iff]
    intro y hy
    by_cases hc : y.cache = .rdc hive
    · simp [h y hy hive hc]
    · simp [hc]
  rw [State.writeBackAll, hnone]
  rfl

theorem State.RdcClean.stuck {s : State} (h : s.RdcClean) (hive : Nat) (p : Nat → Bool) : s.stuck hive p = false := by
  rw [State.stuck, List.any_eq_false]
  intro y hy
  by_cases hc : y.cache = .rdc hive
  · simp [h y hy hive hc]
  · simp [hc]

/-- A launch whose combs have started and ended, with nothing of it on its way, completes (R31). -/
theorem State.completeLaunch_done {s : State} {l : Launch} (hl : s.launch? l.num = some l) (ha : l.aborted = false)
    (hs : l.started.length = State.total l) (he : l.ended = State.total l) (hj : ∀ j ∈ s.jobs, j.launch ≠ l.num)
    (hsb : ∀ e ∈ s.coh.sb, e.launch ≠ l.num) (hb : ∀ b ∈ s.coh.bank, b.launch ≠ l.num) (hc : s.RdcClean) :
    let s1 := { s with launches := s.launches.filter fun y => y.num != l.num }.writeStatus l 2
    s.completeLaunch l.num = (if l.doneEn then s1.bumpCounter l l.didx else s1).sweepObjs l.ctx := by
  have hj' : (s.jobs.any fun j => j.launch == l.num) = false := by simpa using hj
  have hsb' : (s.coh.sb.any fun e => e.launch == l.num) = false := by simpa using hsb
  have hb' : (s.coh.bank.any fun b => b.launch == l.num) = false := by simpa using hb
  have hgo : ¬ (l.aborted || decide (l.started.length < State.total l) || decide (l.ended < State.total l) || (s.jobs.any fun j => j.launch == l.num)
      || (s.coh.sb.any fun e => e.launch == l.num) || (s.coh.bank.any fun b => b.launch == l.num)
      || [0, 1, 2, 3].any fun h => s.stuck h fun _ => true) = true := by
    simp [ha, hs, he, hj', hsb', hb', hc.stuck]
  have hwrite : [0, 1, 2, 3].foldl (fun s h => s.writeBackAll h fun _ => true) s = s := by
    simp only [List.foldl_cons, List.foldl_nil, hc.writeBackAll]
  intro s1
  rw [State.completeLaunch, hl]
  refine (if_neg hgo).trans ?_
  rw [hwrite]

/-- The launches of other numbers than one. -/
def State.launchesBut (s : State) (n : Nat) : List Launch := s.launches.filter fun y => y.num != n

theorem State.launchesBut_modLaunch {s : State} {n : Nat} {f : Launch → Launch} (h : ∀ l, (f l).num = l.num) :
    (s.modLaunch n f).launchesBut n = s.launchesBut n := by
  simp only [State.launchesBut, State.modLaunch]
  induction s.launches with
  | nil => rfl
  | cons x xs ih =>
    rw [List.map_cons, List.filter_cons, List.filter_cons, ih]
    by_cases hx : x.num = n <;> simp [hx, h]

theorem State.endComb_launchesBut {s : State} {c : Comb} {n : Nat} (h : c.launch = n) : (s.endComb c).launchesBut n = s.launchesBut n := by
  subst h
  have hkeep : (((s.liftComb c).freeCombPages c).keepOrphans c).launchesBut c.launch = s.launchesBut c.launch :=
    State.launchesBut_modLaunch (s := (s.liftComb c).freeCombPages c) fun _ => rfl
  refine Eq.trans ?_ hkeep
  rw [State.endComb, State.launchesBut_modLaunch]
  exact fun _ => rfl

/-- Ending the combs of a launch leaves the other launches as they are. -/
theorem State.endCombs_launchesBut {s : State} {n : Nat} {cs : List Comb} (h : ∀ c ∈ cs, c.launch = n) :
    (cs.foldl (fun s c => s.endComb c) s).launchesBut n = s.launchesBut n := by
  induction cs generalizing s with
  | nil => rfl
  | cons c cs ih =>
    rw [List.foldl_cons, ih fun d hd => h d (List.mem_cons_of_mem _ hd), State.endComb_launchesBut (h c List.mem_cons_self)]

theorem State.endComb_combs (s : State) (c : Comb) : (s.endComb c).combs = s.combs.filter fun x => x.id != c.id := rfl

/-- The combs that are left when some have ended. -/
theorem State.mem_endCombs {s : State} {cs : List Comb} {d : Comb} (h : d ∈ (cs.foldl (fun s c => s.endComb c) s).combs) :
    d ∈ s.combs ∧ d ∉ cs := by
  induction cs generalizing s with
  | nil => exact ⟨h, List.not_mem_nil⟩
  | cons c cs ih =>
    obtain ⟨hd, hcs⟩ := ih h
    rw [State.endComb_combs, List.mem_filter, bne_iff_ne] at hd
    obtain ⟨hmem, hid⟩ := hd
    refine ⟨hmem, fun hin => ?_⟩
    rcases List.mem_cons.mp hin with rfl | hin
    · exact hid rfl
    · exact hcs hin

/-- An aborted launch of which nothing is on its way any more is over, and its combs are gone (R167). -/
theorem State.completeAbort_done {s : State} {l : Launch} (hl : s.launch? l.num = some l) (ha : l.aborted = true)
    (hf : ∀ f ∈ s.flights, ∀ d ∈ s.combs, d.launch = l.num → f.comb ≠ d.id) (hj : ∀ j ∈ s.jobs, j.launch ≠ l.num)
    (hsb : ∀ e ∈ s.coh.sb, e.launch = l.num → State.isGo e = false) :
    ∃ s1 : State, s.completeAbort l.num = ((s1.writeStatus l 3).sweepObjs l.ctx).freeCtx l.ctx
      ∧ s1.launches = s.launches.filter (fun y => y.num != l.num) ∧ ∀ d ∈ s1.combs, d ∈ s.combs ∧ d.launch ≠ l.num := by
  let cs := s.combs.filter fun c => c.launch == l.num
  let u := cs.foldl (fun s c => s.endComb c) s
  let held := ((u.ctx l.ctx).saved.filter fun v => v.comb.launch == l.num && !v.back).map fun v => v.comb
  let w := held.foldl (fun s c => s.freeCombPages c) u
  have hcs : ∀ c ∈ cs, c.launch = l.num := fun c hc => by simpa using (List.mem_filter.mp hc).2
  have hf' : (s.flights.any fun f => cs.any fun c => c.id == f.comb) = false := by
    rw [List.any_eq_false]
    intro f hfm
    rw [Bool.not_eq_true, List.any_eq_false]
    intro c hc h
    exact hf f hfm c (List.mem_filter.mp hc).1 (hcs c hc) (beq_iff_eq.mp h).symm
  have hj' : (s.jobs.any fun j => j.launch == l.num) = false := by simpa using hj
  have hsb' : (s.coh.sb.any fun e => e.launch == l.num && State.isGo e) = false := by simpa using hsb
  have hwl : w.launches = u.launches := foldl_keeps (p := State.launches) (f := fun s c => s.freeCombPages c) (fun _ _ => rfl) held u
  have hwc : w.combs = u.combs := foldl_keeps (p := State.combs) (f := fun s c => s.freeCombPages c) (fun _ _ => rfl) held u
  let z := w.modCtx l.ctx fun x => { x with saved := x.saved.map fun v => if v.comb.launch == l.num then { v with back := true } else v }
  refine ⟨{ z with launches := z.launches.filter fun x => x.num != l.num }, ?_, ?_, fun d hd => ?_⟩
  · have hover : ¬ (!l.aborted || (s.flights.any fun f => cs.any fun c => c.id == f.comb) || (s.jobs.any fun j => j.launch == l.num)
        || s.coh.sb.any fun e => e.launch == l.num && State.isGo e) = true := by
      rw [ha, hf', hj', hsb']
      decide
    rw [State.completeAbort, hl]
    exact if_neg hover
  · change w.launches.filter _ = _
    rw [hwl]
    exact State.endCombs_launchesBut hcs
  · change d ∈ w.combs at hd
    rw [hwc] at hd
    obtain ⟨hmem, hnot⟩ := State.mem_endCombs hd
    exact ⟨hmem, fun h => hnot (List.mem_filter.mpr ⟨hmem, by simp [h]⟩)⟩

end Sys2Proof.Machine
end

section
/-! The launch queue, gates and the ends of launches: the statement O46. -/

namespace Sys2Proof.Machine

/-- The outcome of a record whose descriptor and bindings are read, check by check (R30). -/
theorem State.validate_checks {s s1 s2 : State} {c : Nat} {ra lid : W64} {dev : Bool} {d : List Nat} {o : CodeObj} {kb bb : List Byte}
    (hd : recordOk d = true) (ho : (s.ctx c).objs.find? (fun o => !o.unloaded && o.kernels.contains (getAt d 0)) = some o)
    (hk : s.devRead c (getAt d 0) 128 = .ok (kb, s1))
    (hb : ((descOf (dwordsOf kb 16)).nbind = 0 ∧ bb = [] ∧ s2 = s1) ∨ ((descOf (dwordsOf kb 16)).nbind ≠ 0
      ∧ s1.devRead c (descOf (dwordsOf kb 16)).bindtab (32 * (descOf (dwordsOf kb 16)).nbind) = .ok (bb, s2))) :
    let k := descOf (dwordsOf kb 16)
    let l := launchOf c ra lid dev d k ((entries bb 32 k.nbind).map bindOf) o.obj
    let V := s.validate c ra lid dev d
    (¬ l.RectFits → V = some (.inl 0x10, s2)) ∧ (l.RectFits → ¬ l.SizeFits → V = some (.inl 0x11, s2))
      ∧ (l.RectFits → l.SizeFits → 32 * l.g < l.lanes → V = some (.inl 0x14, s2))
      ∧ (l.RectFits → l.SizeFits → l.lanes ≤ 32 * l.g → ¬ l.GangFits → V = some (.inl 0x15, s2))
      ∧ (l.RectFits → l.SizeFits → l.lanes ≤ 32 * l.g → l.GangFits → V = some (.inr l, s2)) := by
  intro k l V
  have hV : V = (launchCheck l).elim (some (.inr l, s2)) fun st => some (.inl st, s2) := State.validate_read hd ho hk hb
  refine ⟨fun h => ?_, fun hr h => ?_, fun hr hs h => ?_, fun hr hs hl h => ?_, fun hr hs hl h => ?_⟩
  · rw [hV, launchCheck_rect h]; rfl
  · rw [hV, launchCheck_size hr h]; rfl
  · rw [hV, launchCheck_lanes hr hs h]; rfl
  · rw [hV, launchCheck_gang hr hs hl h]; rfl
  · rw [hV, launchCheck_passed hr hs hl h]; rfl

/-- A write of LQPROD (R28). -/
theorem lqprodWrite_outcome {s : State} {c : Nat} (v : W64) (he : s.Exposes c) (hl : c < s.ctxs.length)
    (hlog : 4 ≤ (s.ctx c).lqlog.toNat ∧ (s.ctx c).lqlog.toNat ≤ 16) (hrun : (s.ctx c).lqstop = .run) :
    let t := s.produced c v
    let ahead := 2 ^ (s.ctx c).lqlog.toNat < (v.setWidth 32 - (s.ctx c).lqcons).toNat
    (¬ ahead → exec (.lqprodWrite c v) s = .next t)
      ∧ (ahead → exec (.lqprodWrite c v) s
        = .next ((t.modCtx c fun y => { y with lqstop := .overflow false false }).hostRecord c { code := 0x20 })) := by
  intro t ahead
  have hctx : t.ctx c = _ := State.produced_ctx v hl
  have hrun' : (t.ctx c).lqstop = .run := by rw [hctx, ← hrun]
  have hover : State.lqOver (t.ctx c) = true ↔ ahead := by rw [State.lqOver_iff, hctx]
  have hlog' : State.lqlogOk (t.ctx c) = true := by rw [State.lqlogOk_iff, hctx]; exact hlog
  rw [lqprodWrite_tested v he hrun]
  refine ⟨fun h => ?_, fun h => ?_⟩
  · rw [State.lqTest_calm hrun' (.inr (Bool.eq_false_iff.mpr (mt hover.mp h)))]
  · rw [State.lqTest_over hrun' hlog' (hover.mpr h)]

/-- Settles O46, clause by clause: LQPROD, validation, the next record, gates, and the ends of launches. -/
theorem launchQueueEvents : Obligations.LaunchQueueEvents := by
  unfold Obligations.LaunchQueueEvents
  intro s c hc h64 x ring beyond logOk
  have hl : c < s.ctxs.length := lt_of_lt_of_eq hc h64.symm
  refine ⟨fun v hfw hon hlog hrun => lqprodWrite_outcome v ⟨hc, hfw, hon⟩ hl hlog hrun, fun ra lid dev d => ?_,
    fun hen hrev hps hlog hrun hfit hne => ?_, rfl, fun i v r => ?_, fun l hl hg ha => ?_, fun l hl ha hs he hj hsb hb hc => ?_,
    fun l hl ha hf hj hsb => ?_⟩
  · refine ⟨fun h => State.validate_malformed (mt (recordOk_iff d).mp h), fun h => State.validate_unknown ((recordOk_iff d).mpr h),
      fun o h ho => ⟨fun e va => State.validate_descUnread ((recordOk_iff d).mpr h) ho, fun kb s1 hk =>
        ⟨fun e va => State.validate_bindsUnread ((recordOk_iff d).mpr h) ho hk,
          fun bb s2 => State.validate_checks ((recordOk_iff d).mpr h) ho hk⟩⟩⟩
  · have hq : s.Queued c := ⟨hen, hrev, hps, (State.lqlogOk_iff x).mpr hlog, hrun, Bool.eq_false_iff.mpr (mt (State.lqOver_iff x).mp hfit), hne⟩
    refine ⟨fun bs s1 l s2 hr hv => ⟨congrArg Host.Outcome.next (State.readRecord_accepted hq hr hv), ?_⟩,
      fun bs s1 st s2 hr hv => congrArg Host.Outcome.next (State.readRecord_refused hq hr hv),
      fun bs s1 hr hv => congrArg Host.Outcome.next (State.readRecord_waits hq hr hv),
      fun e at_ hr => congrArg Host.Outcome.next (State.readRecord_error hq hr)⟩
    obtain ⟨hra, hlid, hctx⟩ := State.validate_names hv
    exact ⟨hra, hlid, hctx, rfl⟩
  · exact ⟨fun bs s1 m s2 => State.gatesMet_read, fun at_ m s2 => State.gatesMet_waits, fun e at_ => State.gatesMet_unread⟩
  · exact ⟨fun s1 h => congrArg Host.Outcome.next (State.evalGates_unmet hl hg ha h),
      fun s1 h => congrArg Host.Outcome.next (State.evalGates_met hl hg ha h),
      fun h => congrArg Host.Outcome.next (State.evalGates_unread hl hg ha h)⟩
  · exact congrArg Host.Outcome.next (State.completeLaunch_done hl ha hs he hj hsb hb hc)
  · obtain ⟨s1, h1, h2⟩ := State.completeAbort_done hl ha hf hj hsb
    exact ⟨s1, congrArg Host.Outcome.next h1, h2⟩

end Sys2Proof.Machine
end

section
/-! SUPPORT. Where a comb starts and what it starts with (R13 to R20, R34, R38). -/

namespace Sys2Proof.Machine

/-! ### Where a comb fits (R19, R38) -/

/-- A fold that keeps what it has or takes the element at hand ends with what it had or with an element. -/
theorem foldl_pick {α : Type} {f : Option α → α → Option α} (hf : ∀ b x, f b x = b ∨ f b x = some x) {l : List α} {b : Option α} {k : α}
    (h : l.foldl f b = some k) : b = some k ∨ k ∈ l := by
  induction l generalizing b with
  | nil => exact .inl h
  | cons x xs ih =>
    rcases ih h with hb | hk
    · rcases hf b x with he | he
      · exact .inl (he ▸ hb)
      · exact .inr (List.mem_cons.mpr (.inl (Option.some.inj (he ▸ hb)).symm))
    · exact .inr (List.mem_cons_of_mem x hk)

/-- The element of least measure is one of the list. -/
theorem State.argmin_mem {f : Nat → Nat} {l : List Nat} {k : Nat} (h : State.argmin f l = some k) : k ∈ l := by
  refine (foldl_pick (fun b x => ?_) h).resolve_left (by simp)
  cases b with
  | none => exact .inr rfl
  | some y =>
    dsimp only
    split
    · exact .inr rfl
    · exact .inl rfl

/-- The core that is chosen for a comb is one that it fits. -/
theorem State.bestCore_fits {s : State} {l : Launch} {cs : List Nat} {k : Nat} (h : s.bestCore l cs = some k) : s.fitsLaunch l k = true :=
  (List.mem_filter.mp (State.argmin_mem h)).2

/-- Where a comb fits, the run chosen for its window is free, and there are group slots for all its groups. -/
theorem State.fitsLaunch_room {s : State} {l : Launch} {k : Nat} (h : s.fitsLaunch l k = true) :
    l.g + l.shadow ≤ (s.freeSlots k).length ∧ s.runFree k ((s.scratchRun k l.scratch).getD 0) l.scratch = true := by
  simp only [State.fitsLaunch, State.fits, Bool.and_eq_true, decide_eq_true_eq] at h
  obtain ⟨⟨hslots, -⟩, hrun⟩ := h
  obtain ⟨off, hoff⟩ := Option.isSome_iff_exists.mp hrun
  refine ⟨hslots, ?_⟩
  rw [hoff]
  exact List.find?_some (p := fun off => s.runFree k off l.scratch) hoff

/-! ### A group at its start (R13, R15) -/

/-- The launched lanes of group `j` are those whose linear index is below the launch's lane count (R15). -/
theorem lane_launchedLanes (lanes j : Nat) {i : Nat} (h : i < 32) : lane (State.launchedLanes lanes j) i = decide (32 * j + i < lanes) := by
  rw [lane, State.launchedLanes, BitVec.getLsbD_ofNat, Nat.testBit_two_pow_sub_one]
  simp only [h, decide_true, Bool.true_and, decide_eq_decide]
  omega

/-- Group `j` of a launch's comb as it is before any instruction of it has issued. -/
structure Group.Fresh (l : Launch) (j : Nat) (g : Group) : Prop where
  regs   : g.s = List.replicate 64 0 ∧ g.x = List.replicate 4 0 ∧ g.q = List.replicate 8 0
  modes  : g.logw = 5 ∧ g.nf = 0 ∧ g.seed = 0 ∧ g.gang = 0 ∧ g.prio = l.desc.prio ∧ g.closed = 0 ∧ g.done = 0
  lanes  : ∀ i < 32, lane g.launched i = decide (32 * j + i < l.lanes)
  path   : ∃ p, g.paths = [p] ∧ p.pc = l.desc.entry ∧ p.pl = g.launched ∧ p.exm = g.launched ∧ p.arrived = false ∧ p.depth = 0
    ∧ p.rstack = [] ∧ p.pend = []

theorem State.newGroup_fresh (x : Ctx) (l : Launch) (num j slot cycle : Nat) : (State.newGroup x l num j slot cycle).Fresh l j where
  regs := ⟨rfl, rfl, rfl⟩
  modes := ⟨rfl, rfl, rfl, rfl, rfl, rfl, rfl⟩
  lanes := fun _ hi => lane_launchedLanes _ _ hi
  path := ⟨_, rfl, rfl, rfl, rfl, rfl, rfl, rfl, rfl⟩

/-! ### COMB_START (R19, R20) -/

/-- The groups that a comb of a launch starts with on a core: those that have a launched lane. -/
def State.startGroups (s : State) (l : Launch) (k : Nat) : List Group :=
  ((List.range l.g).filter fun j => 32 * j < l.lanes).map fun j =>
    State.newGroup (s.ctx l.ctx) l (s.clk.serial + 1 + j) j (getAt (s.freeSlots k) j) s.clk.cycle

theorem State.mem_startGroups {s : State} {l : Launch} {k : Nat} {g : Group} (h : g ∈ s.startGroups l k) :
    g.gidx < l.g ∧ 32 * g.gidx < l.lanes ∧ g.Fresh l g.gidx := by
  obtain ⟨j, hj, rfl⟩ := List.mem_map.mp h
  rw [List.mem_filter, List.mem_range, decide_eq_true_eq] at hj
  exact ⟨hj.1, hj.2, State.newGroup_fresh ..⟩

/-- Every group with a launched lane is there (R15). -/
theorem State.startGroups_some {s : State} {l : Launch} {k j : Nat} (hg : j < l.g) (hl : 32 * j < l.lanes) :
    ((s.startGroups l k).find? fun g => g.gidx == j).isSome := by
  rw [List.find?_isSome]
  refine ⟨_, List.mem_map.mpr ⟨j, List.mem_filter.mpr ⟨List.mem_range.mpr hg, by simpa using hl⟩, rfl⟩, ?_⟩
  simp [State.newGroup]

/-- A comb of a launch that starts on a core: comb `i` of the grid, of the launch's sizes, in a free run of the core's
scratchpad, in free group slots, with barriers and epilogue program at their start. -/
structure Comb.Starts (s : State) (l : Launch) (i k : Nat) (off : Bool) (c : Comb) : Prop where
  place : c.launch = l.num ∧ c.core = k ∧ c.offh = off
  grid  : c.cx = i % l.gx ∧ c.cy = i / l.gx % l.gy ∧ c.cz = i / (l.gx * l.gy)
  sizes : c.regs = l.regs ∧ c.scratch = l.scratch ∧ c.lanes = l.lanes
  slots : c.slots.length = l.g + l.shadow ∧ (∀ y ∈ c.slots, y ∈ s.freeSlots k) ∧ c.shadow.length = l.shadow
  win   : s.runFree k c.spOff l.scratch = true
  parts : c.bars = List.replicate 16 { expect := BitVec.ofNat 32 l.lanes } ∧ c.eprog = List.replicate 64 0 ∧ c.tiles = []
  groups : c.groups = s.startGroups l k

/-- The comb that starts is the only new one, the full/empty bits of its window are empty, and the device is in A0. -/
theorem State.startComb_comb {s : State} {l : Launch} {i k : Nat} (off : Bool) (h : s.fitsLaunch l k = true) :
    let t := s.startComb l i k off
    ∃ c, t.combs = s.combs ++ [c] ∧ c.Starts s l i k off
      ∧ (∀ w, k * 2 ^ 18 + c.spOff / 4 ≤ w → w < k * 2 ^ 18 + (c.spOff + l.scratch) / 4 → w ∉ t.full) := by
  obtain ⟨hslots, hrun⟩ := State.fitsLaunch_room h
  have hsame : ∀ (u : State) (f : Launch → Launch), (if l.started.contains i then u else u.modLaunch l.num f).combs = u.combs
      ∧ (if l.started.contains i then u else u.modLaunch l.num f).full = u.full := by
    intro u f
    split <;> exact ⟨rfl, rfl⟩
  intro t
  refine ⟨_, (hsame _ _).1, ⟨⟨rfl, rfl, rfl⟩, ⟨rfl, rfl, rfl⟩, ⟨rfl, rfl, rfl⟩, ⟨?_, fun y hy => List.mem_of_mem_take hy, ?_⟩, hrun, ⟨rfl, rfl, rfl⟩, rfl⟩,
    fun w hlo hhi hw => ?_⟩
  · rw [List.length_take]
    omega
  · rw [List.length_take, List.length_drop]
    omega
  · rw [show t.full = _ from (hsame _ _).2, List.mem_filter] at hw
    obtain ⟨-, hout⟩ := hw
    dsimp only at hlo hhi
    simp only [Bool.not_eq_true', Bool.and_eq_false_iff, decide_eq_false_iff_not] at hout
    omega

theorem State.awake_astate (s : State) : s.awake.dev.astate = 0 := by
  unfold State.awake
  split
  · next h => exact beq_iff_eq.mp h
  · rfl

theorem State.awake_offhome (s : State) : s.awake.dev.offhome = s.dev.offhome := by
  unfold State.awake
  split <;> rfl

theorem State.awake_launches (s : State) : s.awake.launches = s.launches := by
  unfold State.awake
  split <;> rfl

theorem State.awake_dists (s : State) : s.awake.dists = s.dists := by
  unfold State.awake
  split <;> rfl

theorem State.startComb_dev (s : State) (l : Launch) (i k : Nat) (off : Bool) : (s.startComb l i k off).dev = s.awake.dev := by
  unfold State.startComb
  dsimp only
  split <;> rfl

theorem State.startComb_dists (s : State) (l : Launch) (i k : Nat) (off : Bool) : (s.startComb l i k off).dists = s.dists := by
  refine Eq.trans ?_ s.awake_dists
  unfold State.startComb
  dsimp only
  split <;> rfl

/-- A change of a launch that keeps its number is found under that number. -/
theorem State.launch?_modLaunch {s : State} {l : Launch} {f : Launch → Launch} (hf : ∀ l, (f l).num = l.num) (h : s.launch? l.num = some l) :
    (s.modLaunch l.num f).launch? l.num = some (f l) := by
  have hcomp : ((fun y : Launch => y.num == l.num) ∘ fun y => if y.num == l.num then f y else y) = fun y => y.num == l.num := by
    funext y
    by_cases hy : y.num = l.num <;> simp [hy, hf]
  rw [State.launch?] at h
  rw [State.launch?, State.modLaunch, List.find?_map, hcomp, h, Option.map_some]
  simp

/-- The comb counts as started. -/
theorem State.startComb_started {s : State} {l : Launch} {i k : Nat} {off : Bool} (h : s.launch? l.num = some l) :
    ∃ m, (s.startComb l i k off).launch? l.num = some m ∧ i ∈ m.started := by
  rw [State.launch?, ← State.awake_launches] at h
  unfold State.startComb
  dsimp only
  split
  · next hi => exact ⟨l, h, List.contains_iff_mem.mp hi⟩
  · refine ⟨_, State.launch?_modLaunch (fun _ => rfl) h, ?_⟩
    simp

end Sys2Proof.Machine
end

section
/-! Dispatch, comb start and stealing: the statement O47. -/

namespace Sys2Proof.Machine

/-- What a started comb's groups are (R13, R15). -/
theorem Comb.Starts.group {s : State} {l : Launch} {i k : Nat} {off : Bool} {c : Comb} (h : c.Starts s l i k off) {j : Nat} {g : Group}
    (hg : c.group? j = some g) : j < l.g ∧ 32 * j < l.lanes ∧ g.Fresh l j := by
  rw [Comb.group?, h.groups] at hg
  have hj : g.gidx = j := beq_iff_eq.mp (List.find?_some (p := fun x : Group => x.gidx == j) hg)
  have hmem := State.mem_startGroups (List.mem_of_find?_eq_some hg)
  rwa [hj] at hmem

theorem Comb.Starts.group_isSome {s : State} {l : Launch} {i k : Nat} {off : Bool} {c : Comb} (h : c.Starts s l i k off) {j : Nat}
    (hg : j < l.g) (hl : 32 * j < l.lanes) : (c.group? j).isSome := by
  rw [Comb.group?, h.groups]
  exact State.startGroups_some hg hl

/-- The distributor's choice starts (R34, R38). -/
theorem State.dispatch_chosen {s : State} {h i k : Nat} {l : Launch}
    (hc : ((s.headsAt h).filter fun x => x.1.pclass == State.topClass (s.headsAt h)).findSome?
      (fun x => (s.bestCore x.1 (s.candidates x.1 x.2).2).map fun k => (x, k)) = some ((l, i), k)) :
    s.dispatch h = s.startComb l i k false ∧ s.fitsLaunch l k = true := by
  refine ⟨by simp only [State.dispatch, hc], ?_⟩
  obtain ⟨x, -, hx⟩ := List.exists_of_findSome?_eq_some hc
  obtain ⟨k', hk, heq⟩ := Option.map_eq_some_iff.mp hx
  obtain ⟨rfl, rfl⟩ := Prod.mk.inj heq
  exact State.bestCore_fits hk

theorem foldl_max_le_iff {l : List Nat} {a b : Nat} : l.foldl max a ≤ b ↔ a ≤ b ∧ ∀ x ∈ l, x ≤ b := by
  induction l generalizing a with
  | nil => simp
  | cons x xs ih => rw [List.foldl_cons, ih, Nat.max_le, List.forall_mem_cons, and_assoc]

/-- In an ascending list the first element of a value is the least one. -/
theorem find?_least {f : Nat → Nat} {l : List Nat} {v : Nat} (hs : l.Pairwise (· < ·)) (hv : v ∈ l) (hmin : ∀ w ∈ l, f w = f v → v ≤ w) :
    (l.find? fun w => f w == f v) = some v := by
  induction l with
  | nil => cases hv
  | cons x xs ih =>
    obtain ⟨hx, hxs⟩ := List.pairwise_cons.mp hs
    rw [List.find?_cons]
    rcases List.mem_cons.mp hv with rfl | hv'
    · simp
    · have hne : f x ≠ f v := fun he => Nat.not_lt.mpr (hmin x List.mem_cons_self he) (hx v hv')
      simp only [ih hxs hv' fun w hw => hmin w (List.mem_cons_of_mem x hw), beq_eq_false_iff_ne.mpr hne]

/-- The distributors other than one, as STEAL_REQUEST asks them. -/
def State.others (h : Nat) : List Nat := [0, 1, 2, 3].filter fun v => v != h

/-- A dry distributor asks the one with the most queued combs, of equals the lowest (R39). -/
theorem State.stealRequest_asks {s : State} {h v : Nat} (hh : h < 4) (hvic : (s.dist h).victim = none) (hsil : (s.dist h).silent = none)
    (hdry : s.headsAt h = []) (hcore : ∃ c < 256, hiveOf c = h ∧ s.freeSlots c ≠ []) (hv : v ∈ State.others h) (hq : s.queuedAt v ≠ 0)
    (hmost : ∀ w ∈ State.others h, s.queuedAt w ≤ s.queuedAt v ∧ (s.queuedAt w = s.queuedAt v → v ≤ w)) :
    s.stealRequest h = s.modDist h fun d => { d with victim := some v } := by
  have hmax : ((State.others h).map fun w => s.queuedAt w).foldl max 0 = s.queuedAt v := by
    refine Nat.le_antisymm (foldl_max_le_iff.mpr ⟨Nat.zero_le _, ?_⟩) ((foldl_max_le_iff.mp le_rfl).2 _ (List.mem_map_of_mem hv))
    simpa using fun w hw => (hmost w hw).1
  have hfirst : ((State.others h).find? fun w => s.queuedAt w == s.queuedAt v) = some v :=
    find?_least (List.Pairwise.filter _ (by decide)) hv fun w hw => (hmost w hw).2
  have hfree : ((State.hiveCores h).any fun c => !(s.freeSlots c).isEmpty) = true := by
    obtain ⟨c, hc, hive, hne⟩ := hcore
    exact List.any_eq_true.mpr ⟨c, List.mem_filter.mpr ⟨List.mem_range.mpr hc, by simpa using hive⟩, by simpa using hne⟩
  rw [State.others] at hmax hfirst
  have hgo : ¬ (decide (4 ≤ h) || (s.dist h).victim.isSome || (s.dist h).silent.isSome || !(s.headsAt h).isEmpty
      || !((State.hiveCores h).any fun c => !(s.freeSlots c).isEmpty)) = true := by
    simp [Nat.not_le.mpr hh, hvic, hsil, hdry, hfree]
  rw [State.stealRequest]
  refine (if_neg hgo).trans ?_
  simp only [hmax, hq, if_false, hfirst]

/-- The combs at a victim that fit a core of the thief's hive. -/
def State.stealable (s : State) (h v : Nat) : List (Launch × Nat) :=
  (s.headsAt v).filter fun x => (State.rectCores x.1).any fun c => hiveOf c == h && s.fitsLaunch x.1 c

section
variable {s : State} {h v : Nat} (hvic : (s.dist h).victim = some v) (hans : (s.dist h).answer = none)
include hvic hans

theorem State.stealAnswer_silent (hf : s.stealable h v = []) :
    s.stealAnswer h = s.modDist h fun d => { d with victim := none, silent := some (s.clk.cycle + 512) } := by
  rw [State.stealable] at hf
  simp only [State.stealAnswer, hvic, hans, hf, List.find?_nil]

theorem State.stealAnswer_comb {l : Launch} {i : Nat}
    (hf : (s.stealable h v).find? (fun x => x.1.pclass == State.topClass (s.stealable h v)) = some (l, i)) :
    s.stealAnswer h
      = (s.modLaunch l.num fun l => { l with started := l.started ++ [i] }).modDist h fun d => { d with answer := some (some (l.num, i)) } := by
  rw [State.stealable] at hf
  simp only [State.stealAnswer, hvic, hans, hf]

end

theorem State.dist_modDist_same {s : State} {h : Nat} (f : Dist → Dist) (hl : h < s.dists.length) : (s.modDist h f).dist h = f (s.dist h) := by
  simp [State.modDist, State.dist, setAt_eq_set, hl]

/-- The state once a stolen comb has been placed on core `k`. -/
def State.stolenAt (s : State) (h i k : Nat) (l : Launch) : State :=
  let t := (s.startComb l i k true).modDist h fun _ => {}
  { t with dev := { t.dev with offhome := setAt t.dev.offhome h (getAt t.dev.offhome h + 1) } }

theorem State.placeStolen_places {s : State} {h i k : Nat} {l : Launch} (hans : (s.dist h).answer = some (some (l.num, i)))
    (hl : s.launch? l.num = some l) (ha : l.aborted = false) (hp : (s.ctx l.ctx).pstate = 0)
    (hb : s.bestCore l ((State.rectCores l).filter fun c => hiveOf c == h) = some k) : s.placeStolen h = s.stolenAt h i k l := by
  have hfrozen : s.frozen l.ctx = false := by simp [State.frozen, hp]
  simp only [State.placeStolen, hans, hl, ha, hfrozen, hb, Bool.false_eq_true, if_false]
  rfl

theorem State.stolenAt_dist {s : State} {h i k : Nat} {l : Launch} (hh : h < s.dists.length) : (s.stolenAt h i k l).dist h = {} :=
  State.dist_modDist_same (s := s.startComb l i k true) (fun _ => {}) (by rw [State.startComb_dists]; exact hh)

theorem State.stolenAt_offhome {s : State} {h i k : Nat} {l : Launch} (hh : h < s.dev.offhome.length) :
    getAt (s.stolenAt h i k l).dev.offhome h = getAt s.dev.offhome h + 1 := by
  have hoff : (s.startComb l i k true).dev.offhome = s.dev.offhome := by rw [State.startComb_dev, State.awake_offhome]
  change getAt (setAt (s.startComb l i k true).dev.offhome h (getAt (s.startComb l i k true).dev.offhome h + 1)) h = _
  rw [hoff, getAt_setAt_same, if_pos hh]

theorem State.silenceEnds_over {s : State} {h n : Nat} (hs : (s.dist h).silent = some n) (hn : n ≤ s.clk.cycle) :
    s.silenceEnds h = s.modDist h fun d => { d with silent := none } := by
  simp only [State.silenceEnds, hs, hn, if_true]

/-- Settles O47: a comb of the distributor's choice, the request of a dry distributor, the victim's answer, the place of a
stolen comb and the end of a silence. -/
theorem dispatchAndSteal : Obligations.DispatchAndSteal := by
  unfold Obligations.DispatchAndSteal
  intro s h hh h4 d others started
  have starts : ∀ l i k off (t : State), s.fitsLaunch l k = true → t.combs = (s.startComb l i k off).combs → t.full = (s.startComb l i k off).full →
      started l i k off t := by
    intro l i k off t hfits hcombs hfull
    obtain ⟨c, hc, h, hw⟩ := State.startComb_comb off hfits
    obtain ⟨hlaunch, hcore, hoff⟩ := h.place
    obtain ⟨hx, hy, hz⟩ := h.grid
    obtain ⟨hregs, hscratch, hlanes⟩ := h.sizes
    obtain ⟨hslots, hfree, hshadow⟩ := h.slots
    obtain ⟨hbars, heprog, htiles⟩ := h.parts
    refine ⟨c, hcombs.trans hc, hlaunch, hcore, hoff, hx, hy, hz, hregs, hscratch, hlanes, hslots, hfree, hshadow, h.win, hbars, heprog, htiles,
      fun j g hg => ?_, fun j => h.group_isSome, fun w => hfull ▸ hw w⟩
    obtain ⟨hj, hlj, hfresh⟩ := h.group hg
    obtain ⟨hs, hx, hq⟩ := hfresh.regs
    obtain ⟨hlogw, hnf, hseed, hgang, hprio, hclosed, hdone⟩ := hfresh.modes
    exact ⟨hj, hlj, hfresh.lanes, hs, hx, hq, hlogw, hnf, hseed, hgang, hprio, hclosed, hdone, hfresh.path⟩
  refine ⟨?_, fun v hvic hsil hdry hcore hv hq hmost => ?_, fun v hvic hans => ⟨fun hf => ?_, fun l i hf => ?_⟩,
    fun l i k hans hl ha hp hb hoff => ?_, fun n hs hn => ?_⟩
  · intro l i k hs hc hl
    obtain ⟨heq, hfits⟩ := State.dispatch_chosen hc
    obtain ⟨m, hm, him⟩ := State.startComb_started hl
    refine ⟨_, m, congrArg Host.Outcome.next heq, starts l i k false _ hfits rfl rfl, hm, him, ?_⟩
    rw [State.startComb_dev, State.awake_astate]
  · exact congrArg Host.Outcome.next (State.stealRequest_asks hh hvic hsil hdry hcore hv hq hmost)
  · exact congrArg Host.Outcome.next (State.stealAnswer_silent hvic hans hf)
  · exact congrArg Host.Outcome.next (State.stealAnswer_comb hvic hans hf)
  · exact ⟨s.stolenAt h i k l, congrArg Host.Outcome.next (State.placeStolen_places hans hl ha hp hb),
      starts l i k true _ (State.bestCore_fits hb) rfl rfl, State.stolenAt_dist (h4 ▸ hh), State.stolenAt_offhome (hoff ▸ hh)⟩
  · exact congrArg Host.Outcome.next (State.silenceEnds_over hs hn)

end Sys2Proof.Machine
end

section
/-! mfs of BATCH by a continuation notes the value that it reads (R316), which the statement O7 leaves out: its refutation. -/

namespace Sys2Proof.Machine

/-- mfs s4, BATCH. -/
def readBatch : Form := { dst := .scal 4, s0 := .spec .batch }

/-- A group whose fcall has forked: the callee runs as path 0, and path 6 is the continuation of fork 9. -/
def Group.forkedOnce (g : Group) : Group :=
  { g with
    paths := g.paths ++ [{ pix := 6, kind := .cont, pl := 0xFFFFFFFF, exm := 0xFFFFFFFF, arrived := true }]
    forks := [{ num := 9, site := 0, shadow := 1, pix := 6, lanes := 0xFFFFFFFF }] }

/-- A device with one comb, whose continuation stands at mfs of BATCH and is chosen. -/
def contAtBatch : State :=
  let s := (State.reset.withFetchWord 96 (encodeOp .mfs readBatch).toNat).modGroup 1 0 Group.forkedOnce
  { s with clk := { s.clk with issuing := [], cur := some { comb := 1, group := 0, path := 6 } } }

/-- What that continuation sees as it issues. -/
def contEnv : Env := contAtBatch.env?.getD default

theorem contAtBatch_ready : Ready contAtBatch contEnv .mfs readBatch where
  env := by decide +kernel
  legal := by decide +kernel
  last := by decide +kernel
  goes := by decide +kernel

theorem contEnv_checked : contEnv.check [] readBatch.dst {} = none := by decide +kernel

theorem contEnv_free : contEnv.contStalls [] (contEnv.scalarWrites readBatch (batchOf contEnv.g)) = false := by decide +kernel

/-- The values of BATCH that the continuations of a state's combs have read. -/
def State.batchesRead (s : State) : List (List (List W64)) := s.combs.map fun c => (c.groups.map fun g => g.forks.map fun k => k.batches).flatten

/-- Those values in the state that a step answers. -/
def readIn : Out State → Option (List (List (List W64)))
  | .next t => some t.batchesRead
  | _ => none

/-- In the model the continuation's fork notes the value that it read. -/
theorem contAtBatch_notes : readIn (exec (.mfs readBatch) contAtBatch) = some [[[0]]] := by decide +kernel

/-- In a state in which mfs has only issued, the fork has noted nothing. -/
theorem contEnv_issued_notes (fl : Flight) : (contEnv.issuedWith readBatch [] false fl).batchesRead = [[[]]] := by
  rfl

/-- Refutes O7 in its clause on mfs, for BATCH read by a continuation: the fork notes the value, since it may commit only if
BATCH still has it then (R316), and RegRow with the environment of the issue allows no such note. -/
theorem not_specialRowsComplete : ¬ Obligations.SpecialRowsComplete := by
  unfold Obligations.SpecialRowsComplete
  intro h
  obtain ⟨-, hmfs, -⟩ := h contAtBatch contEnv readBatch
  obtain ⟨fl, hx, -⟩ := hmfs .batch rfl contAtBatch_ready contEnv_checked contEnv_free
  have hread := contAtBatch_notes
  rw [show Instr.mfs readBatch = Op.mk .mfs readBatch from rfl, hx] at hread
  have hnone := contEnv_issued_notes fl
  simp [readIn, hnone] at hread
end Sys2Proof.Machine
end

section
/-! An arm at its JOIN bundle where another path has the other arm's index: the statement O48 and its refutation. -/

namespace Sys2Proof.Machine

/-- The arm that stands at the JOIN bundle. -/
def arrivingArm : Path := { pix := 0, kind := .arm, pl := 0xF, exm := 0xF }

/-- The other arm, which has waited at another JOIN bundle. -/
def waitingArm : Path := { pix := 1, kind := .arm, pl := 0xF0, exm := 0xF0, pc := 64, wait := .point }

/-- A path in a rendezvous latch, with the index of the waiting arm. -/
def twinPath : Path := { pix := 1, pl := 0xF00, exm := 0xF00, pc := 128, wait := .gang }

/-- A group with a dual path of split id 5 in which the waiting arm's index is held by two paths. -/
def Group.withTwin (g : Group) : Group := { g with dual := some (5, 0), paths := [twinPath, arrivingArm, waitingArm] }

/-- The instruction line at address 0: its first bundle has JOIN with id 5 and no valid slot. -/
def joinLine : ILine := { core := 0, asid := 0, line := 0, data := leBytes 16 ((1 + 2 * 5) * 2 ^ 96) ++ List.replicate 240 0 }

/-- A device with one comb whose group has the twin paths, and with that line in its core's instruction cache. -/
def twinsAtJoin : State :=
  let s := ((State.reset.withFetchWord 96 0).modGroup 1 0 Group.withTwin).modLaunch 2 fun l => { l with desc := { l.desc with codelen := 256 } }
  { s with clk := { s.clk with issuing := [] }, coh := { s.coh with il := [joinLine] } }

/-- The arriving arm, and what finds the waiting arm. -/
def arrivingRef : PathRef := { comb := 1, group := 0, path := 0 }
def waitingRef : PathRef := { arrivingRef with path := waitingArm.pix }

/-- The parts of that device. -/
def twinComb : Comb := (twinsAtJoin.comb? 1).getD default
def twinLaunch : Launch := (twinsAtJoin.launch? 2).getD default
def twinGroup : Group := (twinsAtJoin.group? 1 0).getD default
def twinBundle : Bundle := (twinsAtJoin.bundleAt 0 0 0).getD default

/-- How the first path of the waiting arm's index waits in the state that a step answers. -/
def waitIn : Out State → Option Wait
  | .next t => (t.path? waitingRef).map fun q => q.wait
  | _ => none

theorem twinsAtJoin_parts : twinsAtJoin.comb? 1 = some twinComb ∧ twinsAtJoin.launch? twinComb.launch = some twinLaunch
    ∧ twinComb.group? 0 = some twinGroup ∧ twinGroup.path? 0 = some arrivingArm ∧ twinLaunch.aborted = false
    ∧ (twinsAtJoin.ctx twinLaunch.ctx).pstate = 0 ∧ twinsAtJoin.bundleAt twinComb.core (twinsAtJoin.asid twinLaunch.ctx) arrivingArm.pc = some twinBundle := by
  decide +kernel

theorem twinsAtJoin_arm : twinLaunch.desc.codebase ≤ arrivingArm.pc ∧ arrivingArm.pc < twinLaunch.desc.codebase + twinLaunch.desc.codelen
    ∧ twinBundle.join = true ∧ twinGroup.hasSide arrivingArm = false ∧ twinGroup.dual = some (twinBundle.joinId, 0)
    ∧ twinGroup.otherArm arrivingArm = some waitingArm := by decide +kernel

/-- The waiting arm is released, but the path that its index finds goes on waiting. -/
theorem twinsAtJoin_waits : waitIn (exec (.bundleArrival arrivingRef) twinsAtJoin) = some .gang := by decide +kernel

/-- Refutes O48 in its clause on an arm that releases the other one (R154): the clause takes the other arm as it stands in the
group's list and then looks the released path up by index. It is stated of every state, so also of one in which an earlier
path has the same index: that path is found, and it still waits. The state is no state of R173's six paths, which have
distinct indexes; the statement assumes nothing of the kind. -/
theorem not_pathEventsComplete : ¬ Obligations.PathEventsComplete := by
  unfold Obligations.PathEventsComplete
  intro h
  obtain ⟨-, -, harrive, -⟩ := h twinsAtJoin arrivingRef
  obtain ⟨hc, hl, hg, hp, ha, hps, hb⟩ := twinsAtJoin_parts
  obtain ⟨hlo, hhi, hjoin, hside, hdual, hother⟩ := twinsAtJoin_arm
  obtain ⟨-, -, harms, -⟩ := harrive _ _ _ _ _ hc hl hg hp rfl rfl rfl ha hps hb
  obtain ⟨-, -, hfree⟩ := harms 0 waitingArm hlo hhi hjoin rfl hside rfl hdual rfl hother
  obtain ⟨t, q, hx, -, hq, hrun, -⟩ := hfree ⟨rfl, rfl, rfl⟩ (by decide) rfl
  have hfound : t.path? waitingRef = some q := hq
  have hwait := twinsAtJoin_waits
  rw [hx, waitIn, hfound, Option.map_some, hrun] at hwait
  cases hwait

end Sys2Proof.Machine
end

section
/-! Instruction words and their forms: each field of a word has one spelling (R99 to R103, R113, R114). The statements O35 and
O34. -/

namespace Sys2Proof

/-! ### Operand codes (R100 to R103) -/

@[simp] theorem SReg.ofCode_code (r : SReg) : SReg.ofCode r.code = some r := by cases r <;> rfl

theorem SReg.code_lt (r : SReg) : r.code < 256 := by cases r <;> decide

theorem SReg.code_of_ofCode {i : Nat} {r : SReg} (h : SReg.ofCode i = some r) : r.code = i := by
  unfold SReg.ofCode at h
  split at h <;> cases h <;> rfl

theorem Src.encode_lt (s : Src) : s.encode < 1024 := by
  cases s with
  | spec r => have := r.code_lt; simp only [Src.encode]; omega
  | _ => simp only [Src.encode]; omega

theorem Dst.encode_lt (d : Dst) : d.encode < 1024 := by
  cases d with
  | spec r => have := r.code_lt; simp only [Dst.encode]; omega
  | _ => simp only [Dst.encode]; omega

/-- A source field that names an operand is the operand's code; the index fields are small enough to go through. -/
theorem Src.decode_encode (s : Src) : Src.decode s.encode = some s := by
  cases s with
  | vec n =>
    have hk : n.toNat / 256 = 0 := by omega
    have hi : n.toNat % 256 = n.toNat := by omega
    simp only [Src.encode, Src.decode, hk, hi, BitVec.ofNat_toNat, BitVec.setWidth_eq]
  | scal n => revert n; decide
  | latch k => revert k; decide
  | pred n => revert n; decide
  | idx k => revert k; decide
  | vecAt k => revert k; decide
  | acc n => revert n; decide
  | spec r => cases r <;> rfl
  | immS | immZ | immF | immH => rfl

theorem Dst.decode_encode (d : Dst) : Dst.decode d.encode = some d := by
  cases d with
  | vec n =>
    have hk : n.toNat / 256 = 0 := by omega
    have hi : n.toNat % 256 = n.toNat := by omega
    simp only [Dst.encode, Dst.decode, hk, hi, BitVec.ofNat_toNat, BitVec.setWidth_eq]
  | none j =>
    have hk : (0x300 + j.toNat) / 256 = 3 := by omega
    have hi : (0x300 + j.toNat) % 256 = j.toNat := by omega
    simp only [Dst.encode, Dst.decode, hk, hi, BitVec.ofNat_toNat, BitVec.setWidth_eq]
  | scal n => revert n; decide
  | pred n => revert n; decide
  | idx k => revert k; decide
  | vecAt k => revert k; decide
  | acc n => revert n; decide
  | spec r => cases r <;> rfl

/-- Only its own code is read as an operand: the decoder takes no second spelling. -/
theorem Src.encode_of_decode {w : Nat} {s : Src} (h : Src.decode w = some s) : s.encode = w := by
  simp only [Src.decode] at h
  split at h
  · cases h; simp only [Src.encode, BitVec.toNat_ofNat]; omega
  · split at h
    · cases h; simp only [Src.encode, BitVec.toNat_ofNat]; omega
    · cases h
  · repeat' split at h
    case isFalse =>
      obtain ⟨r, hr, rfl⟩ := Option.map_eq_some_iff.mp h
      have := SReg.code_of_ofCode hr
      simp only [Src.encode]; omega
    all_goals cases h
    all_goals simp only [Src.encode, BitVec.toNat_ofNat]; omega
  · split at h
    all_goals cases h
    all_goals simp only [Src.encode]; omega
  · cases h

theorem Dst.encode_of_decode {w : Nat} {d : Dst} (h : Dst.decode w = some d) : d.encode = w := by
  simp only [Dst.decode] at h
  split at h
  · cases h; simp only [Dst.encode, BitVec.toNat_ofNat]; omega
  · split at h
    · cases h; simp only [Dst.encode, BitVec.toNat_ofNat]; omega
    · cases h
  · repeat' split at h
    case isFalse =>
      obtain ⟨r, hr, rfl⟩ := Option.map_eq_some_iff.mp h
      have := SReg.code_of_ofCode hr
      simp only [Dst.encode]; omega
    all_goals cases h
    all_goals simp only [Dst.encode, BitVec.toNat_ofNat]; omega
  · cases h; simp only [Dst.encode, BitVec.toNat_ofNat]; omega
  · cases h

/-! ### Types (R114) -/

/-- The TY column of a row: the types that its entry allows. -/
def Op.typed (o : Op) (t : Ty) : Bool :=
  match o with
  | .sadd | .ssub | .smul | .smad | .smm | .scmp | .cmp => t.wideInt
  | .sshf | .sbit | .bit | .shf | .add | .sub | .mul | .mad | .mm | .dot4 => t.int
  | .fadd | .fmul | .fma | .fmm | .fcmp | .fsf | .fcls | .fsgn | .bmax => t.float
  | .red | .scan => t.wideInt || t.float
  | .ld | .ldZ | .st | .stmc | .atom | .cas | .ldfeTake | .ldfePeek | .stfe | .stfeForce => t.access
  | .ldsc | .stsc => t == .sc
  | _ => t == .none

/-- Each entry names its types; what else it asks of the fields plays no part. -/
theorem Op.typed_of_legal {o : Op} {f : Form} (h : o.legal f = true) : o.typed f.ty = true := by
  have h : o.fieldsOk f = true := (Bool.and_eq_true_iff.mp h).2
  cases o
  all_goals simp only [Op.typed, Op.fieldsOk, transferOk, floatOk, blockOk, reduceOk, storeOk, loadOk, barOk, Bool.and_eq_true,
    Bool.or_eq_true, beq_iff_eq] at h ⊢
  all_goals grind [Ty.int, Ty.wideInt, Ty.float, Ty.access]

theorem Ty.int_of_wideInt {t : Ty} (h : t.wideInt = true) : t.int = true := by
  cases t with
  | i32 | i64 | n32 | n64 => rfl
  | none | i8 | i16 | n8 | n16 | f32 | f16 | bf16 | b8 | b16 | b32 | b64 | b128 | sc => cases h

theorem Ty.arith_code {t : Ty} (h : t.int = true ∨ t.float = true) : Ty.arith t.code = some t := by
  cases t with
  | none | i8 | i16 | i32 | i64 | n8 | n16 | n32 | n64 | f32 | f16 | bf16 => rfl
  | b8 | b16 | b32 | b64 | b128 | sc => rcases h with h | h <;> cases h

theorem Ty.ofAccess_code {t : Ty} (h : t.access = true) : Ty.ofAccess t.code = some t := by
  cases t with
  | b8 | b16 | b32 | b64 | b128 => rfl
  | none | i8 | i16 | i32 | i64 | n8 | n16 | n32 | n64 | f32 | f16 | bf16 | sc => cases h

/-- Through the table of its row's family a type is read back from its code. -/
theorem Op.decode_code_of_typed {o : Op} {t : Ty} (h : o.typed t = true) : Ty.decode o.opc t.code = some t := by
  cases o
  case sadd | ssub | smul | smad | smm | scmp | cmp => exact Ty.arith_code (.inl (Ty.int_of_wideInt h))
  case sshf | sbit | bit | shf | add | sub | mul | mad | mm | dot4 => exact Ty.arith_code (.inl h)
  case fadd | fmul | fma | fmm | fcmp | fsf | fcls | fsgn | bmax => exact Ty.arith_code (.inr h)
  case red | scan => exact Ty.arith_code ((Bool.or_eq_true_iff.mp h).imp_left Ty.int_of_wideInt)
  case ld | ldZ | st | stmc | atom | cas | ldfeTake | ldfePeek | stfe | stfeForce => exact Ty.ofAccess_code h
  all_goals rw [eq_of_beq h]; rfl

theorem Ty.code_lt (t : Ty) : t.code < 16 := by cases t <;> decide

theorem Ty.code_of_arith {n : Nat} {t : Ty} (h : Ty.arith n = some t) : t.code = n := by
  unfold Ty.arith at h
  split at h <;> cases h <;> rfl

theorem Ty.code_of_ofAccess {n : Nat} {t : Ty} (h : Ty.ofAccess n = some t) : t.code = n := by
  unfold Ty.ofAccess at h
  split at h <;> cases h <;> rfl

theorem Ty.code_of_decode {opc n : Nat} {t : Ty} (h : Ty.decode opc n = some t) : t.code = n := by
  unfold Ty.decode at h
  split at h
  · exact Ty.code_of_ofAccess h
  · exact Ty.code_of_ofAccess h
  · split at h
    · next hn => cases h; exact hn.symm
    · cases h
  · split at h
    · next hn => cases h; exact hn.symm
    · cases h
  · exact Ty.code_of_arith h

/-! ### Rows (R113) -/

theorem Op.opc_lt (o : Op) : o.opc < 256 := by cases o <;> decide

/-- A row's OPC and any SUB of it select the row. -/
theorem Op.select_opc (o : Op) {sub : BitVec 6} (h : o.subOk sub = true) : Op.select o.opc sub Op.all = some o := by
  revert sub
  cases o <;> decide

/-- What an OPC and a SUB select is a row of that OPC. -/
theorem Op.opc_of_select {n : Nat} {sub : BitVec 6} {os : List Op} {o : Op} (h : Op.select n sub os = some o) : o.opc = n := by
  induction os with
  | nil => cases h
  | cons p os ih =>
    rw [Op.select] at h
    split at h
    · next hp => cases h; simp only [Bool.and_eq_true, beq_iff_eq] at hp; exact hp.1
    · exact ih h

theorem Op.form?_mk (o : Op) (f : Form) : (Op.mk o f).form? = some (o, f) := by cases o <;> rfl

theorem encode_mk (o : Op) (f : Form) : encode (Op.mk o f) = [encodeOp o f] := by
  simp only [encode, Op.form?_mk]

theorem wellFormed_mk (o : Op) (f : Form) : (Op.mk o f).wellFormed = o.legal f := by
  simp only [Instr.wellFormed, Op.form?_mk]

/-! ### The fields of a word (R99) -/

/-- What stands in each field of the word of a row, but for OPC and SUB (`Laws.Encoding.word_opc`, `word_sub`) and the
single bits. -/
theorem encodeOp_fields (o : Op) (f : Form) :
    (encodeOp o f).extractLsb' 78 4 = BitVec.ofNat 4 f.ty.code
    ∧ (encodeOp o f).extractLsb' 74 4 = f.pred
    ∧ (encodeOp o f).extractLsb' 64 10 = BitVec.ofNat 10 f.dst.encode
    ∧ (encodeOp o f).extractLsb' 53 10 = BitVec.ofNat 10 f.s0.encode
    ∧ (encodeOp o f).extractLsb' 43 10 = BitVec.ofNat 10 f.s1.encode
    ∧ (encodeOp o f).extractLsb' 33 10 = BitVec.ofNat 10 f.s2.encode
    ∧ (encodeOp o f).extractLsb' 0 32 = f.imm := by
  unfold encodeOp
  refine ⟨?_, ?_, ?_, ?_, ?_, ?_, ?_⟩
  all_goals simp (disch := omega) only [BitVec.extractLsb'_append_eq_of_add_le, BitVec.extractLsb'_append_eq_of_le]
  all_goals exact BitVec.extractLsb'_eq_self

theorem encodeOp_bits (o : Op) (f : Form) : (encodeOp o f).getLsbD 63 = f.nwb ∧ (encodeOp o f).getLsbD 32 = f.mod := by
  unfold encodeOp
  simp only [BitVec.getLsbD_append]
  exact ⟨by simp, by simp⟩

theorem ofBool_getLsbD {n : Nat} (w : BitVec n) (i : Nat) : BitVec.ofBool (w.getLsbD i) = w.extractLsb' i 1 := by
  apply BitVec.eq_of_getLsbD_eq
  intro j hj
  obtain rfl : j = 0 := by omega
  simp

/-- The bytes of a number give back what fits in them. -/
theorem leNat_leBytes (n v : Nat) : leNat (leBytes n v) = v % 256 ^ n := by
  induction n generalizing v with
  | zero => simp [leBytes, leNat, Nat.mod_one]
  | succ n ih =>
    have hb : (BitVec.ofNat 8 v).toNat = v % 256 := BitVec.toNat_ofNat v 8
    rw [leBytes, leNat, ih, hb, pow_succ', Nat.mod_mul]

theorem decodeTableWord_toNat (w : BitVec 96) : decodeTableWord 96 w.toNat = decodeWord w := by
  have hw : w.toNat % 2 ^ 96 = w.toNat := Nat.mod_eq_of_lt w.isLt
  have hb : (256 : Nat) ^ 12 = 2 ^ 96 := by norm_num
  rw [decodeTableWord, leNat_leBytes, hb, hw, hw, BitVec.ofNat_toNat, BitVec.setWidth_eq]

/-- The word that a legal form is written as holds that form. -/
theorem decodeForm_encodeOp {o : Op} {f : Form} (h : o.legal f = true) : decodeForm (encodeOp o f) = some f := by
  obtain ⟨hty, hpred, hdst, hs0, hs1, hs2, himm⟩ := encodeOp_fields o f
  obtain ⟨hnwb, hmod⟩ := encodeOp_bits o f
  have hread : Ty.decode o.opc f.ty.code = some f.ty := Op.decode_code_of_typed (Op.typed_of_legal h)
  unfold decodeForm
  simp only [Laws.Encoding.word_opc, Laws.Encoding.word_sub, hty, hpred, hdst, hs0, hs1, hs2, himm, hnwb, hmod, BitVec.toNat_ofNat,
    Nat.mod_eq_of_lt o.opc_lt, Nat.mod_eq_of_lt f.ty.code_lt, Nat.mod_eq_of_lt (Dst.encode_lt _), Nat.mod_eq_of_lt (Src.encode_lt _), hread,
    Dst.decode_encode, Src.decode_encode]

theorem decodeOp_encodeOp {o : Op} {f : Form} (h : o.legal f = true) : decodeOp (encodeOp o f) = some (o, f) := by
  have hsub : o.subOk f.sub = true := (Bool.and_eq_true_iff.mp (Bool.and_eq_true_iff.mp h).1).1
  rw [decodeOp, decodeForm_encodeOp h]
  simp only [Laws.Encoding.word_opc, BitVec.toNat_ofNat, Nat.mod_eq_of_lt o.opc_lt, Op.select_opc o hsub, h, if_true]

/-- A word from which a form is read is the word that the form is written as with the word's OPC. -/
theorem encodeOp_of_decodeForm {w : BitVec 96} {o : Op} {f : Form} (h : decodeForm w = some f)
    (ho : o.opc = (w.extractLsb' 88 8).toNat) : encodeOp o f = w := by
  unfold decodeForm at h
  split at h
  · next ty d a b c hty hd ha hb hc =>
    cases h
    unfold encodeOp
    rw [ho, Ty.code_of_decode hty, Dst.encode_of_decode hd, Src.encode_of_decode ha, Src.encode_of_decode hb, Src.encode_of_decode hc]
    simp only [BitVec.ofNat_toNat, BitVec.setWidth_eq, ofBool_getLsbD]
    simp only [BitVec.extractLsb'_append_extractLsb'_eq_extractLsb']
    exact BitVec.extractLsb'_eq_self
  · cases h

theorem decodeOp_eq_some {w : BitVec 96} {o : Op} {f : Form} (h : decodeOp w = some (o, f)) : encodeOp o f = w ∧ o.legal f = true := by
  unfold decodeOp at h
  split at h
  · cases h
  · next g hg =>
    split at h
    · cases h
    · next p hp =>
      split at h
      · next hl => cases h; exact ⟨encodeOp_of_decodeForm hg (Op.opc_of_select hp), hl⟩
      · cases h

/-- Settles O35: a legal form is read back field by field, as its type is one of its row's table; and each field of a word
that is read has one spelling only. -/
theorem encodeDecodeAgree : Obligations.EncodeDecodeAgree := by
  unfold Obligations.EncodeDecodeAgree
  refine ⟨fun o f h => ?_, fun w i h => ?_⟩
  · rw [decodeTableWord_toNat, decodeWord, decodeOp_encodeOp h, Option.map_some]
  · obtain ⟨⟨o, f⟩, hof, rfl⟩ := Option.map_eq_some_iff.mp h
    obtain ⟨hw, hl⟩ := decodeOp_eq_some hof
    exact ⟨by rw [encode_mk, hw], by rw [wellFormed_mk, hl]⟩

/-- Settles O34: the three words are those of legal forms, which O35 reads back. -/
theorem workedEncodingsDecode : Obligations.WorkedEncodingsDecode := by
  unfold Obligations.WorkedEncodingsDecode
  have hread {o : Op} {f : Form} (hl : o.legal f = true) {n : Nat} (hw : (encodeOp o f).toNat = n) : decodeTableWord 96 n = some (Op.mk o f) :=
    hw ▸ encodeDecodeAgree.1 o f hl
  exact ⟨hread (o := .br) (by decide) (by decide), hread (o := .fmul) (by decide) (by decide), hread (o := .ld) (by decide) (by decide)⟩

end Sys2Proof
end

section
/-! Which instruction a step performs (R41, R288, R347): the statement O33. -/

namespace Sys2Proof.Machine

theorem State.awake_eq_roused (s : State) : s.awake = s.roused := by
  unfold State.awake State.roused
  split
  · next h => rw [← eq_of_beq h]
  · rfl

/-- What a step performs of a move that comes next. -/
def performed (x : Option Instr × State) : Out State :=
  match x with
  | (some i, s) => exec i s
  | (none, s) => .next s

theorem step_eq_performed (s : State) : step s = performed s.nextInstr := rfl

/-- A launch of the state has work to do, or ends (R347). -/
def State.Works (s : State) : Prop := ∃ l ∈ s.launches, l.gated = false ∨ l.aborted = true

theorem State.any_works (s : State) : (s.launches.any fun l => !l.gated || l.aborted) = true ↔ s.Works := by
  simp [State.Works]

/-- Which moves are performed while the device's own parts stand still, and in which state (R347). -/
theorem performed_moves (i : Instr) (s : State) :
    (s.dev.astate = 0 ∨ inside i = false → performed (s.moves i) = exec i s)
    ∧ (s.dev.astate ≠ 0 → inside i = true → s.Works → performed (s.moves i) = exec i s.roused)
    ∧ (s.dev.astate ≠ 0 → inside i = true → ¬ s.Works → (∀ n, i = .gateEvaluation n → performed (s.moves i) = exec i s)
        ∧ ((∀ n, i ≠ .gateEvaluation n) → performed (s.moves i) = .next s)) := by
  refine ⟨fun h => ?_, fun ha hi hw => ?_, fun ha hi hw => ?_⟩
  · have hgo : (s.dev.astate == 0 || !inside i) = true := by simpa using h
    unfold State.moves
    rw [if_pos hgo]
    rfl
  all_goals have hstop : ¬ (s.dev.astate == 0 || !inside i) = true := by rw [beq_false_of_ne ha, hi]; decide
  · unfold State.moves
    rw [if_neg hstop, if_pos (s.any_works.mpr hw), State.awake_eq_roused]
    rfl
  · unfold State.moves
    rw [if_neg hstop, if_neg (mt s.any_works.mp hw)]
    refine ⟨fun n hn => by subst hn; rfl, fun hn => ?_⟩
    split
    · next n => exact absurd rfl (hn n)
    · rfl

/-- An instruction in a slot is what its word decodes to. -/
theorem decodeWord_of_slotOp {b : Bundle} {k : Nat} {o : Op} {f : Form} (h : b.slotOp k = some (o, f)) :
    decodeWord (b.word k) = some (Op.mk o f) := by
  unfold Bundle.slotOp at h
  split at h
  · split at h
    · next p g hd =>
      split at h
      · cases h
      · cases h; rw [decodeWord, hd]; rfl
    · cases h
  · cases h

/-- Settles O33: a step performs what `nextInstr` gives it, which is the fetched instruction or the next move. -/
theorem stepRunsDecoded : Obligations.StepRunsDecoded := by
  unfold Obligations.StepRunsDecoded
  intro s works goes
  refine ⟨?_, ?_, ?_, ?_, ?_⟩
  · intro r rest e o f hr s1 he hk
    have hf : s1.fetched r = (some (Op.mk o f), s1) := by rw [State.fetched, he]; simp only [hk]
    refine ⟨he, ?_, decodeWord_of_slotOp hk⟩
    rw [step_eq_performed, State.nextInstr, hr]
    exact congrArg performed hf
  · intro r rest e hr s1 he hk
    have hf : s1.fetched r = (none, (e.raise { code := 0x01, lanes := e.p.exm, open_ := true }).rested) := by
      rw [State.fetched, he]; simp only [hk]; rfl
    rw [step_eq_performed, State.nextInstr, hr]
    exact congrArg performed hf
  · intro i is hi ha s1
    have hn : step s = performed (s1.moves i) := by rw [step_eq_performed, State.nextInstr, hi, ha]
    simp only [goes, hn]
    exact performed_moves i s1
  · intro hi ha hc i s1
    have hn : step s = performed (s1.moves i) := by
      rw [step_eq_performed, State.nextInstr, hi, ha]
      simp only [hc, if_false]
      rfl
    simp only [goes, hn]
    exact performed_moves i s1
  · intro hi ha hc
    rw [step_eq_performed, State.nextInstr, hi, ha]
    simp only [hc, if_true]
    rfl

end Sys2Proof.Machine
end

section
/-! SUPPORT. Finding a comb, a group and a path after a change of combs, groups or paths. -/

namespace Sys2Proof.Machine

/-- A map that keeps the keys by which a list is searched is applied to what is found. -/
theorem find?_map_key {α κ : Type} [BEq κ] {key : α → κ} {f : α → α} (hf : ∀ x, key (f x) = key x) (l : List α) (k : κ) :
    (l.map f).find? (fun x => key x == k) = (l.find? fun x => key x == k).map f := by
  rw [List.find?_map]
  congr 2
  funext x
  simp [hf]

/-- A change of the elements of one key that keeps the key is seen at that key and at no other. -/
theorem find?_change_same {α : Type} {key : α → Nat} {f : α → α} {k : Nat} (hf : ∀ x, key x = k → key (f x) = k) (l : List α) :
    (l.map fun x => if key x == k then f x else x).find? (fun x => key x == k) = (l.find? fun x => key x == k).map f := by
  rw [find?_map_key (f := fun x => if key x == k then f x else x) (by intro x; split <;> simp_all)]
  cases h : l.find? fun x => key x == k with
  | none => rfl
  | some x =>
    have hx : key x = k := by simpa using List.find?_some h
    simp [hx]

theorem find?_change_ne {α : Type} {key : α → Nat} {f : α → α} {j k : Nat} (hf : ∀ x, key x = k → key (f x) = k) (l : List α) (h : j ≠ k) :
    (l.map fun x => if key x == k then f x else x).find? (fun x => key x == j) = l.find? fun x => key x == j := by
  rw [find?_map_key (f := fun x => if key x == k then f x else x) (by intro x; split <;> simp_all)]
  cases hl : l.find? fun x => key x == j with
  | none => rfl
  | some x =>
    have hx : key x = j := by simpa using List.find?_some hl
    simp [hx, h]

theorem State.comb?_modComb_same (s : State) {c : Nat} {f : Comb → Comb} (hf : ∀ x, x.id = c → (f x).id = c) :
    (s.modComb c f).comb? c = (s.comb? c).map f := find?_change_same hf s.combs

theorem State.comb?_modComb_ne (s : State) {c d : Nat} {f : Comb → Comb} (hf : ∀ x, x.id = c → (f x).id = c) (h : d ≠ c) :
    (s.modComb c f).comb? d = s.comb? d := find?_change_ne hf s.combs h

theorem Comb.group?_modGroup_same (c : Comb) (g : Nat) {f : Group → Group} (hf : ∀ x, (f x).gidx = x.gidx) :
    (c.modGroup g f).group? g = (c.group? g).map f := find?_change_same (fun x h => (hf x).trans h) c.groups

theorem Comb.group?_modGroup_ne (c : Comb) {g h : Nat} {f : Group → Group} (hf : ∀ x, (f x).gidx = x.gidx) (hh : h ≠ g) :
    (c.modGroup g f).group? h = c.group? h := find?_change_ne (fun x h => (hf x).trans h) c.groups hh

theorem Group.path?_modPath_same (g : Group) (p : Nat) {f : Path → Path} (hf : ∀ x, (f x).pix = x.pix) :
    (g.modPath p f).path? p = (g.path? p).map f := find?_change_same (fun x h => (hf x).trans h) g.paths

theorem Group.path?_modPath_ne (g : Group) {p q : Nat} {f : Path → Path} (hf : ∀ x, (f x).pix = x.pix) (h : q ≠ p) :
    (g.modPath p f).path? q = g.path? q := find?_change_ne (fun x h => (hf x).trans h) g.paths h

theorem Comb.gidx_of_group? {c : Comb} {i : Nat} {g : Group} (h : c.group? i = some g) : g.gidx = i := by
  simpa using List.find?_some h

theorem State.id_of_comb? {s : State} {i : Nat} {c : Comb} (h : s.comb? i = some c) : c.id = i := by
  simpa using List.find?_some h

theorem State.comb?_modGroup_same (s : State) (c g : Nat) (f : Group → Group) :
    (s.modGroup c g f).comb? c = (s.comb? c).map fun x => x.modGroup g f :=
  s.comb?_modComb_same fun _ h => h

theorem State.comb?_modGroup_ne (s : State) {c d : Nat} (g : Nat) (f : Group → Group) (h : d ≠ c) :
    (s.modGroup c g f).comb? d = s.comb? d :=
  s.comb?_modComb_ne (fun _ h => h) h

section
variable (s : State) {c g : Nat} {f : Group → Group} (hf : ∀ x, (f x).gidx = x.gidx)
include hf

theorem State.group?_modGroup_same : (s.modGroup c g f).group? c g = (s.group? c g).map f := by
  unfold State.group?
  rw [State.comb?_modGroup_same]
  cases s.comb? c with
  | none => rfl
  | some x => exact x.group?_modGroup_same g hf

theorem State.group?_modGroup_ne {d h : Nat} (hne : ¬ (d = c ∧ h = g)) : (s.modGroup c g f).group? d h = s.group? d h := by
  unfold State.group?
  by_cases hd : d = c
  · subst hd
    rw [State.comb?_modGroup_same]
    cases s.comb? d with
    | none => rfl
    | some x => exact x.group?_modGroup_ne hf fun hh => hne ⟨rfl, hh⟩
  · rw [State.comb?_modGroup_ne s g f hd]

end

section
variable (s : State) {r : PathRef} {f : Path → Path} (hf : ∀ x, (f x).pix = x.pix)
include hf

theorem State.path?_modPath_same : (s.modPath r f).path? r = (s.path? r).map f := by
  unfold State.path? State.modPath
  rw [State.group?_modGroup_same s (f := fun g => g.modPath r.path f) fun _ => rfl]
  cases s.group? r.comb r.group with
  | none => rfl
  | some g => exact g.path?_modPath_same r.path hf

theorem State.path?_modPath_ne {r' : PathRef} (h : r' ≠ r) : (s.modPath r f).path? r' = s.path? r' := by
  unfold State.path? State.modPath
  by_cases hg : r'.comb = r.comb ∧ r'.group = r.group
  · obtain ⟨hc, hg⟩ := hg
    have hp : r'.path ≠ r.path := fun hp => h (by cases r; cases r'; simp_all)
    rw [hc, hg, State.group?_modGroup_same s (f := fun g => g.modPath r.path f) fun _ => rfl]
    cases s.group? r.comb r.group with
    | none => rfl
    | some g => exact g.path?_modPath_ne hf hp
  · rw [State.group?_modGroup_ne s (f := fun g => g.modPath r.path f) (fun _ => rfl) hg]

end

end Sys2Proof.Machine
end

section
/-! The frame of issuing (R93, R107, R109): the statement O30. -/

namespace Sys2Proof.Machine

/-! ### What paths may change of a comb and of a group -/

/-- The parts of a comb that no path of it changes as it goes on. -/
def Comb.fixed (c : Comb) := (c.binds, c.bars, c.eprog, c.tiles)

/-- The parts of a group that no path of it changes as it goes on: its registers, flags and modes, and its jobs. -/
def Group.fixed (g : Group) :=
  ((g.s, g.x, g.q, g.v, g.logw, g.prio, g.gang, g.seed, g.nf, g.satf, g.frm, g.trapvec),
    (g.closed, g.done, g.card, g.batches, g.openJobs, g.prevWait, g.stack, g.launched))

/-- A change of paths and forks alone: nothing but combs changes, and of each comb and group no fixed part. -/
structure State.PathsOnly (s t : State) : Prop where
  rest  : t = { s with combs := t.combs }
  comb  : ∀ c, (t.comb? c).map Comb.fixed = (s.comb? c).map Comb.fixed
  group : ∀ c g, (t.group? c g).map Group.fixed = (s.group? c g).map Group.fixed

theorem State.PathsOnly.refl (s : State) : s.PathsOnly s := ⟨rfl, fun _ => rfl, fun _ _ => rfl⟩

theorem State.PathsOnly.trans {s t u : State} (h : s.PathsOnly t) (k : t.PathsOnly u) : s.PathsOnly u where
  rest := by rw [k.rest, h.rest]
  comb c := (k.comb c).trans (h.comb c)
  group c g := (k.group c g).trans (h.group c g)

/-- A change of one group that keeps its number and its fixed parts. -/
theorem State.PathsOnly.modGroup (s : State) (c g : Nat) {f : Group → Group} (hf : ∀ x, (f x).gidx = x.gidx)
    (hfix : ∀ x, (f x).fixed = x.fixed) : s.PathsOnly (s.modGroup c g f) where
  rest := rfl
  comb d := by
    by_cases h : d = c
    · subst h
      rw [State.comb?_modGroup_same, Option.map_map]
      rfl
    · rw [State.comb?_modGroup_ne s g f h]
  group d k := by
    by_cases h : d = c ∧ k = g
    · obtain ⟨rfl, rfl⟩ := h
      rw [State.group?_modGroup_same s hf, Option.map_map]
      exact congrArg (fun m => (s.group? d k).map m) (funext hfix)
    · rw [State.group?_modGroup_ne s hf h]

theorem State.PathsOnly.modPath (s : State) (r : PathRef) (f : Path → Path) : s.PathsOnly (s.modPath r f) :=
  .modGroup s r.comb r.group (fun _ => rfl) fun _ => rfl

/-! ### Latches lost by other paths (R109) -/

/-- A path of the group issues through the issue slot, and is not one that `own` names. -/
def Group.loses (g : Group) (slot : Nat) (own : Nat → Bool) (p : Path) : Bool :=
  (match g.contFork? p.pix with | some f => f.shadow | none => g.gslot) % 4 == slot % 4 && !own p.pix

def Group.loseOthers (slot : Nat) (own : Nat → Bool) (g : Group) : Group :=
  { g with paths := g.paths.map fun p => if g.loses slot own p then p.lose else p }

def Comb.loseOthers (core slot : Nat) (r : PathRef) (c : Comb) : Comb :=
  if c.core != core then c
  else { c with groups := c.groups.map fun g => g.loseOthers slot fun p => c.id == r.comb && g.gidx == r.group && p == r.path }

theorem State.loseOthers_eq (s : State) (core slot : Nat) (r : PathRef) :
    s.loseOthers core slot r = { s with combs := s.combs.map (Comb.loseOthers core slot r) } := rfl

theorem Comb.loseOthers_id (core slot : Nat) (r : PathRef) (c : Comb) : (c.loseOthers core slot r).id = c.id := by
  unfold Comb.loseOthers; split <;> rfl

theorem Comb.loseOthers_fixed (core slot : Nat) (r : PathRef) (c : Comb) : (c.loseOthers core slot r).fixed = c.fixed := by
  unfold Comb.loseOthers; split <;> rfl

theorem State.comb?_loseOthers (s : State) (core slot : Nat) (r : PathRef) (c : Nat) :
    (s.loseOthers core slot r).comb? c = (s.comb? c).map (Comb.loseOthers core slot r) :=
  find?_map_key (Comb.loseOthers_id core slot r) s.combs c

/-- A group is found as it was, or with latches of other paths lost. -/
theorem State.group?_loseOthers (s : State) (core slot : Nat) (r : PathRef) (c g : Nat) :
    (s.loseOthers core slot r).group? c g = s.group? c g
    ∨ (s.loseOthers core slot r).group? c g
        = (s.group? c g).map (Group.loseOthers slot fun p => c == r.comb && g == r.group && p == r.path) := by
  unfold State.group?
  rw [State.comb?_loseOthers]
  cases hc : s.comb? c with
  | none => exact .inl rfl
  | some x =>
    simp only [Option.map_some, Option.bind_some, Comb.loseOthers]
    split
    · exact .inl rfl
    · refine .inr ?_
      rw [Comb.group?, find?_map_key (f := fun y : Group => y.loseOthers slot fun p => x.id == r.comb && y.gidx == r.group && p == r.path)
        (fun _ => rfl), State.id_of_comb? hc]
      cases hg : x.group? g with
      | none => rw [Comb.group?] at hg; rw [hg]; rfl
      | some y => rw [← Comb.gidx_of_group? hg] at *; rw [Comb.group?] at hg; rw [hg]; rfl

theorem State.PathsOnly.loseOthers (s : State) (core slot : Nat) (r : PathRef) : s.PathsOnly (s.loseOthers core slot r) where
  rest := rfl
  comb c := by
    rw [State.comb?_loseOthers, Option.map_map]
    exact congrArg (fun m => (s.comb? c).map m) (funext (Comb.loseOthers_fixed core slot r))
  group c g := by
    rcases s.group?_loseOthers core slot r c g with h | h
    · rw [h]
    · rw [h, Option.map_map]
      rfl

/-- A path without its latches. -/
def Path.bare (p : Path) : Path := { p with latches := [], epoch := 0 }

theorem Group.path?_loseOthers (g : Group) (slot : Nat) (own : Nat → Bool) (p : Nat) :
    (g.loseOthers slot own).path? p = (g.path? p).map fun x => if g.loses slot own x then x.lose else x :=
  find?_map_key (by intro x; split <;> rfl) g.paths p

theorem Group.pix_of_path? {g : Group} {i : Nat} {p : Path} (h : g.path? i = some p) : p.pix = i := by
  simpa using List.find?_some h

theorem State.path?_loseOthers_bare (s : State) (core slot : Nat) (r r' : PathRef) :
    ((s.loseOthers core slot r).path? r').map Path.bare = (s.path? r').map Path.bare := by
  unfold State.path?
  rcases s.group?_loseOthers core slot r r'.comb r'.group with h | h
  · rw [h]
  · rw [h]
    cases s.group? r'.comb r'.group with
    | none => rfl
    | some g =>
      simp only [Option.map_some, Option.bind_some, Group.path?_loseOthers, Option.map_map]
      congr 1
      funext x
      simp only [Function.comp_apply]
      split <;> rfl

/-- The path that issues keeps its latches. -/
theorem State.path?_loseOthers_self (s : State) (core slot : Nat) (r : PathRef) : (s.loseOthers core slot r).path? r = s.path? r := by
  unfold State.path?
  rcases s.group?_loseOthers core slot r r.comb r.group with h | h
  · rw [h]
  · rw [h]
    cases s.group? r.comb r.group with
    | none => rfl
    | some g =>
      simp only [Option.map_some, Option.bind_some, Group.path?_loseOthers]
      cases hp : g.path? r.path with
      | none => rfl
      | some p => simp [Group.loses, Group.pix_of_path? hp]

/-! ### How the path goes on (R41, R95) -/

theorem closeDual_fixed (g : Group) : (State.closeDual g).gidx = g.gidx ∧ (State.closeDual g).ended = g.ended ∧ (State.closeDual g).fixed = g.fixed := by
  unfold State.closeDual
  split
  · split <;> exact ⟨rfl, rfl, rfl⟩
  · exact ⟨rfl, rfl, rfl⟩

theorem releaseOrigin_fixed (g : Group) (p : Path) :
    (State.releaseOrigin g p).gidx = g.gidx ∧ (State.releaseOrigin g p).ended = g.ended ∧ (State.releaseOrigin g p).fixed = g.fixed := by
  unfold State.releaseOrigin
  split
  · exact ⟨rfl, rfl, rfl⟩
  · split <;> exact ⟨rfl, rfl, rfl⟩

theorem endPart_fixed (g : Group) (p : Path) :
    (State.endPart g p).gidx = g.gidx ∧ (State.endPart g p).ended = g.ended ∧ (State.endPart g p).fixed = g.fixed := by
  unfold State.endPart
  split
  · exact ⟨rfl, rfl, rfl⟩
  · dsimp only
    obtain ⟨h1, h2, h3⟩ := releaseOrigin_fixed (State.closeDual _) p
    obtain ⟨k1, k2, k3⟩ := closeDual_fixed _
    exact ⟨h1.trans k1, h2.trans k2, h3.trans k3⟩

/-- A comb whose groups of a kind are marked as ended. -/
def Comb.marked (p : Group → Bool) (x : Comb) : Comb :=
  { x with groups := x.groups.map fun g => if p g then { g with ended := true } else g }

theorem Comb.group?_marked (p : Group → Bool) (x : Comb) (i : Nat) :
    (x.marked p).group? i = (x.group? i).map fun g => if p g then { g with ended := true } else g :=
  find?_map_key (by intro g; split <;> rfl) x.groups i

theorem State.PathsOnly.marked {s : State} {c : Nat} {x : Comb} (p : Group → Bool) (hx : s.comb? c = some x) :
    s.PathsOnly (s.modComb c fun _ => x.marked p) := by
  have hid : ∀ y : Comb, y.id = c → (x.marked p).id = c := fun _ _ => show x.id = c from State.id_of_comb? hx
  have hsame : (s.modComb c fun _ => x.marked p).comb? c = some (x.marked p) := by rw [s.comb?_modComb_same hid, hx]; rfl
  refine ⟨rfl, fun d => ?_, fun d i => ?_⟩
  · by_cases h : d = c
    · rw [h, hsame, hx]; rfl
    · rw [s.comb?_modComb_ne hid h]
  · unfold State.group?
    by_cases h : d = c
    · rw [h, hsame, hx, Option.bind_some, Option.bind_some, Comb.group?_marked, Option.map_map]
      congr 1
      funext g
      simp only [Function.comp_apply]
      split <;> rfl
    · rw [s.comb?_modComb_ne hid h]

/-- A comb with a group that goes on goes on: only groups that have ended are marked (R157, R19). -/
theorem State.settle_running {s : State} {c i : Nat} {x : Comb} {g : Group} (hx : s.comb? c = some x) (hg : x.group? i = some g)
    (he : g.ended = false) (hrun : s.groupDone c g = false) : s.settle c = s.modComb c fun _ => x.marked (s.groupDone c) := by
  have hall : ((x.marked (s.groupDone c)).groups.all fun g => g.ended) = false :=
    List.all_eq_false.mpr ⟨g, List.mem_map.mpr ⟨g, List.mem_of_find?_eq_some hg, by simp [hrun]⟩, by simp [he]⟩
  unfold State.settle
  rw [hx]
  exact if_neg (by rw [Bool.not_eq_true]; exact hall)

theorem State.PathsOnly.settle {s : State} {c i : Nat} {g : Group} {fl : Flight} (hg : s.group? c i = some g) (he : g.ended = false)
    (hf : fl ∈ s.flights) (hc : fl.comb = c) (hi : fl.group = i) : s.PathsOnly (s.settle c) := by
  obtain ⟨x, hx, hxg⟩ := Option.bind_eq_some_iff.mp hg
  have hgi := Comb.gidx_of_group? hxg
  have hflies : s.flights.any (fun f => f.comb == c && f.group == g.gidx) = true :=
    List.any_eq_true.mpr ⟨fl, hf, by simp [hc, hi, hgi]⟩
  rw [State.settle_running hx hxg he (by simp [State.groupDone, hflies])]
  exact .marked _ hx

/-- A path goes on after an instruction, or ends, while the group has a flight and has not ended. -/
theorem State.PathsOnly.goAfter {s : State} {r : PathRef} {fl : Flight} (b : Bundle) (k : Nat)
    (he : ∀ g, s.group? r.comb r.group = some g → g.ended = false) (hf : fl ∈ s.flights) (hc : fl.comb = r.comb) (hi : fl.group = r.group) :
    s.PathsOnly (s.goAfter r b k) := by
  have hend : s.PathsOnly (s.endPath r) := by
    unfold State.endPath
    split
    · exact .refl s
    · next p hp =>
      obtain ⟨g, hg, -⟩ := Option.bind_eq_some_iff.mp hp
      have hpart : s.PathsOnly (s.modGroup r.comb r.group fun g => State.endPart g p) :=
        .modGroup s r.comb r.group (fun x => (endPart_fixed x p).1) fun x => (endPart_fixed x p).2.2
      have hg' : (s.modGroup r.comb r.group fun g => State.endPart g p).group? r.comb r.group = some (State.endPart g p) := by
        rw [State.group?_modGroup_same s fun x => (endPart_fixed x p).1, hg]; rfl
      exact hpart.trans (.settle hg' ((endPart_fixed g p).2.1.trans (he g hg)) hf hc hi)
  unfold State.goAfter
  split
  · exact .modPath s r _
  · split
    · unfold State.reachEnd
      split
      · exact .refl s
      · split
        · exact .refl s
        · split
          · exact .modPath s r _
          · exact hend
    · exact .modPath s r _

/-- A continuation's marks stand in its fork alone (R307, R309, R313). -/
theorem Env.contMarks_pathsOnly (e : Env) (srcs : List (Src × Env.Need)) (ws : List RegWrite) (act : Lanes) (cross : Bool) (s : State)
    (more : List (List (Src × Env.Need) × Lanes)) : s.PathsOnly (e.contMarks srcs ws act cross s more) := by
  unfold Env.contMarks
  split
  · exact .refl s
  · exact .modGroup s _ _ (fun _ => rfl) fun _ => rfl

theorem Env.contMarks_path? (e : Env) (srcs : List (Src × Env.Need)) (ws : List RegWrite) (act : Lanes) (cross : Bool) (s : State)
    (more : List (List (Src × Env.Need) × Lanes)) (r : PathRef) : (e.contMarks srcs ws act cross s more).path? r = s.path? r := by
  unfold Env.contMarks
  split
  · rfl
  · next k _ =>
    unfold State.path?
    by_cases h : r.comb = e.ref.comb ∧ r.group = e.ref.group
    · rw [h.1, h.2, State.group?_modGroup_same]
      · cases s.group? e.ref.comb e.ref.group <;> rfl
      · exact fun _ => rfl
    · rw [State.group?_modGroup_ne (hne := h)]
      exact fun _ => rfl

/-- How a path stands after slot `k` of its bundle, when that is not the path's end (R41, R95). -/
def Path.after (b : Bundle) (k : Nat) (p : Path) : Path :=
  match b.nextValid (k + 1) with
  | some j => { p with slot := j }
  | none => { p with pc := (p.pc + 64) % 2 ^ 64, slot := 0, arrived := false, freed := false, freedArm := false }

section
variable {b : Bundle} {k : Nat} (p : Path)

theorem Path.after_some {j : Nat} (h : b.nextValid (k + 1) = some j) : p.after b k = { p with slot := j } := by
  rw [Path.after, h]

theorem Path.after_none (h : b.nextValid (k + 1) = none) :
    p.after b k = { p with pc := (p.pc + 64) % 2 ^ 64, slot := 0, arrived := false, freed := false, freedArm := false } := by
  rw [Path.after, h]

end

theorem Path.after_pix (b : Bundle) (k : Nat) (p : Path) : (p.after b k).pix = p.pix := by
  unfold Path.after; split <;> rfl

theorem State.goAfter_open (s : State) (r : PathRef) {b : Bundle} (k : Nat) (h : b.fin = false) :
    s.goAfter r b k = s.modPath r (Path.after b k) := by
  unfold State.goAfter
  split
  · next hj => exact congrArg (s.modPath r) (funext fun p => (p.after_some hj).symm)
  · next hj =>
    rw [h]
    exact congrArg (s.modPath r) (funext fun p => (p.after_none hj).symm)

/-! ### Issuing -/

/-- The parts of an environment are where its reference leads in the state. -/
theorem State.envOf_parts {s : State} {r : PathRef} {e : Env} (h : s.envOf r = some e) :
    e.s = s ∧ e.ref = r ∧ s.comb? r.comb = some e.c ∧ e.c.group? r.group = some e.g ∧ e.g.path? r.path = some e.p := by
  unfold State.envOf at h
  split at h
  · cases h
  · split at h
    · split at h
      · cases h
      · split at h
        · cases h
        · split at h
          · cases h
          · cases h; exact ⟨rfl, rfl, ‹_›, ‹_›, ‹_›⟩
    · cases h

theorem State.env?_parts {s : State} {e : Env} (h : s.env? = some e) :
    e.s = s ∧ s.comb? e.ref.comb = some e.c ∧ e.c.group? e.ref.group = some e.g ∧ e.g.path? e.ref.path = some e.p := by
  unfold State.env? at h
  split at h
  · cases h
  · next r _ =>
    obtain ⟨hs, rfl, hparts⟩ := State.envOf_parts h
    exact ⟨hs, hparts⟩

theorem State.env?_group {s : State} {e : Env} (h : s.env? = some e) : s.group? e.ref.comb e.ref.group = some e.g := by
  obtain ⟨-, hc, hg, -⟩ := State.env?_parts h
  rw [State.group?, hc, Option.bind_some, hg]

theorem State.env?_path {s : State} {e : Env} (h : s.env? = some e) : s.path? e.ref = some e.p := by
  obtain ⟨-, -, -, hp⟩ := State.env?_parts h
  rw [State.path?, State.env?_group h, Option.bind_some, hp]

/-- The state with the in-flight record of an instruction added. -/
def State.withFlight (s : State) (fl : Flight) : State := { s.bump with flights := s.flights ++ [fl] }

/-- The state in which an instruction has issued, before its path goes on. -/
def Env.recorded (e : Env) (fl : Flight) : State := ((e.s.withFlight fl).loseOthers e.core e.gslot e.ref).modPath e.ref e.issued

theorem Env.issue_eq (e : Env) (fl : Flight) : e.issue fl = (e.recorded fl).goAfter e.ref e.b e.k := rfl

theorem Env.recorded_pathsOnly (e : Env) (fl : Flight) : (e.s.withFlight fl).PathsOnly (e.recorded fl) :=
  (State.PathsOnly.loseOthers _ _ _ _).trans (.modPath _ _ _)

/-- Issuing does not end a group. -/
theorem Env.recorded_ended {s : State} {e : Env} (h : s.env? = some e) (he : e.g.ended = false) (fl : Flight) {g : Group}
    (hg : (e.recorded fl).group? e.ref.comb e.ref.group = some g) : g.ended = false := by
  obtain ⟨hs, -⟩ := State.env?_parts h
  have hfind : (e.s.withFlight fl).group? e.ref.comb e.ref.group = some e.g := by
    rw [hs]; exact (State.env?_group h : s.group? _ _ = some e.g)
  unfold Env.recorded State.modPath at hg
  rw [State.group?_modGroup_same _ (f := fun g => g.modPath e.ref.path e.issued) fun _ => rfl] at hg
  rcases (e.s.withFlight fl).group?_loseOthers e.core e.gslot e.ref e.ref.comb e.ref.group with hl | hl
  all_goals
    rw [hl, hfind] at hg
    cases hg
    exact he

theorem Env.issue_pathsOnly {s : State} {e : Env} (h : s.env? = some e) (he : e.g.ended = false) {fl : Flight}
    (hc : fl.comb = e.ref.comb) (hi : fl.group = e.ref.group) : (e.s.withFlight fl).PathsOnly (e.issue fl) := by
  have hf : fl ∈ (e.recorded fl).flights := List.mem_append_right _ (List.mem_singleton_self fl)
  rw [Env.issue_eq]
  exact (e.recorded_pathsOnly fl).trans (.goAfter e.b e.k (fun g hg => Env.recorded_ended h he fl hg) hf hc hi)

section
variable {s : State} {e : Env} (h : s.env? = some e) (fl : Flight) (hfin : e.b.fin = false)
include h hfin

theorem Env.path?_issue_self : (e.issue fl).path? e.ref = some ((e.issued e.p).after e.b e.k) := by
  obtain ⟨hs, -⟩ := State.env?_parts h
  have hfind : (e.s.withFlight fl).path? e.ref = some e.p := by
    rw [hs]; exact (State.env?_path h : s.path? _ = some e.p)
  rw [Env.issue_eq, State.goAfter_open _ _ _ hfin, State.path?_modPath_same _ (Path.after_pix e.b e.k), Env.recorded,
    State.path?_modPath_same _ (f := e.issued) fun _ => rfl, State.path?_loseOthers_self, hfind]
  rfl

theorem Env.path?_issue_other {r : PathRef} (hr : r ≠ e.ref) : ((e.issue fl).path? r).map Path.bare = (s.path? r).map Path.bare := by
  obtain ⟨hs, -⟩ := State.env?_parts h
  rw [Env.issue_eq, State.goAfter_open _ _ _ hfin, State.path?_modPath_ne _ (Path.after_pix e.b e.k) hr, Env.recorded,
    State.path?_modPath_ne _ (f := e.issued) (fun _ => rfl) hr, State.path?_loseOthers_bare, hs]
  rfl

end

/-- Settles O30: but for the new record, issuing changes paths and forks alone; an open bundle leaves the path where R41 says. -/
theorem issueFrame : Obligations.IssueFrame := by
  unfold Obligations.IssueFrame
  intro s e o f fl srcs cross t regs bare h he hrec
  obtain ⟨hs, -⟩ := State.env?_parts h
  obtain ⟨hcomb, hgroup, -⟩ := hrec.path
  have hmarks := (Env.issue_pathsOnly h he hcomb hgroup).trans (e.contMarks_pathsOnly srcs fl.writes (e.active f.pred) cross (e.issue fl) [])
  rw [hs] at hmarks
  have ht : t = { s with clk := { s.clk with serial := s.clk.serial + 1, cur := none }, flights := s.flights ++ [fl], combs := t.combs } :=
    congrArg State.rested hmarks.rest
  have hpath (r : PathRef) : t.path? r = (e.issue fl).path? r := e.contMarks_path? srcs fl.writes (e.active f.pred) cross (e.issue fl) [] r
  have hkeep {α : Type} (part : State → α) := congrArg part ht
  refine ⟨hkeep State.flights, hkeep State.mem, hkeep State.full, hkeep State.pages, hkeep State.coh, hkeep State.jobs, hkeep State.launches,
    hkeep State.dists, hkeep State.snaps, hkeep State.spire, hkeep State.dev, hkeep State.ctxs, hkeep State.cores, hkeep fun s => s.clk.cycle,
    hkeep fun s => s.clk.serial, rfl, hmarks.comb, hmarks.group, fun hfin => ⟨fun r hr => ?_, (e.issued e.p).after e.b e.k, ?_⟩⟩
  · rw [hpath]
    exact Env.path?_issue_other h fl hfin hr
  · rw [hpath, Env.path?_issue_self h fl hfin, ← hs]
    refine ⟨rfl, ?_⟩
    cases hj : e.b.nextValid (e.k + 1) with
    | some j =>
      rw [Path.after_some _ hj]
      exact ⟨rfl, rfl, rfl, rfl, rfl, rfl, rfl, rfl, fun i hi => ⟨rfl, Option.some.inj hi⟩, fun hi => nomatch hi⟩
    | none =>
      rw [Path.after_none _ hj]
      exact ⟨rfl, rfl, rfl, rfl, rfl, rfl, rfl, rfl, fun i hi => (nomatch hi), fun _ => ⟨rfl, rfl⟩⟩

end Sys2Proof.Machine
end

section
/-! What the completion of an instruction does to its comb and group (R93, R107, R108, R72, R214): the statement O31. -/

namespace Sys2Proof.Machine

/-! ### Lists and lanes -/

theorem getAt_setAt_ne {α : Type} [Inhabited α] (l : List α) {i j : Nat} (a : α) (h : j ≠ i) : getAt (setAt l i a) j = getAt l j := by
  simp [setAt_eq_set, getAt, h.symm]

theorem getAt_setAt_self {α : Type} [Inhabited α] (l : List α) (i : Nat) (a : α) :
    getAt (setAt l i a) i = if i < l.length then a else getAt l i := by
  rw [getAt_setAt_same]
  split
  · rfl
  · next h => simp [getAt, Nat.le_of_not_lt h]

theorem length_setAt {α : Type} (l : List α) (i : Nat) (a : α) : (setAt l i a).length = l.length := by
  rw [setAt_eq_set, List.length_set]

theorem vlane_vreg (f : Nat → W32) {l : Nat} (h : l < 32) : vlane (vreg f) l = f l := by
  simp [vlane, vreg, allLanes, h]

theorem lane_merge (m a b : Lanes) (l : Nat) : lane ((a &&& ~~~m) ||| (b &&& m)) l = if lane m l then lane b l else lane a l := by
  unfold lane
  by_cases h : l < 32
  · simp only [BitVec.getLsbD_or, BitVec.getLsbD_and, BitVec.getLsbD_not, h, decide_true, Bool.true_and]
    cases m.getLsbD l <;> simp
  · simp [BitVec.getLsbD_of_ge, Nat.le_of_not_lt h]

/-! ### Register writes (R107) -/

theorem getAt_s_write {g : Group} {w : RegWrite} {n : Nat} (h : ∀ v, w ≠ .s n v) : getAt (g.write w).s n = getAt g.s n := by
  cases w with
  | s k v => exact getAt_setAt_ne _ _ fun hk => h v (by rw [hk])
  | _ => rfl

theorem getAt_x_write {g : Group} {w : RegWrite} {n : Nat} (h : ∀ v, w ≠ .x n v) : getAt (g.write w).x n = getAt g.x n := by
  cases w with
  | x k v => exact getAt_setAt_ne _ _ fun hk => h v (by rw [hk])
  | _ => rfl

theorem lane_q_write {g : Group} {w : RegWrite} {n l : Nat} (h : ∀ m v, w = .q n m v → lane m l = false) :
    lane (getAt (g.write w).q n) l = lane (getAt g.q n) l := by
  cases w with
  | q k m v =>
    by_cases hk : k = n
    · subst hk
      simp only [Group.write, getAt_setAt_self]
      split
      · rw [lane_merge, h m v rfl]; rfl
      · rfl
    · exact congrArg (fun x => lane x l) (getAt_setAt_ne _ _ (Ne.symm hk))
  | _ => rfl

theorem vlane_v_write {g : Group} {w : RegWrite} {n l : Nat} (hl : l < 32) (h : ∀ m v, w = .v n m v → lane m l = false) :
    vlane (getAt (g.write w).v n) l = vlane (getAt g.v n) l := by
  cases w with
  | v k m v =>
    by_cases hk : k = n
    · subst hk
      simp only [Group.write, getAt_setAt_self]
      split
      · rw [vlane_vreg _ hl, h m v rfl]; rfl
      · rfl
    · exact congrArg (fun x => vlane x l) (getAt_setAt_ne _ _ (Ne.symm hk))
  | _ => rfl

/-- The registers of a group. -/
def Group.regs (g : Group) := (g.s, g.x, g.q, g.v)

theorem Group.regs_write_congr {g h : Group} (w : RegWrite) (k : g.regs = h.regs) : (g.write w).regs = (h.write w).regs := by
  simp only [Group.regs, Prod.mk.injEq] at k ⊢
  obtain ⟨hs, hx, hq, hv⟩ := k
  cases w <;> simp only [Group.write, hs, hx, hq, hv, and_self]

theorem Group.regs_foldl_congr {g h : Group} (ws : List RegWrite) (k : g.regs = h.regs) :
    (ws.foldl Group.write g).regs = (ws.foldl Group.write h).regs := by
  induction ws generalizing g h with
  | nil => exact k
  | cons w ws ih => exact ih (Group.regs_write_congr w k)

section
variable (g : Group) {ws : List RegWrite} {n : Nat}

theorem getAt_s_writes (h : ∀ v, RegWrite.s n v ∉ ws) : getAt (ws.foldl Group.write g).s n = getAt g.s n :=
  List.foldlRecOn (motive := fun k => getAt k.s n = getAt g.s n) ws Group.write rfl
    fun _ hk _ hw => (getAt_s_write fun v hv => h v (hv ▸ hw)).trans hk

theorem getAt_x_writes (h : ∀ v, RegWrite.x n v ∉ ws) : getAt (ws.foldl Group.write g).x n = getAt g.x n :=
  List.foldlRecOn (motive := fun k => getAt k.x n = getAt g.x n) ws Group.write rfl
    fun _ hk _ hw => (getAt_x_write fun v hv => h v (hv ▸ hw)).trans hk

theorem lane_q_writes {l : Nat} (h : ∀ m v, RegWrite.q n m v ∈ ws → lane m l = false) :
    lane (getAt (ws.foldl Group.write g).q n) l = lane (getAt g.q n) l :=
  List.foldlRecOn (motive := fun k => lane (getAt k.q n) l = lane (getAt g.q n) l) ws Group.write rfl
    fun _ hk _ hw => (lane_q_write fun m v hv => h m v (hv ▸ hw)).trans hk

theorem vlane_v_writes {l : Nat} (hl : l < 32) (h : ∀ m v, RegWrite.v n m v ∈ ws → lane m l = false) :
    vlane (getAt (ws.foldl Group.write g).v n) l = vlane (getAt g.v n) l :=
  List.foldlRecOn (motive := fun k => vlane (getAt k.v n) l = vlane (getAt g.v n) l) ws Group.write rfl
    fun _ hk _ hw => (vlane_v_write hl fun m v hv => h m v (hv ▸ hw)).trans hk

end

theorem Group.length_v_write (g : Group) (w : RegWrite) : (g.write w).v.length = g.v.length := by
  cases w with
  | v n m x => exact length_setAt _ _ _
  | _ => rfl

/-- Where all writes of a vector register agree, its lanes in their mask take their value. -/
theorem vlane_v_written {g : Group} {ws : List RegWrite} {n l : Nat} {m : Lanes} {v : VReg} (hm : RegWrite.v n m v ∈ ws)
    (hall : ∀ m' v', RegWrite.v n m' v' ∈ ws → m' = m ∧ v' = v) (hn : n < g.v.length) (hl : l < 32) (hlane : lane m l = true) :
    vlane (getAt (ws.foldl Group.write g).v n) l = vlane v l := by
  induction ws generalizing g with
  | nil => cases hm
  | cons w ws ih =>
    rw [List.foldl_cons]
    by_cases hin : RegWrite.v n m v ∈ ws
    · exact ih hin (fun m' v' h => hall m' v' (List.mem_cons_of_mem _ h)) (by rw [Group.length_v_write]; exact hn)
    · obtain rfl : RegWrite.v n m v = w := (List.mem_cons.mp hm).resolve_right hin
      have hno : ∀ m' v', RegWrite.v n m' v' ∈ ws → lane m' l = false := fun m' v' h => by
        obtain ⟨rfl, rfl⟩ := hall m' v' (List.mem_cons_of_mem _ h)
        exact absurd h hin
      rw [vlane_v_writes _ hl hno]
      simp only [Group.write, getAt_setAt_self, hn, if_true, vlane_vreg _ hl, hlane]

/-! ### The comb and the group of a flight -/

/-- Where a flight finds its comb and its group. -/
structure State.Holds (s : State) (f : Flight) (c : Comb) (g : Group) : Prop where
  comb  : s.comb? f.comb = some c
  group : c.group? f.group = some g

theorem State.Holds.modGroup {s : State} {f : Flight} {c : Comb} {g : Group} (h : s.Holds f c g) {k : Group → Group} (hk : ∀ x, (k x).gidx = x.gidx) :
    (s.modGroup f.comb f.group k).Holds f (c.modGroup f.group k) (k g) where
  comb := by rw [State.comb?_modGroup_same, h.comb]; rfl
  group := by rw [Comb.group?_modGroup_same _ _ hk, h.group]; rfl

/-- The state with only some of its flights. -/
def State.keepFlights (s : State) (p : Flight → Bool) : State := { s with flights := s.flights.filter p }

/-- What completing an instruction leaves alone outside its comb, but for FSTAT, the store buffer and the flights. -/
def State.outer (s : State) := (s.mem, s.jobs, s.launches, s.dev, s.ctxs, s.spire, s.clk.cycle)

/-- The flags and modes of a group. -/
def Group.modes (g : Group) := (g.nf, g.seed, g.frm, g.satf, g.logw, g.prio, g.gang, g.trapvec)

/-- The parts of a group that no completion changes. -/
def Group.kept (g : Group) := (g.closed, g.done, g.card, g.batches, g.stack, g.exited, g.ended)

/-- Where a path stands, with its lanes and stacks. -/
def Path.place (p : Path) := (p.pix, p.pc, p.slot, p.pl, p.rstack, p.depth, p.wait)

/-- What decides whether a path still takes the latch of an instruction, with the latches. -/
def Path.stream (p : Path) := (p.pix, p.latches, p.epoch, p.sid)

/-- The bind entries after a write. -/
def bindWrite (bs : List Binding) : RegWrite → List Binding
  | .bind e b => setAt bs e b
  | _ => bs

/-- What the writes `ws` of a flight make of the state, its comb and its group. -/
structure Written (f : Flight) (ws : List RegWrite) (s t : State) (c d : Comb) (g h : Group) : Prop where
  holds   : t.Holds f d h
  outer   : t.outer = s.outer
  coh     : t.coh = s.coh
  flights : t.flights = s.flights
  core    : d.core = c.core
  binds   : d.binds = ws.foldl bindWrite c.binds
  regs    : h.regs = (ws.foldl Group.write g).regs
  kept    : h.kept = g.kept
  place   : h.paths.map Path.place = g.paths.map Path.place
  stream  : h.paths.map Path.stream = g.paths.map Path.stream
  modes   : (∀ r v, RegWrite.sreg r v ∉ ws) → h.modes = g.modes ∧ t.cores = s.cores ∧ h.paths.map (fun p => p.exm) = g.paths.map fun p => p.exm

section
variable {f : Flight} {s : State} {c : Comb} {g : Group}

theorem Written.nil (h : s.Holds f c g) : Written f [] s s c c g g where
  holds := h
  outer := rfl
  coh := rfl
  flights := rfl
  core := rfl
  binds := rfl
  regs := rfl
  kept := rfl
  place := rfl
  stream := rfl
  modes _ := ⟨rfl, rfl, rfl⟩

/-- A write that changes the group alone. -/
theorem Written.ofGroup (h : s.Holds f c g) (w : RegWrite) {k : Group → Group} (hidx : ∀ x, (k x).gidx = x.gidx)
    (hbind : bindWrite c.binds w = c.binds) (hregs : (k g).regs = (g.write w).regs) (hkept : (k g).kept = g.kept)
    (hplace : (k g).paths.map Path.place = g.paths.map Path.place) (hstream : (k g).paths.map Path.stream = g.paths.map Path.stream)
    (hmodes : (∀ r v, w ≠ .sreg r v) → (k g).modes = g.modes ∧ (k g).paths = g.paths) :
    ∃ d e, Written f [w] s (s.modGroup f.comb f.group k) c d g e := by
  refine ⟨_, _, h.modGroup hidx, rfl, rfl, rfl, rfl, hbind.symm, hregs, hkept, hplace, hstream, fun hno => ?_⟩
  obtain ⟨hm, hp⟩ := hmodes fun r v hw => hno r v (hw ▸ List.mem_singleton_self _)
  exact ⟨hm, rfl, by rw [hp]⟩

theorem writeGroupReg_only (g : Group) (n gw : Nat) (r : SReg) (v : W64) :
    (writeGroupReg g n gw r v).gidx = g.gidx ∧ (writeGroupReg g n gw r v).regs = g.regs ∧ (writeGroupReg g n gw r v).kept = g.kept
    ∧ (writeGroupReg g n gw r v).paths = g.paths := by
  cases r <;> exact ⟨rfl, rfl, rfl, rfl⟩

/-- A write of a special register changes modes, FSTAT or EXM alone (R158). -/
theorem Written.special (h : s.Holds f c g) (r : SReg) (v : W64) :
    ∃ d k, Written f [.sreg r v] s (writeSpecial s { comb := f.comb, group := f.group, path := f.path } r v) c d g k := by
  unfold writeSpecial
  simp only [h.comb]
  cases r with
  | exm =>
    refine Written.ofGroup h _ (fun _ => rfl) rfl rfl rfl ?_ ?_ fun hno => absurd rfl (hno _ v)
    all_goals
      rw [Group.modPath, List.map_map]
      refine List.map_congr_left fun p _ => ?_
      simp only [Function.comp_apply]
      split <;> rfl
  | fstat =>
    exact ⟨c, g, ⟨h.comb, h.group⟩, rfl, rfl, rfl, rfl, rfl, rfl, rfl, rfl, rfl, fun hno => absurd (List.mem_singleton_self _) (hno _ v)⟩
  | _ =>
    exact Written.ofGroup h _ (fun x => (writeGroupReg_only x _ _ _ _).1) rfl (writeGroupReg_only g _ _ _ _).2.1 (writeGroupReg_only g _ _ _ _).2.2.1
      rfl rfl fun hno => absurd rfl (hno _ v)

theorem State.applyWrite_sreg (s : State) (f : Flight) (r : SReg) (v : W64) :
    s.applyWrite f (.sreg r v) = s ∨ s.applyWrite f (.sreg r v) = writeSpecial s { comb := f.comb, group := f.group, path := f.path } r v :=
  (ite_eq_or_eq _ _ _)

theorem Written.one (h : s.Holds f c g) (w : RegWrite) : ∃ d k, Written f [w] s (s.applyWrite f w) c d g k := by
  cases w with
  | s _ _ | x _ _ | q _ _ _ | v _ _ _ => exact Written.ofGroup h _ (fun _ => rfl) rfl rfl rfl rfl rfl fun _ => ⟨rfl, rfl⟩
  | bind e b =>
    refine ⟨{ c with binds := setAt c.binds e b }, g, ⟨?_, h.group⟩, rfl, rfl, rfl, rfl, rfl, rfl, rfl, rfl, rfl, fun _ => ⟨rfl, rfl, rfl⟩⟩
    exact (State.comb?_modComb_same s (f := fun x => { x with binds := setAt x.binds e b }) fun _ h => h).trans (by rw [h.comb]; rfl)
  | sreg r v =>
    rcases s.applyWrite_sreg f r v with hs | hs
    · rw [hs]
      exact ⟨c, g, h, rfl, rfl, rfl, rfl, rfl, rfl, rfl, rfl, rfl, fun hno => absurd (List.mem_singleton_self _) (hno r v)⟩
    · rw [hs]
      exact Written.special h r v

theorem Written.trans {ws ws' : List RegWrite} {t u : State} {d e : Comb} {h k : Group} (hw : Written f ws s t c d g h)
    (hws : Written f ws' t u d e h k) : Written f (ws ++ ws') s u c e g k where
  holds := hws.holds
  outer := hws.outer.trans hw.outer
  coh := hws.coh.trans hw.coh
  flights := hws.flights.trans hw.flights
  core := hws.core.trans hw.core
  binds := by rw [hws.binds, hw.binds, List.foldl_append]
  regs := by rw [List.foldl_append]; exact hws.regs.trans (Group.regs_foldl_congr ws' hw.regs)
  kept := hws.kept.trans hw.kept
  place := hws.place.trans hw.place
  stream := hws.stream.trans hw.stream
  modes hno := by
    obtain ⟨h1, h2, h3⟩ := hws.modes fun r v hr => hno r v (List.mem_append_right _ hr)
    obtain ⟨k1, k2, k3⟩ := hw.modes fun r v hr => hno r v (List.mem_append_left _ hr)
    exact ⟨h1.trans k1, h2.trans k2, h3.trans k3⟩

theorem Written.all (h : s.Holds f c g) (ws : List RegWrite) : ∃ d k, Written f ws s (ws.foldl (fun s w => s.applyWrite f w) s) c d g k := by
  induction ws generalizing s c g with
  | nil => exact ⟨c, g, .nil h⟩
  | cons w ws ih =>
    obtain ⟨d, k, hw⟩ := Written.one h w
    obtain ⟨e, l, hws⟩ := ih hw.holds
    exact ⟨e, l, hw.trans hws⟩

/-- The writes of a flight that no continuation issued; what they mean to forks changes forks alone (R314). -/
theorem Written.applyWrites (h : s.Holds f c g) (hcont : f.cont = none) (ws : List RegWrite) :
    ∃ d k, Written f ws s (s.applyWrites f ws) c d g k := by
  obtain ⟨d, k, hw⟩ := Written.all h ws
  unfold State.applyWrites
  simp only [hcont]
  split
  · refine ⟨_, _, List.append_nil ws ▸ hw.trans (ws' := [])
      ⟨hw.holds.modGroup ?_, rfl, rfl, rfl, rfl, rfl, rfl, rfl, rfl, rfl, fun _ => ⟨rfl, rfl, rfl⟩⟩⟩
    exact fun _ => rfl
  · exact ⟨d, k, hw⟩

end

/-! ### After the writes -/

/-- A change of the group of a flight that keeps the comb's other parts and the state's. -/
structure Within (f : Flight) (s t : State) (c d : Comb) (h : Group) : Prop where
  holds   : t.Holds f d h
  outer   : t.outer = s.outer
  coh     : t.coh = s.coh
  flights : t.flights = s.flights
  cores   : t.cores = s.cores
  core    : d.core = c.core
  binds   : d.binds = c.binds

section
variable {f : Flight} {s : State} {c : Comb} {g : Group}

theorem Within.modGroup (h : s.Holds f c g) {k : Group → Group} (hk : ∀ x, (k x).gidx = x.gidx) :
    ∃ d, Within f s (s.modGroup f.comb f.group k) c d (k g) := ⟨_, h.modGroup hk, rfl, rfl, rfl, rfl, rfl, rfl⟩

theorem Within.refl (h : s.Holds f c g) : Within f s s c c g := ⟨h, rfl, rfl, rfl, rfl, rfl, rfl⟩

theorem Within.trans {t u : State} {d e : Comb} {h k : Group} (hst : Within f s t c d h) (htu : Within f t u d e k) : Within f s u c e k :=
  ⟨htu.holds, htu.outer.trans hst.outer, htu.coh.trans hst.coh, htu.flights.trans hst.flights, htu.cores.trans hst.cores,
    htu.core.trans hst.core, htu.binds.trans hst.binds⟩

/-- A path that takes the latch value of a flight, when it still does (R108, R109). -/
def Path.takeLatch (f : Flight) (x : Latch) (p : Path) : Path :=
  if p.epoch == f.epoch && p.follows f.ord.sid then { p with latches := setAt p.latches f.slot x } else p

/-- The group once the latch of a flight is filled. -/
def Group.latched (f : Flight) (l : Option Latch) (g : Group) : Group :=
  match l with
  | none => g
  | some x => g.modPath f.path (Path.takeLatch f x)

theorem Path.takeLatch_parts (f : Flight) (x : Latch) (p : Path) :
    (p.takeLatch f x).place = p.place ∧ (p.takeLatch f x).exm = p.exm := by
  unfold Path.takeLatch; split <;> exact ⟨rfl, rfl⟩

theorem Group.latched_regs (f : Flight) (l : Option Latch) (g : Group) :
    (g.latched f l).regs = g.regs ∧ (g.latched f l).kept = g.kept ∧ (g.latched f l).modes = g.modes := by
  unfold Group.latched; split <;> exact ⟨rfl, rfl, rfl⟩

/-- A view of paths that the latch does not touch. -/
theorem Group.latched_map {α : Type} (view : Path → α) (hv : ∀ x p, view (Path.takeLatch f x p) = view p) (l : Option Latch) (g : Group) :
    (g.latched f l).paths.map view = g.paths.map view := by
  unfold Group.latched
  split
  · rfl
  · rw [Group.modPath, List.map_map]
    refine List.map_congr_left fun p _ => ?_
    simp only [Function.comp_apply]
    split
    · exact hv _ p
    · rfl

theorem Within.applyLatch (h : s.Holds f c g) (l : Option Latch) : ∃ d, Within f s (s.applyLatch f l) c d (g.latched f l) := by
  cases l with
  | none => exact ⟨c, .refl h⟩
  | some x => exact Within.modGroup h fun _ => rfl

theorem Within.applyFlags (h : s.Holds f c g) (hcont : f.cont = none) (nf : BitVec 7) (nfl : List (BitVec 7)) :
    ∃ d, Within f s (s.applyFlags f nf nfl) c d { g with nf := g.nf ||| nf } := by
  unfold State.applyFlags
  simp only [hcont]
  exact Within.modGroup h fun _ => rfl

/-- A group with a path left is not over. -/
theorem Within.settle (h : s.Holds f c g) (he : g.ended = false) (hp : g.paths ≠ []) : ∃ d, Within f s (s.settle f.comb) c d g := by
  have hrun : s.groupDone f.comb g = false := by simp [State.groupDone, hp]
  have hid : ∀ y : Comb, y.id = f.comb → (c.marked (s.groupDone f.comb)).id = f.comb := fun _ _ => show c.id = f.comb from State.id_of_comb? h.comb
  rw [State.settle_running h.comb h.group he hrun]
  refine ⟨c.marked (s.groupDone f.comb), ⟨?_, ?_⟩, rfl, rfl, rfl, rfl, rfl, rfl⟩
  · rw [State.comb?_modComb_same _ hid, h.comb]; rfl
  · rw [Comb.group?_marked, h.group, Option.map_some, hrun]; rfl

/-- The entry that a store of a flight puts into the store buffer, for context `x` (R214, R291). -/
def State.entryOf (s : State) (f : Flight) (c : Comb) (x : Nat) (st : SpecEntry) : SBEntry :=
  { eid := s.clk.serial, core := c.core, launch := c.launch, comb := c.id, group := f.group, fid := f.fid, ctx := x, asid := s.asid x,
    ord := st.ord, va := st.va, tt := st.tt, data := st.data, side := st.side, reps := st.reps, frm := f.frm, satf := f.satf, after := f.cmds }

def State.buffer (f : Flight) (c : Comb) (x : Nat) (s : State) (st : SpecEntry) : State :=
  { s.bump with coh := { s.coh with sb := s.coh.sb ++ [s.entryOf f c x st] } }

/-- Stores enter the store buffer in order, behind what it holds. -/
theorem State.foldl_buffer (f : Flight) (c : Comb) (x : Nat) (l : List SpecEntry) (s : State) :
    ∃ n es, l.foldl (State.buffer f c x) s = { s with clk := { s.clk with serial := n }, coh := { s.coh with sb := s.coh.sb ++ es } }
      ∧ es.map (fun x => (x.core, x.comb, x.group, x.ord, x.va, x.tt, x.data, x.side, x.reps))
        = l.map fun x => (c.core, c.id, f.group, x.ord, x.va, x.tt, x.data, x.side, x.reps) := by
  induction l generalizing s with
  | nil => exact ⟨s.clk.serial, [], by rw [List.append_nil]; rfl, rfl⟩
  | cons st l ih =>
    obtain ⟨n, es, hs, hes⟩ := ih (State.buffer f c x s st)
    refine ⟨n, s.entryOf f c x st :: es, ?_, ?_⟩
    · rw [List.foldl_cons, hs]
      simp only [State.buffer, State.bump, List.append_assoc, List.singleton_append]
    · exact congrArg (List.cons _) hes

/-- The state with entries behind those of the store buffer, and another next serial number. -/
def State.withEntries (s : State) (n : Nat) (es : List SBEntry) : State :=
  { s with clk := { s.clk with serial := n }, coh := { s.coh with sb := s.coh.sb ++ es } }

theorem State.bufferStores_store (h : s.Holds f c g) (hcont : f.cont = none) (hfin : f.fin = .store) :
    s.bufferStores f = (f.stores.foldl (State.buffer f c (s.ctxOf c)) s).squashSeen c.core f.comb f.group f.ord (State.storesTo f.stores) := by
  unfold State.bufferStores
  simp only [hfin, bne_self_eq_false, Bool.false_eq_true, if_false, hcont, h.comb]
  rfl

/-- A store's entries, and no others, enter the store buffer; what a continuation has seen of their bytes changes forks alone. -/
theorem Within.bufferStores (h : s.Holds f c g) (hcont : f.cont = none) :
    ∃ n es d fs, Within f (s.withEntries n es) (s.bufferStores f) c d { g with forks := fs } ∧ (f.fin ≠ .store → es = [])
      ∧ (f.fin = .store → es.map (fun x => (x.core, x.comb, x.group, x.ord, x.va, x.tt, x.data, x.side, x.reps))
          = f.stores.map fun x => (c.core, c.id, f.group, x.ord, x.va, x.tt, x.data, x.side, x.reps)) := by
  by_cases hfin : f.fin = .store
  · obtain ⟨n, es, hes, hmap⟩ := State.foldl_buffer f c (s.ctxOf c) f.stores s
    have hb : (s.withEntries n es).Holds f c g := ⟨h.comb, h.group⟩
    rw [State.bufferStores_store h hcont hfin, hes]
    obtain ⟨d, hd⟩ := Within.modGroup hb (k := fun g => { g with forks := g.forks.map _ }) fun _ => rfl
    exact ⟨n, es, d, _, hd, fun hno => absurd hfin hno, fun _ => hmap⟩
  · have hne : (f.fin != .store) = true := by simp [hfin]
    have hs : s.withEntries s.clk.serial [] = s := by rw [State.withEntries, List.append_nil]
    refine ⟨s.clk.serial, [], c, g.forks, ?_, fun _ => rfl, fun hst => absurd hst hfin⟩
    rw [State.bufferStores, if_pos hne, hs]
    exact .refl h

end

/-- A view of paths that includes their number is found with the path. -/
theorem Group.path?_of_map {α : Type} {view : Path → α} {num : α → Nat} (hv : ∀ p, num (view p) = p.pix) {g h : Group}
    (hp : h.paths.map view = g.paths.map view) (i : Nat) : (h.path? i).map view = (g.path? i).map view := by
  have hfind (l : List Path) : (l.find? fun p => p.pix == i).map view = (l.map view).find? fun a => num a == i := by
    rw [List.find?_map]
    simp only [Function.comp_def, hv]
  exact (hfind h.paths).trans (hp ▸ (hfind g.paths).symm)

/-- The group once a flight has completed, from the group with its writes: latch filled, flags in NF, its flag done. -/
def Group.finished (f : Flight) (l : Option Latch) (nf : BitVec 7) (fs : List Fork) (g : Group) : Group :=
  { g.latched f l with nf := (g.latched f l).nf ||| nf, forks := fs, paths := (g.latched f l).paths.map (Path.doneFlag f.fid) }

theorem Group.finished_ended {f : Flight} {l : Option Latch} {nf : BitVec 7} {fs : List Fork} {g : Group} (he : g.ended = false) :
    (g.finished f l nf fs).ended = false := by
  have hk := (g.latched_regs f l).2.1
  simp only [Group.kept, Prod.mk.injEq] at hk
  exact hk.2.2.2.2.2.2.trans he

theorem Group.finished_length (f : Flight) (l : Option Latch) (nf : BitVec 7) (fs : List Fork) (g : Group) :
    (g.finished f l nf fs).paths.length = g.paths.length := by
  have h := congrArg List.length (g.latched_map Path.place (fun x p => (p.takeLatch_parts f x).1) l)
  simpa [Group.finished] using h

/-- What completing a flight comes to (R93): its writes, and then the rest. -/
theorem State.complete_finishes {s : State} {f : Flight} {c : Comb} {g : Group} (h : s.Holds f c g) (hcont : f.cont = none)
    (he : g.ended = false) (hp : g.paths ≠ []) :
    ∃ t d k e fs es, Written f (resultOf f).1 s t c d g k ∧ (s.complete f).Holds f e (k.finished f (resultOf f).2.1 (resultOf f).2.2 fs)
      ∧ (s.complete f).outer = s.outer ∧ (s.complete f).cores = t.cores ∧ e.binds = d.binds
      ∧ (s.complete f).flights = s.flights.filter (fun x => x.fid != f.fid)
      ∧ (s.complete f).coh = { s.coh with sb := s.coh.sb ++ es } ∧ (f.fin ≠ .store → es = [])
      ∧ (f.fin = .store → es.map (fun x => (x.core, x.comb, x.group, x.ord, x.va, x.tt, x.data, x.side, x.reps))
          = f.stores.map fun x => (c.core, f.comb, f.group, x.ord, x.va, x.tt, x.data, x.side, x.reps)) := by
  obtain ⟨d, k, hw⟩ := Written.applyWrites h hcont (resultOf f).1
  obtain ⟨d2, h2⟩ := Within.applyLatch hw.holds (resultOf f).2.1
  obtain ⟨d3, h3⟩ := Within.applyFlags h2.holds hcont (resultOf f).2.2 (laneFlags f)
  obtain ⟨n, es, d4, fs, h4, hno, hst⟩ := Within.bufferStores h3.holds hcont
  obtain ⟨d5, h5⟩ := Within.modGroup (k := fun g => { g with paths := g.paths.map (Path.doneFlag f.fid) })
    (s := (State.bufferStores _ f).keepFlights fun x => x.fid != f.fid) ⟨h4.holds.comb, h4.holds.group⟩ fun _ => rfl
  have hend : k.ended = false := (congrArg (fun x => x.2.2.2.2.2.2) hw.kept).trans he
  have hpaths : (k.finished f (resultOf f).2.1 (resultOf f).2.2 fs).paths ≠ [] := by
    have hl := congrArg List.length hw.place
    rw [← List.length_pos_iff] at hp ⊢
    rw [Group.finished_length]
    rw [List.length_map, List.length_map] at hl
    rw [hl]
    exact hp
  obtain ⟨d6, h6⟩ := Within.settle h5.holds (Group.finished_ended (l := (resultOf f).2.1) (nf := (resultOf f).2.2) (fs := fs) hend) hpaths
  have houter := h4.outer.trans (h3.outer.trans (h2.outer.trans hw.outer))
  have hcoh := h3.coh.trans (h2.coh.trans hw.coh)
  have hflights := h4.flights.trans (h3.flights.trans (h2.flights.trans hw.flights))
  have hcores := h4.cores.trans (h3.cores.trans h2.cores)
  have hcore := h3.core.trans (h2.core.trans hw.core)
  refine ⟨_, d, k, d6, fs, es, hw, h6.holds, h6.outer.trans (h5.outer.trans houter), h6.cores.trans (h5.cores.trans hcores),
    h6.binds.trans (h5.binds.trans (h4.binds.trans (h3.binds.trans h2.binds))), ?_, ?_, hno, ?_⟩
  · exact h6.flights.trans (h5.flights.trans (congrArg (fun l => l.filter fun x : Flight => x.fid != f.fid) hflights))
  · refine h6.coh.trans (h5.coh.trans (h4.coh.trans ?_))
    simp only [State.withEntries, hcoh]
  · intro hfin
    rw [← hcore, ← State.id_of_comb? h3.holds.comb]
    exact hst hfin

theorem foldl_bindWrite_of_none {ws : List RegWrite} (bs : List Binding) (h : ∀ n b, RegWrite.bind n b ∉ ws) : ws.foldl bindWrite bs = bs :=
  List.foldlRecOn (motive := fun x => x = bs) ws bindWrite rfl fun x hx w hw => by
    cases w with
    | bind n b => exact absurd hw (h n b)
    | _ => exact hx

section
variable (f : Flight) (l : Option Latch) (nf : BitVec 7) (fs : List Fork) (g : Group)

theorem Group.finished_same : (g.finished f l nf fs).regs = g.regs ∧ (g.finished f l nf fs).kept = g.kept := by
  obtain ⟨hr, hk, -⟩ := g.latched_regs f l
  exact ⟨hr, hk⟩

/-- Of the modes, only NF takes the flags (R72). -/
theorem Group.finished_modes : (g.finished f l nf fs).modes = { g with nf := g.nf ||| nf }.modes := by
  obtain ⟨-, -, hm⟩ := g.latched_regs f l
  simp only [Group.modes, Prod.mk.injEq] at hm ⊢
  obtain ⟨hnf, hm⟩ := hm
  exact ⟨by rw [Group.finished, hnf], hm⟩

theorem Group.finished_map {α : Type} (view : Path → α) (hv : ∀ x p, view (Path.takeLatch f x p) = view p)
    (hd : ∀ p, view (Path.doneFlag f.fid p) = view p) : (g.finished f l nf fs).paths.map view = g.paths.map view := by
  rw [← g.latched_map view hv l, Group.finished, List.map_map]
  exact List.map_congr_left fun p _ => hd p

/-- The flag of a completed flight is pending in no path (R93). -/
theorem Group.finished_pend : ∀ p ∈ (g.finished f l nf fs).paths, ∀ x ∈ p.pend, x.2 ≠ f.fid := by
  intro p hp x hx
  obtain ⟨q, -, rfl⟩ := List.mem_map.mp hp
  simpa using (List.mem_filter.mp hx).2

theorem Group.finished_path? {x : Latch} {p : Path} (hp : g.path? f.path = some p) :
    (g.finished f (some x) nf fs).path? f.path = some ((p.takeLatch f x).doneFlag f.fid) := by
  have hlatch : (g.latched f (some x)).path? f.path = some (p.takeLatch f x) := by
    rw [Group.latched, Group.path?_modPath_same _ _ fun p => congrArg Prod.fst (p.takeLatch_parts f x).1, hp]
    rfl
  have hdone := find?_map_key (key := Path.pix) (f := Path.doneFlag f.fid) (fun _ => rfl) (g.latched f (some x)).paths f.path
  exact hdone.trans (by rw [← Group.path?, hlatch]; rfl)

end

theorem Path.takeLatch_latches {f : Flight} {x : Latch} {p : Path} (he : p.epoch = f.epoch) (hs : p.sid = f.ord.sid) :
    (p.takeLatch f x).latches = setAt p.latches f.slot x := by
  simp [Path.takeLatch, Path.follows, he, hs]

/-- Settles O31: the writes of the flight, one by one, and then its latch, its flags, its stores and its own flag. -/
theorem instructionCompletes : Obligations.InstructionCompletes := by
  unfold Obligations.InstructionCompletes
  intro s fl c g res ws hfl hcomp hcont hc hg he hp
  obtain ⟨t, d, k, e, fs, es, hw, hh, houter, hcores, hbinds, hflights, hcoh, hno, hst⟩ := State.complete_finishes ⟨hc, hg⟩ hcont he hp
  have hexec : exec (.instructionComplete fl.fid) s = .next (s.complete fl) := by
    change execInstructionComplete fl.fid s = _
    rw [execInstructionComplete, hfl]
    simp only [hcomp, if_true]
  obtain ⟨hregs, hkept⟩ := k.finished_same fl res.2.1 res.2.2 fs
  have hregs := hregs.trans hw.regs
  have hkept := hkept.trans hw.kept
  simp only [Group.regs, Group.kept, State.outer, Prod.mk.injEq] at hregs hkept houter
  obtain ⟨hs, hx, hq, hv⟩ := hregs
  obtain ⟨hclosed, hdone, hcard, hbatches, hstack, hexited, -⟩ := hkept
  obtain ⟨hmem, hjobs, hlaunches, hdev, hctxs, hspire, hcycle⟩ := houter
  have hplace := (k.finished_map fl res.2.1 res.2.2 fs Path.place (fun x p => (p.takeLatch_parts fl x).1) fun _ => rfl).trans hw.place
  refine ⟨s.complete fl, e, k.finished fl res.2.1 res.2.2 fs, hexec, hh.comb, hh.group, hflights, hmem, hjobs, hlaunches, hdev, hctxs, hspire,
    hcycle, fun n hn => ?_, fun n hn => ?_, fun n l hl hn => ?_, fun n l hl hn => ?_, fun n v hn hlen => ?_, fun n v hn hlen => ?_,
    fun n m v l hn hlen hl hm => ?_, fun n m v l hn hone hlen hl hm => ?_, fun n b hn hlen => ?_, fun hn => ?_, fun hn => ?_,
    hclosed, hdone, hcard, hbatches, hstack, hexited, hplace, k.finished_pend fl res.2.1 res.2.2 fs, fun x p hlatch hpath hep hsid => ?_,
    fun hfin => ?_, fun hfin => ⟨es, by rw [hcoh], by rw [hcoh], by rw [hcoh], hst hfin⟩⟩
  · rw [hs]; exact getAt_s_writes g hn
  · rw [hx]; exact getAt_x_writes g hn
  · rw [hq]; exact lane_q_writes g hn
  · rw [hv]; exact vlane_v_writes g hl hn
  · rw [hs, show (resultOf fl).1 = [.s n v] from hn]
    exact (getAt_setAt_self _ _ _).trans (if_pos hlen)
  · rw [hx, show (resultOf fl).1 = [.x n v] from hn]
    exact (getAt_setAt_self _ _ _).trans (if_pos hlen)
  · rw [hq, show (resultOf fl).1 = [.q n m v] from hn]
    simp only [List.foldl_cons, List.foldl_nil, Group.write, getAt_setAt_self, hlen, if_true, lane_merge, hm]
  · rw [hv]; exact vlane_v_written hn hone hlen hl hm
  · rw [hbinds, hw.binds, show (resultOf fl).1 = [.bind n b] from hn]
    exact (getAt_setAt_self _ _ _).trans (if_pos hlen)
  · rw [hbinds, hw.binds]
    exact foldl_bindWrite_of_none _ hn
  · obtain ⟨hmodes, hcores', hexm⟩ := hw.modes hn
    have hfin := k.finished_modes fl res.2.1 res.2.2 fs
    simp only [Group.modes, Prod.mk.injEq] at hmodes hfin
    obtain ⟨hnf, hrest⟩ := hmodes
    obtain ⟨hnf', hrest'⟩ := hfin
    obtain ⟨hseed, hfrm, hsatf, hlogw, hprio, hgang, htrap⟩ := hrest
    obtain ⟨hseed', hfrm', hsatf', hlogw', hprio', hgang', htrap'⟩ := hrest'
    exact ⟨hnf'.trans (by rw [hnf]), hseed'.trans hseed, hfrm'.trans hfrm, hsatf'.trans hsatf, hlogw'.trans hlogw, hprio'.trans hprio,
      hgang'.trans hgang, htrap'.trans htrap, hcores.trans hcores',
      (k.finished_map fl res.2.1 res.2.2 fs (fun p => p.exm) (fun x p => (p.takeLatch_parts fl x).2) fun _ => rfl).trans hexm⟩
  · have hfound := Group.path?_of_map (num := Prod.fst) (fun _ => rfl) hw.stream fl.path
    rw [hpath, Option.map_some, Option.map_eq_some_iff] at hfound
    obtain ⟨q, hq, hstream⟩ := hfound
    simp only [Path.stream, Prod.mk.injEq] at hstream
    obtain ⟨-, hlatches, hepoch, hqsid⟩ := hstream
    refine ⟨(q.takeLatch fl x).doneFlag fl.fid, ?_, ?_⟩
    · rw [hlatch]
      exact k.finished_path? fl res.2.2 fs hq
    · rw [← hlatches]
      exact Path.takeLatch_latches (hepoch.trans hep) (hqsid.trans hsid)
  · rw [hcoh, hno hfin, List.append_nil]

end Sys2Proof.Machine
end

section
/-! The loader's commands and the ends of loads (R134, R135, R137): the statement O51. -/

namespace Sys2Proof.Machine

/-! ### Steps of a load -/

/-- What a load's part answers in a state: a value or a STATUS, and the state that it leaves. -/
def LoadM.gives {α : Type} (m : LoadM α) (s : State) : Except Nat α × State := m s

section
variable {α β : Type} {m : LoadM α} {k : α → LoadM β} {s t : State}

/-- A part that succeeds hands on its value and its state. -/
theorem LoadM.gives_bind_ok {a : α} (h : m.gives s = (.ok a, t)) : (m >>= k).gives s = (k a).gives t := by
  change (ExceptT.bindCont k (m.gives s).1) (m.gives s).2 = _
  rw [h]
  rfl

/-- A part that stops ends the load with its STATUS. -/
theorem LoadM.gives_bind_error {e : Nat} (h : m.gives s = (.error e, t)) : (m >>= k).gives s = (.error e, t) := by
  change (ExceptT.bindCont k (m.gives s).1) (m.gives s).2 = _
  rw [h]
  rfl

end

theorem demand_true {p : Prop} [Decidable p] (st : Nat) (s : State) (h : p) : (demand (decide p) st).gives s = (.ok (), s) := by
  rw [decide_eq_true h]; rfl

theorem demand_false {ok : Bool} (st : Nat) (s : State) (h : ok = false) : (demand ok st).gives s = (.error st, s) := by
  rw [h]; rfl

theorem readFile_ok {l : LoadCtx} {off n : Nat} {s t : State} {bs : List Byte} (h : s.devRead l.c (l.cmd.addr.toNat % 2 ^ 56 + off) n = .ok (bs, t)) :
    (readFile l off n).gives s = (.ok bs, t) := by
  change (match s.devRead l.c (l.cmd.addr.toNat % 2 ^ 56 + off) n with
    | .ok (bs, s) => (do set s; pure bs : LoadM (List Byte))
    | .error e => throw (unread e)).gives s = _
  rw [h]
  rfl

/-! ### Where the first check stops (R135) -/

/-- The pages of a file image, as the first check tests them. -/
def LoadCtx.pagesTest (l : LoadCtx) : LoadM Unit :=
  let n := l.cmd.len.toNat
  let a := l.cmd.addr.toNat % 2 ^ 56
  testPages l (a / 65536 * 65536) (if n = 0 then 0 else (a + n - 1) / 65536 + 1 - a / 65536)

section
variable {l : LoadCtx} {s t : State} {a n : Nat} (ha : a = l.cmd.addr.toNat % 2 ^ 56) (hn : n = l.cmd.len.toNat)
include ha hn

theorem runLoad_beyond (h : 2 ^ 56 < a + n) : (runLoad l).gives s = (.error 0x39, s) := by
  subst ha hn
  exact LoadM.gives_bind_error (LoadM.gives_bind_error (demand_false 0x39 s (decide_eq_false (Nat.not_le.mpr h))))

theorem runLoad_unread {e : Nat} (h : a + n ≤ 2 ^ 56) (hp : l.pagesTest.gives s = (.error e, t)) : (runLoad l).gives s = (.error e, t) := by
  subst ha hn
  exact LoadM.gives_bind_error ((LoadM.gives_bind_ok (demand_true 0x39 s h)).trans (LoadM.gives_bind_error hp))

theorem runLoad_short (h : a + n ≤ 2 ^ 56) (hp : l.pagesTest.gives s = (.ok (), t)) (hshort : n < 256) : (runLoad l).gives s = (.error 0x30, t) := by
  subst ha hn
  refine LoadM.gives_bind_error ((LoadM.gives_bind_ok (demand_true 0x39 s h)).trans ((LoadM.gives_bind_ok hp).trans ?_))
  exact LoadM.gives_bind_error (demand_false 0x30 t (decide_eq_false (Nat.not_le.mpr hshort)))

theorem runLoad_noMagic {bs : List Byte} {t1 : State} (h : a + n ≤ 2 ^ 56) (hp : l.pagesTest.gives s = (.ok (), t)) (hlong : 256 ≤ n)
    (hr : t.devRead l.c a 256 = .ok (bs, t1)) (hm : fieldAt bs 0 4 ≠ 0x464F4E4C) : (runLoad l).gives s = (.error 0x30, t1) := by
  subst ha hn
  refine LoadM.gives_bind_error ((LoadM.gives_bind_ok (demand_true 0x39 s h)).trans ((LoadM.gives_bind_ok hp).trans
    ((LoadM.gives_bind_ok (demand_true 0x30 t hlong)).trans ((LoadM.gives_bind_ok (readFile_ok hr)).trans ?_))))
  exact LoadM.gives_bind_error (demand_false 0x30 t1 (by simp [hm]))

end

/-! ### The end of a load -/

/-- The context once its load has ended with a STATUS. -/
def State.loadEnded (s : State) (c st : Nat) : State := s.modCtx c fun x => { x with lstatus := BitVec.ofNat 8 st, loading := none }

section
variable {s t : State} {c : Nat} {cmd : LoadCmd} (hl : (s.ctx c).loading = some cmd)
include hl

theorem loadFinish_disabled (hen : (s.ctx c).en = false) : exec (.loadFinish c) s = .next (s.loadEnded c 0x39) := by
  change execLoadFinish c s = _
  simp only [execLoadFinish, hl, hen, Bool.not_false, if_true]
  rfl

variable (hen : (s.ctx c).en = true)
include hen

theorem loadFinish_reviving (hr : (s.ctx c).reviving = true) : exec (.loadFinish c) s = .next s := by
  change execLoadFinish c s = _
  simp only [execLoadFinish, hl, hen, hr, Bool.not_true, Bool.false_eq_true, if_false, if_true]

variable (hr : (s.ctx c).reviving = false)
include hr

theorem loadFinish_ok {st : Nat} (h : (runLoad { c := c, cmd := cmd }).gives s = (.ok st, t)) : exec (.loadFinish c) s = .next (t.loadEnded c st) := by
  change execLoadFinish c s = _
  change runLoad { c := c, cmd := cmd } s = _ at h
  simp only [execLoadFinish, hl, hen, hr, Bool.not_true, Bool.false_eq_true, if_false, h]
  rfl

/-- A check that fails ends the load with its STATUS, or leaves it waiting for the pager with STATUS 0. -/
theorem loadFinish_error {st : Nat} (h : (runLoad { c := c, cmd := cmd }).gives s = (.error st, t)) :
    exec (.loadFinish c) s = .next (if st = 0 then t else t.loadEnded c st) := by
  change execLoadFinish c s = _
  change runLoad { c := c, cmd := cmd } s = _ at h
  simp only [execLoadFinish, hl, hen, hr, Bool.not_true, Bool.false_eq_true, if_false, h]
  cases st <;> rfl

theorem loadFinish_stops {st : Nat} (h : (runLoad { c := c, cmd := cmd }).gives s = (.error st, t)) (hst : st ≠ 0) :
    exec (.loadFinish c) s = .next (t.loadEnded c st) := by
  rw [loadFinish_error hl hen hr h, if_neg hst]

end

/-! ### Commands -/

/-- OP 1 while no load runs copies the loader registers (R135). -/
theorem loaderLoad_copies {s : State} {c : Nat} {v : W64} (he : s.Exposes c) (hv : v.toNat % 4 = 1) :
    exec (.loaderLoad c v) s = .next (if (s.ctx c).lstatus = 1 then s.roused else s.roused.modCtx c fun x => { x with
      lstatus := 1
      loading := some { addr := (s.ctx c).objaddr, len := (s.ctx c).objlen, base := (s.ctx c).imgbase, sigreq := (s.ctx c).sigreq,
                        polkey := (s.ctx c).polkey } }) := by
  change Host.Outcome.next (s.pageWrite c _) = _
  rw [State.pageWrite_exposed _ he]
  simp only [State.roused_ctx, hv, bne_self_eq_false, Bool.false_or, beq_iff_eq]

/-- OP 2 while no load runs (R137). -/
theorem loaderUnload_answers {s : State} {c : Nat} {v : W64} (he : s.Exposes c) (hv : v.toNat % 4 = 2) (hidle : (s.ctx c).lstatus ≠ 1) :
    exec (.loaderUnload c v) s = .next (if ∃ o ∈ (s.ctx c).objs, o.handle = v.extractLsb' 32 32 ∧ o.unloaded = false then
        (s.roused.modCtx c fun x => { x with
          lstatus := 4, objs := x.objs.map fun o => { o with unloaded := o.unloaded || o.handle == v.extractLsb' 32 32 } }).sweepObjs c
      else s.roused.modCtx c fun x => { x with lstatus := 0x38 }) := by
  change Host.Outcome.next (s.pageWrite c _) = _
  rw [State.pageWrite_exposed _ he]
  simp only [State.roused_ctx, hv, bne_self_eq_false, Bool.false_or, beq_iff_eq, hidle, if_false, List.any_eq_true, Bool.and_eq_true,
    Bool.not_eq_true']

/-- Settles O51: the commands, and the end of a load by what its checks give. -/
theorem loaderEvents : Obligations.LoaderEvents := by
  unfold Obligations.LoaderEvents
  intro s c x done
  refine ⟨?_, ?_, ?_⟩
  · intro v he hv
    rw [loaderLoad_copies he hv]
    exact ⟨fun hb => by rw [if_pos hb], fun hb => by rw [if_neg hb]; rfl⟩
  · intro cmd hl a n l pages ends
    refine ⟨loadFinish_disabled hl, loadFinish_reviving hl, fun hen hr => ?_⟩
    have hstops {st : Nat} {t : State} (h : (runLoad l).gives s = (.error st, t)) (hst : st ≠ 0) : ends st t := loadFinish_stops hl hen hr h hst
    refine ⟨fun h => hstops (runLoad_beyond rfl rfl h) (by decide), fun e t hfit hp => hstops (runLoad_unread rfl rfl hfit hp),
      fun t hfit hp => ⟨fun hs => ?_, fun h t1 hlong hread hm => ?_⟩, fun st t h => loadFinish_ok hl hen hr h, fun st t h => ⟨hstops h, fun hst => ?_⟩⟩
    · exact hstops (runLoad_short rfl rfl hfit hp hs) (by decide)
    · exact hstops (runLoad_noMagic rfl rfl hfit hp hlong hread hm) (by decide)
    · rw [loadFinish_error hl hen hr h, if_pos hst]
  · intro v he hv hidle h
    rw [loaderUnload_answers he hv hidle]
    refine ⟨fun hlive => by rw [if_pos hlive], fun hdead => ?_⟩
    rw [if_neg]
    rintro ⟨o, ho, hh, hu⟩
    rw [hdead o ho hh] at hu
    cases hu

end Sys2Proof.Machine
end

section
/-! Illegal encodings and operand traps (R97, R106, R110, R116, R182): the statement O15. -/

namespace Sys2Proof.Machine

/-! ### The operand checks -/

section
variable {e : Env} {srcs : List (Src × Env.Need)} {dst : Dst} {dn : Env.Need}

/-- The register numbers that an instruction names, each with its registers per lane, in the order of log 102. -/
def Env.numbers (e : Env) (srcs : List (Src × Env.Need)) (dst : Dst) (dn : Env.Need) : List (Nat × Nat) :=
  ((e.dstNum dst).map fun r => (r, dn.span)).toList ++ srcs.filterMap fun x => (e.srcNum x.1).map fun r => (r, x.2.span)

/-- What a number and its registers per lane report of the bounds (R106). -/
def Env.beyond (e : Env) (x : Nat × Nat) : Option Nat := if e.c.regs < x.1 + x.2 then some (max x.1 e.c.regs) else none

theorem Env.numOut_eq (e : Env) (n : Option Nat) (span : Nat) : e.numOut n span = (n.map fun r => (r, span)).bind e.beyond := by
  cases n with
  | none => rfl
  | some r =>
    simp only [Env.numOut, Env.beyond, Option.map_some, Option.bind_some]
    by_cases h : r + span ≤ e.c.regs
    · rw [if_pos h, if_neg (not_lt.mpr h)]
    · rw [if_neg h, if_pos (not_le.mp h)]
      by_cases hr : e.c.regs ≤ r
      · rw [if_pos hr, max_eq_left hr]
      · rw [if_neg hr, max_eq_right (by omega)]

/-- The numbers that the checks find out of bounds are those that the instruction names beyond the bound. -/
theorem Env.numOut_list (e : Env) (srcs : List (Src × Env.Need)) (dst : Dst) (dn : Env.Need) :
    (e.numOut (e.dstNum dst) dn.span :: srcs.map fun x => e.numOut (e.srcNum x.1) x.2.span).filterMap id
      = (e.numbers srcs dst dn).filterMap e.beyond := by
  have hsrcs : (srcs.map fun x => e.numOut (e.srcNum x.1) x.2.span).filterMap id
      = (srcs.filterMap fun x => (e.srcNum x.1).map fun r => (r, x.2.span)).filterMap e.beyond := by
    rw [List.filterMap_map, List.filterMap_filterMap]
    exact List.filterMap_congr fun x _ => e.numOut_eq _ _
  rw [Env.numbers, List.filterMap_append, ← hsrcs, List.filterMap_cons, Env.numOut_eq]
  cases e.dstNum dst with
  | none => rfl
  | some r => cases h : e.beyond (r, dn.span) <;> simp [h]

/-- With operands that are legal as they stand, the checks look at the numbers and then at the latches. -/
theorem Env.check_of_legal (hs : ∀ x ∈ srcs, e.srcBad x.1 x.2 = false) (hd : ∀ r, e.dstNum dst = some r → r % dn.mult = 0) :
    e.check srcs dst dn = match (e.numbers srcs dst dn).filterMap e.beyond with
      | n :: _ => some { code := 0x05, lanes := e.p.exm, info := BitVec.ofNat 64 n }
      | [] => if srcs.any fun x => e.srcLost x.1 x.2 then some { code := 0x07, lanes := e.p.exm, open_ := true } else none := by
  have hsrc : (srcs.any fun x => e.srcBad x.1 x.2) = false := List.any_eq_false.mpr fun x hx => by simp [hs x hx]
  rw [← Env.numOut_list]
  refine (if_neg ?_).trans rfl
  rw [hsrc, Bool.false_or]
  cases h : e.dstNum dst with
  | none => simp
  | some r => simp [hd r h]

theorem filterMap_beyond_of_find {l : List (Nat × Nat)} {r w : Nat} (h : l.find? (fun x => decide (e.c.regs < x.1 + x.2)) = some (r, w)) :
    ∃ rest, l.filterMap e.beyond = max r e.c.regs :: rest := by
  obtain ⟨hout, before, after, rfl, hin⟩ := List.find?_eq_some_iff_append.mp h
  refine ⟨after.filterMap e.beyond, ?_⟩
  have hnone : before.filterMap e.beyond = [] := List.filterMap_eq_nil_iff.mpr fun x hx => if_neg (by simpa using hin x hx)
  have hsome : e.beyond (r, w) = some (max r e.c.regs) := if_pos (by simpa using hout)
  rw [List.filterMap_append, hnone, List.nil_append, List.filterMap_cons_some hsome]

theorem filterMap_beyond_of_find_none {l : List (Nat × Nat)} (h : l.find? (fun x => decide (e.c.regs < x.1 + x.2)) = none) :
    l.filterMap e.beyond = [] :=
  List.filterMap_eq_nil_iff.mpr fun x hx => if_neg (by simpa using List.find?_eq_none.mp h x hx)

theorem Env.srcLost_of_latch {x : Src × Env.Need} {k : BitVec 2} (hk : x.1 = .latch k)
    (h : e.latch k.toNat = .lost ∨ (x.2.uniform = true ∧ ∃ v, e.latch k.toNat = .vec v)) : e.srcLost x.1 x.2 = true := by
  rw [hk, Env.srcLost]
  rcases h with h | ⟨hu, v, h⟩ <;> rw [h]
  exact hu

end

/-! ### The trap of a row -/

/-- Every row of the table runs in the common frame. -/
theorem exec_mk_runIsa (o : Op) (f : Form) (s : State) : ∃ body, exec (Op.mk o f) s = runIsa o f s body := by
  cases o
  case nop => exact ⟨_, show execNop f s = _ from rfl⟩
  all_goals exact ⟨_, rfl⟩

section
variable {s : State} {e : Env} {o : Op} {f : Form} {tr : Trap}

/-- No continuation: the trap is taken at once. -/
theorem Env.raise_of_noFork (h : s.env? = some e) (hk : e.fork = none) (tr : Trap) :
    e.raise tr = (s.modPath e.ref fun p => { p with slot := e.k }).takeTrap e.ref tr := by
  rw [Env.raise, Env.isCont, hk, env_s h]
  rfl

/-- An encoding that is not an instruction, or a control transfer elsewhere than in the last valid slot (R97, R116). -/
theorem exec_illegal (h : s.env? = some e) (hl : o.legal f = false ∨ (o.transfers = true ∧ e.b.lastValid e.k = false)) :
    exec (Op.mk o f) s = .next (e.raise { code := 0x01, lanes := e.p.exm, open_ := true }).rested := by
  obtain ⟨body, hx⟩ := exec_mk_runIsa o f s
  rcases hl with hl | ⟨ht, hlast⟩
  · rw [hx, runIsa_illegal h hl]
  · rw [hx, runIsa, h]
    simp [ht, hlast, State.rested]

/-- A ready row whose plan is a trap raises it. -/
theorem exec_of_trap {body : Env → Plan} (h : Ready s e o f) (hx : exec (Op.mk o f) s = runIsa o f s body) (hb : body e = .trap tr) :
    exec (Op.mk o f) s = .next (e.raise tr).rested := by
  rw [hx, runIsa_ready h, hb]

theorem Env.regPlan_trap {srcs : List (Src × Env.Need)} {dn : Env.Need} {due : Nat} {res : Unit → List RegWrite × Option Latch × Fl}
    {cross : Bool} {lanes : List (BitVec 7)} {more : List (List (Src × Env.Need) × Lanes)} (hc : e.check srcs f.dst dn = some tr) :
    e.regPlan o f srcs dn due res cross lanes more = .trap tr := by
  rw [Env.regPlan, hc]

theorem lanePlan_trap {srcs : List (Src × Env.Need)} {dn : Env.Need} {due : Nat} {res : Lanes → List RegWrite × Option Latch × Fl}
    {cross : Bool} {more : List (List (Src × Env.Need) × Lanes)} (hc : e.check srcs f.dst dn = some tr) :
    lanePlan e o f srcs dn due res cross more = .trap tr := by
  unfold lanePlan
  exact Env.regPlan_trap hc

theorem elemPlan_trap {n w lat : Nat} {op : Nat → Nat → Nat → Nat × Fl}
    (hc : e.check (([f.s0, f.s1, f.s2].take n).map fun s => (s, tyNeed f.ty)) f.dst (tyNeed f.ty) = some tr) :
    elemPlan e o f n w lat op = .trap tr := by
  unfold elemPlan
  exact lanePlan_trap hc

theorem intPlan_trap {n lat : Nat} {sat : Bool} {op : Int → Int → Int → Int}
    (hc : e.check (([f.s0, f.s1, f.s2].take n).map fun s => (s, tyNeed f.ty)) f.dst (tyNeed f.ty) = some tr) :
    intPlan e o f n lat sat op = .trap tr := by
  unfold intPlan
  exact elemPlan_trap hc

theorem Env.memPlan_trap {srcs : List (Src × Env.Need)} {dn : Env.Need} {n : Nat} {uniform : Bool} {need : Access} {okTT : Nat → Bool}
    {go : Env → List Place → Plan} {post : Place → Place ⊕ LaneFault} (hc : e.check srcs f.dst dn = some tr) :
    e.memPlan f srcs dn n uniform need okTT go post = .trap tr := by
  rw [Env.memPlan, hc]

/-- The rows whose checks O15 names, with what their fields ask of their operands. -/
def checkedRows (f : Form) : List (Op × List (Src × Env.Need) × Env.Need) :=
  let u : Env.Need := { uniform := true }
  let d : Env.Need := { span := Ty.span f.ty, mult := Ty.span f.ty }
  let au : Env.Need := { uniform := match f.dst with | .scal _ => true | _ => false }
  let addr : List (Src × Env.Need) := (f.s0, au) :: (if f.mod then [(f.s1, au)] else [])
  [(.sadd, [(f.s0, u), (f.s1, u)], {}), (.smov, [(f.s0, u)], {}), (.scmp, [(f.s0, u), (f.s1, u)], {}),
    (.mts, [(f.s0, u)], {}), (.mfs, [], {}), (.add, [(f.s0, d), (f.s1, d)], d), (.mad, [(f.s0, d), (f.s1, d), (f.s2, d)], d),
    (.log, [(f.s0, d), (f.s1, d)], d), (.mov, [(f.s0, d)], d), (.cmp, [(f.s0, d), (f.s1, d)], {}),
    (.movxLd, [(f.s0, {}), (f.s1, {})], {}), (.movxSt, [(f.s0, {}), (f.s1, {})], {}), (.ld, addr, d)]

/-- A check that fails is the row's trap. -/
theorem exec_of_check {srcs : List (Src × Env.Need)} {dn : Env.Need} (hrow : (o, srcs, dn) ∈ checkedRows f) (h : Ready s e o f)
    (hc : e.check srcs f.dst dn = some tr) : exec (Op.mk o f) s = .next (e.raise tr).rested := by
  simp only [checkedRows, List.mem_cons, Prod.mk.injEq, List.not_mem_nil, or_false] at hrow
  rcases hrow with ⟨rfl, rfl, rfl⟩ | ⟨rfl, rfl, rfl⟩ | ⟨rfl, rfl, rfl⟩ | ⟨rfl, rfl, rfl⟩ | ⟨rfl, rfl, rfl⟩ | ⟨rfl, rfl, rfl⟩ | ⟨rfl, rfl, rfl⟩
    | ⟨rfl, rfl, rfl⟩ | ⟨rfl, rfl, rfl⟩ | ⟨rfl, rfl, rfl⟩ | ⟨rfl, rfl, rfl⟩ | ⟨rfl, rfl, rfl⟩ | ⟨rfl, rfl, rfl⟩
  -- The scalar rows, mts and mfs
  iterate 5 exact exec_of_trap h rfl (Env.regPlan_trap hc)
  -- add and mad, then log and mov, then cmp
  iterate 2 exact exec_of_trap h rfl (intPlan_trap hc)
  iterate 2 exact exec_of_trap h rfl (elemPlan_trap hc)
  · exact exec_of_trap h rfl (lanePlan_trap hc)
  -- movx.ld and movx.st
  iterate 2 exact exec_of_trap h rfl (by simp only [hc])
  -- ld
  · have hu : f.dst.isScal = match f.dst with | .scal _ => true | _ => false := by cases f.dst <;> rfl
    rw [← hu] at hc
    exact exec_of_trap h rfl (Env.memPlan_trap hc)

/-- movx.ld and movx.st, past the checks of their fields, raise what the numbers of their lanes ask (R182). -/
theorem exec_of_movxTrap {base : Option Nat} (hrow : (o, base) ∈ [(Op.movxLd, e.srcNum f.s0), (.movxSt, e.dstNum f.dst)])
    (h : Ready s e o f) (hc : e.check [(f.s0, {}), (f.s1, {})] f.dst {} = none)
    (ht : movxTrap e f (base.getD 0) (e.active f.pred) = some tr) : exec (Op.mk o f) s = .next (e.raise tr).rested := by
  simp only [List.mem_cons, Prod.mk.injEq, List.not_mem_nil, or_false] at hrow
  rcases hrow with ⟨rfl, rfl⟩ | ⟨rfl, rfl⟩
  · exact exec_of_trap h rfl (by simp only [hc, ht])
  · exact exec_of_trap h rfl (by simp only [hc, ht])

/-- The trap of movx is that of its lowest active lane out of bounds. -/
theorem movxTrap_lowest {base l : Nat} {act : Lanes} (hl : l < 32) (hact : lane act l = true) (hout : e.c.regs ≤ movxReg e f base l)
    (hlow : ∀ m < l, lane act m = true → movxReg e f base m < e.c.regs) :
    movxTrap e f base act = some { code := 0x05, lanes := e.p.exm, info := BitVec.ofNat 64 (movxReg e f base l) } := by
  have hfind : (lanesOf act).find? (fun l => decide (e.c.regs ≤ movxReg e f base l)) = some l := by
    rw [lanesOf, List.find?_filter, allLanes, List.find?_range_eq_some]
    refine ⟨by simp [hact, hout], List.mem_range.mpr hl, fun m hm => ?_⟩
    cases h : lane act m with
    | false => simp
    | true => simpa using hlow m hm h
  rw [movxTrap, hfind]

end

/-- Settles O15: the frame's trap for encodings, the checks' traps for operands, and movx's own for the numbers of its lanes. -/
theorem illegalEncodingTraps : Obligations.IllegalEncodingTraps := by
  unfold Obligations.IllegalEncodingTraps
  intro s e o f henv hfork traps act u d au addr
  have htraps {tr : Trap} (h : exec (Op.mk o f) s = .next (e.raise tr).rested) : traps tr := by
    rw [Env.raise_of_noFork henv hfork] at h
    exact h
  refine ⟨fun hl => ⟨_, rfl, rfl, htraps (exec_illegal henv hl)⟩, ?_, ?_⟩
  · intro srcs dn hrow hready hs hd nums out
    have hcheck := Env.check_of_legal hs hd
    change e.check srcs f.dst dn = match nums.filterMap e.beyond with | n :: _ => _ | [] => _ at hcheck
    constructor
    · intro r w hout
      obtain ⟨rest, hrest⟩ := filterMap_beyond_of_find hout
      rw [hrest] at hcheck
      exact htraps (exec_of_check hrow hready hcheck)
    · rintro hout ⟨x, hx, k, hk, hlost⟩
      rw [filterMap_beyond_of_find_none hout] at hcheck
      have hany : (srcs.any fun x => e.srcLost x.1 x.2) = true := List.any_eq_true.mpr ⟨x, hx, Env.srcLost_of_latch hk hlost⟩
      exact htraps (exec_of_check hrow hready (hcheck.trans (if_pos hany)))
  · intro base hrow hready hc num l hl hact hout hlow
    exact htraps (exec_of_movxTrap hrow hready hc (movxTrap_lowest hl hact hout hlow))

end Sys2Proof.Machine
end

section
/-! SUPPORT. From the plan of a lane instruction to its row (R176 to R180, R196): operand values, lane masks and flags. -/

namespace Sys2Proof.Machine

/-! ### Lane masks, flags and codes -/

theorem lane_or (a b : Lanes) (l : Nat) : lane (a ||| b) l = (lane a l || lane b l) := BitVec.getLsbD_or

theorem lane_laneBit {i l : Nat} (hl : l < 32) : lane (laneBit i) l = decide (i = l) := by
  simp only [lane, laneBit, BitVec.getLsbD_ofNat, hl, Nat.testBit_two_pow, decide_true, Bool.true_and]

/-- Setting the lanes of a list that satisfy a test. -/
theorem lane_foldl_laneBit (p : Nat → Bool) {l : Nat} (hl : l < 32) (is : List Nat) (m : Lanes) :
    lane (is.foldl (fun m i => if p i then m ||| laneBit i else m) m) l = (lane m l || (decide (l ∈ is) && p l)) := by
  induction is generalizing m with
  | nil => simp
  | cons i is ih =>
    rw [List.foldl_cons, ih]
    by_cases h : i = l
    · subst h
      cases hp : p i <;> simp [lane_or, lane_laneBit hl]
    · have hmem : l ∈ i :: is ↔ l ∈ is := by simp [Ne.symm h]
      cases hp : p i <;> simp [lane_or, lane_laneBit hl, h, hmem]

theorem lane_maskOf (p : Nat → Bool) {l : Nat} (hl : l < 32) : lane (maskOf p) l = p l := by
  have hzero : lane 0 l = false := BitVec.getLsbD_zero
  rw [maskOf, lane_foldl_laneBit p hl, hzero, allLanes]
  simp [hl]

theorem lt_of_lane {m : Lanes} {l : Nat} (h : lane m l = true) : l < 32 := BitVec.lt_of_getLsbD h

theorem mem_lanesOf {m : Lanes} {l : Nat} : l ∈ lanesOf m ↔ lane m l = true := by
  simpa [lanesOf, allLanes] using lt_of_lane

theorem Fl.all_map_clear {α : Type} (l : List α) : Fl.all (l.map fun _ => ({} : Fl)) = {} := by
  induction l with
  | nil => rfl
  | cons _ l ih => exact ih

/-- An element's code is below 2^w. -/
theorem Env.elem_lt (e : Env) (f : Form) (x : Src) (w l i : Nat) : e.elem f x w l i < 2 ^ w := by
  unfold Env.elem
  dsimp only
  split <;> exact Nat.mod_lt _ (Nat.two_pow_pos w)

/-! ### Rows from plans -/

section
variable {s : State} {e : Env} {o : Op} {f : Form} {body : Env → Plan} {srcs : List (Src × Env.Need)} {dn : Env.Need}
  {out : List RegWrite × Option Latch} {nf : Fl} {res : Lanes → List RegWrite × Option Latch × Fl}
  {more : List (List (Src × Env.Need) × Lanes)}

/-- A lane row from its plan, which gives the row's writes, latch and flags when a lane is active. `t` is the state with
free values taken. -/
theorem laneRow_of_plan {t : State} {lo hi due : Nat} {cross : Bool} (hx : exec (Op.mk o f) s = runIsa o f s body)
    (hb : body e = lanePlan { e with s := t } o f srcs dn due res cross more)
    (hd : e.s = s → s.clk.cycle + lo ≤ due ∧ due ≤ s.clk.cycle + hi)
    (hres : res (e.active f.pred) = (out.1, out.2, nf)) :
    LaneRow s e { e with s := t } o f srcs dn lo hi cross out nf more := by
  have hrow := regRow_of_plan (e' := { e with s := t })
    (res := fun _ => if e.active f.pred == 0 then ([], none, {}) else res (e.active f.pred)) hx hb rfl hd
  unfold LaneRow
  by_cases h : e.active f.pred = 0
  · simpa only [h, beq_self_eq_true, if_true] using hrow
  · simpa only [h, beq_iff_eq, if_false, hres] using hrow

/-- A lane row of fixed latency. -/
theorem laneRow_of_fixed {lat : Nat} (hx : exec (Op.mk o f) s = runIsa o f s body)
    (hb : body e = lanePlan e o f srcs dn (e.after lat) res) (hres : res (e.active f.pred) = (out.1, out.2, nf)) :
    LaneRow s e e o f srcs dn lat lat false out nf :=
  laneRow_of_plan (t := e.s) hx hb (fun hs => by simp [Env.after, hs]) hres

/-- A cross-lane row: a variable latency, whose free value is taken (R178, R196). -/
theorem crossRow_of_plan (hx : exec (Op.mk o f) s = runIsa o f s body)
    (hb : body e = lanePlan { e with s := e.s.spend } o f srcs {} (e.varDue 4 40) res true more)
    (hres : res (e.active f.pred) = (out.1, out.2, nf)) : CrossRow s e o f srcs out nf more := by
  intro h
  obtain rfl : e.s = s := env_s h.env
  refine laneRow_of_plan hx hb (fun _ => ?_) hres h
  unfold Env.varDue
  omega

end

end Sys2Proof.Machine
end

section
/-! The lane integer rows (R180, R181): the statement O2. -/

namespace Sys2Proof.Machine

/-! ### Element codes and integers (R180) -/

/-- The code of an integer that is congruent to a natural number. -/
theorem intCode_of_modEq {w n : Nat} {v : Int} (h : v ≡ n [ZMOD (2 ^ w : Nat)]) : intCode w v = n % 2 ^ w := by
  rw [intCode, h.eq, ← Int.natCast_mod, Int.toNat_natCast]

/-- An element read as a number is congruent to its code. -/
theorem asInt_modEq (sg : Bool) (w x : Nat) : asInt sg w x ≡ x [ZMOD (2 ^ w : Nat)] := by
  unfold asInt
  split
  · rw [Int.modEq_iff_dvd]
    exact ⟨1, by push_cast; ring⟩
  · rfl

theorem intCode_asInt (sg : Bool) {w x : Nat} (h : x < 2 ^ w) : intCode w (asInt sg w x) = x :=
  (intCode_of_modEq (asInt_modEq sg w x)).trans (Nat.mod_eq_of_lt h)

/-- Clamping gives the nearest value in range, and SA when that is another one. -/
theorem Ty.clamp_eq (t : Ty) (v : Int) : Ty.clamp t v = (clampTo (Ty.lo t) (Ty.hi t) v, { sa := decide (v < Ty.lo t ∨ Ty.hi t < v) }) := by
  unfold Ty.clamp clampTo
  by_cases hlo : v < Ty.lo t
  · simp [hlo]
  · by_cases hhi : Ty.hi t < v <;> simp [hlo, hhi]

/-- What an element takes of an exact result: its code, or that of the clamped value with SA (R180). -/
def intResult (t : Ty) (sat : Bool) (v : Int) : Nat × Fl :=
  if sat then (intCode (laneWidth t) (Ty.clamp t v).1, (Ty.clamp t v).2) else (intCode (laneWidth t) v, {})

/-- The code of an exact result that is congruent to `n`, or of the clamped result. -/
theorem intResult_eq {t : Ty} {sub : BitVec 6} {n : Nat} {v : Int} (h : v ≡ n [ZMOD (2 ^ laneWidth t : Nat)]) :
    intResult t (sub == 1) v
      = (if sub = 1 then (clampTo (Ty.lo t) (Ty.hi t) v % (2 ^ laneWidth t : Nat)).toNat else n % 2 ^ laneWidth t,
        { sa := sub == 1 && decide (v < Ty.lo t ∨ Ty.hi t < v) }) := by
  rw [intResult, Ty.clamp_eq, intCode_of_modEq h]
  by_cases hs : sub = 1
  · rw [if_pos hs, hs]
    rfl
  · rw [if_neg hs, beq_false_of_ne hs]
    rfl

theorem laneWidth_pos (t : Ty) : 0 < laneWidth t := by cases t <;> decide

/-! ### Logic and shifts on elements (R181) -/

/-- log on 32-bit codes. -/
theorem logicOp_codes (sub : Nat) {a b : Nat} (ha : a < 2 ^ 32) (hb : b < 2 ^ 32) :
    (logicOp sub (BitVec.ofNat 64 a) (BitVec.ofNat 64 b)).toNat % 2 ^ 32 = match sub with
      | 0 => a &&& b | 1 => a ||| b | 2 => a ^^^ b | 3 => a &&& (2 ^ 32 - 1 - b) | 4 => a ||| (2 ^ 32 - 1 - b) | _ => 2 ^ 32 - 1 - (a ^^^ b) := by
  have hcode {x : Nat} (hx : x < 2 ^ 32) : (BitVec.setWidth 32 (BitVec.ofNat 64 x)).toNat = x := by
    simp only [BitVec.toNat_setWidth, BitVec.toNat_ofNat]
    omega
  rw [← BitVec.toNat_setWidth]
  unfold logicOp
  split <;>
    simp only [BitVec.setWidth_and, BitVec.setWidth_or, BitVec.setWidth_xor, BitVec.setWidth_not, BitVec.toNat_and, BitVec.toNat_or,
      BitVec.toNat_xor, BitVec.toNat_not, hcode ha, hcode hb, show (32 : Nat) ≤ 64 by omega]

/-- The sign bits that an arithmetic shift brings in. -/
theorem sshiftRight_fill {w a n : Nat} (ha : a < 2 ^ w) (hn : n ≤ w) :
    2 ^ w - 1 - (2 ^ w - 1 - a) / 2 ^ n = a / 2 ^ n + (2 ^ w - 2 ^ (w - n)) := by
  have hw : 2 ^ w = 2 ^ n * 2 ^ (w - n) := by rw [← pow_add, Nat.add_sub_cancel' hn]
  have hdiv : (2 ^ w - 1 - a) / 2 ^ n = 2 ^ (w - n) - (a / 2 ^ n + 1) := by
    rw [← Nat.mul_sub_div a (2 ^ n) (2 ^ (w - n)) (hw ▸ ha), ← hw, Nat.sub_sub, Nat.add_comm 1 a]
  have hq : a / 2 ^ n < 2 ^ (w - n) := Nat.div_lt_of_lt_mul (hw ▸ ha)
  have hle : 2 ^ (w - n) ≤ 2 ^ w := Nat.pow_le_pow_right (by omega) (by omega)
  rw [hdiv]
  generalize a / 2 ^ n = q at hq ⊢
  omega

/-- The two parts of a rotation do not meet. -/
theorem rotate_parts {w a n : Nat} (ha : a < 2 ^ w) (hn : n ≤ w) :
    a * 2 ^ n % 2 ^ w + a / 2 ^ (w - n) = a <<< n % 2 ^ w ||| a >>> (w - n) := by
  have hhigh : a <<< n % 2 ^ w = (a % 2 ^ (w - n)) <<< n := by
    rw [Nat.shiftLeft_eq, Nat.shiftLeft_eq, ← Nat.mul_mod_mul_right, ← pow_add, Nat.sub_add_cancel hn]
  have hlow : a >>> (w - n) < 2 ^ n := by
    rw [Nat.shiftRight_eq_div_pow]
    exact Nat.div_lt_of_lt_mul (by rwa [← pow_add, Nat.sub_add_cancel hn])
  rw [hhigh, ← Nat.shiftLeft_add_eq_or_of_lt hlow, ← hhigh, Nat.shiftLeft_eq, Nat.shiftRight_eq_div_pow]

/-- Shifts and rotates of element codes are those of words of the elements' width. -/
theorem shiftOp_eq_shiftBy (sub : Nat) {w a : Nat} (b : Nat) (hw : 0 < w) (ha : a < 2 ^ w) :
    shiftOp sub w a b = (shiftBy sub (BitVec.ofNat w a) (b % w)).toNat := by
  have hn : b % w < w := Nat.mod_lt b hw
  have hcode : (BitVec.ofNat w a).toNat = a := by rw [BitVec.toNat_ofNat, Nat.mod_eq_of_lt ha]
  match sub with
  | 0 =>
    show a * 2 ^ (b % w) % 2 ^ w = (BitVec.ofNat w a <<< (b % w)).toNat
    rw [BitVec.toNat_shiftLeft, hcode, Nat.shiftLeft_eq]
  | 1 =>
    show a / 2 ^ (b % w) = (BitVec.ofNat w a >>> (b % w)).toNat
    rw [BitVec.toNat_ushiftRight, hcode, Nat.shiftRight_eq_div_pow]
  | 2 =>
    show a / 2 ^ (b % w) + (if a.testBit (w - 1) then 2 ^ w - 2 ^ (w - b % w) else 0) = ((BitVec.ofNat w a).sshiftRight (b % w)).toNat
    have hmsb : (BitVec.ofNat w a).msb = a.testBit (w - 1) := by
      rw [BitVec.msb_eq_getLsbD_last, BitVec.getLsbD_ofNat, decide_eq_true (by omega), Bool.true_and]
    rw [BitVec.toNat_sshiftRight, hmsb, hcode, Nat.shiftRight_eq_div_pow, Nat.shiftRight_eq_div_pow]
    split
    · exact (sshiftRight_fill ha hn.le).symm
    · rfl
  | 3 =>
    show a * 2 ^ (b % w) % 2 ^ w + a / 2 ^ (w - b % w) = ((BitVec.ofNat w a).rotateLeft (b % w)).toNat
    rw [BitVec.toNat_rotateLeft, hcode, Nat.mod_mod, rotate_parts ha hn.le]
  | k + 4 =>
    show a / 2 ^ (b % w) + a * 2 ^ (w - b % w) % 2 ^ w = ((BitVec.ofNat w a).rotateRight (b % w)).toNat
    rw [BitVec.toNat_rotateRight, hcode, Nat.mod_mod, Nat.or_comm, Nat.add_comm]
    have := rotate_parts ha (Nat.sub_le w (b % w))
    rwa [Nat.sub_sub_self hn.le] at this

/-! ### Rows -/

section
variable {s : State} {e : Env} {o : Op} {f : Form} {body : Env → Plan} {n w lat : Nat} {op : Nat → Nat → Nat → Nat} {sa : Nat → Nat → Nat → Bool}

/-- An element-wise row from its plan, whose operation gives the row's codes and SA on codes of the width. -/
theorem elemRow_of_plan {op' : Nat → Nat → Nat → Nat × Fl} (hx : exec (Op.mk o f) s = runIsa o f s body)
    (hb : body e = elemPlan e o f n w lat op')
    (hop : ∀ a b c, a < 2 ^ w → b < 2 ^ w → c < 2 ^ w → op' a b c = (op a b c, { sa := sa a b c })) :
    ElemRow s e o f n w lat op sa := by
  unfold elemPlan at hb
  have hzero : 0 < 2 ^ w := Nat.two_pow_pos w
  have helem (l i : Nat) := hop (e.elem f f.s0 w l i) (if 2 ≤ n then e.elem f f.s1 w l i else 0) (if 3 ≤ n then e.elem f f.s2 w l i else 0)
    (Env.elem_lt ..) (by split; exacts [Env.elem_lt .., hzero]) (by split; exacts [Env.elem_lt .., hzero])
  refine laneRow_of_fixed hx hb ?_
  simp only [helem]
  rfl

/-- An element-wise row from the plan of an operation on numbers. -/
theorem elemRow_of_intPlan {sat : Bool} {op' : Int → Int → Int → Int} (hx : exec (Op.mk o f) s = runIsa o f s body)
    (hb : body e = intPlan e o f n lat sat op')
    (hop : ∀ a b c, a < 2 ^ laneWidth f.ty → b < 2 ^ laneWidth f.ty → c < 2 ^ laneWidth f.ty →
      let rd := asInt f.ty.signed (laneWidth f.ty)
      intResult f.ty sat (op' (rd a) (rd b) (rd c)) = (op a b c, { sa := sa a b c })) :
    ElemRow s e o f n (laneWidth f.ty) lat op sa := by
  unfold intPlan at hb
  exact elemRow_of_plan hx hb hop

end

/-- Settles O2: each row is the model's plan, and its operation gives on the elements' codes what R181 says. -/
theorem laneIntegerRowsComplete : Obligations.LaneIntegerRowsComplete := by
  unfold Obligations.LaneIntegerRowsComplete
  intro s e f w rd lo hi cl out never
  have hrd (x : Nat) : rd x ≡ x [ZMOD (2 ^ w : Nat)] := asInt_modEq _ _ _
  refine ⟨?add, ?sub, ?mul, ?mad, ?log, ?shf, ?sel, ?mov, ?mm, ?bit⟩
  case add =>
    refine elemRow_of_intPlan rfl rfl fun a b _ _ _ _ => intResult_eq ?_
    rw [Nat.cast_add]
    exact (hrd a).add (hrd b)
  case sub =>
    refine elemRow_of_intPlan rfl rfl fun a b _ _ hb _ => intResult_eq ?_
    have hneg : ((2 ^ w - b : Nat) : Int) ≡ -b [ZMOD (2 ^ w : Nat)] := by
      rw [Nat.cast_sub hb.le, Int.modEq_iff_dvd]
      exact ⟨-1, by ring⟩
    rw [Nat.cast_add]
    exact (sub_eq_add_neg (rd a) (rd b)) ▸ (hrd a).add ((hrd b).neg.trans hneg.symm)
  case mul =>
    refine elemRow_of_intPlan rfl rfl fun a b _ _ _ _ => Prod.ext ?_ rfl
    show intCode w (if f.sub == 1 then rd a * rd b / (2 ^ w : Nat) else rd a * rd b) = _
    by_cases hs : f.sub = 1
    · rw [if_pos hs, hs]
      rfl
    · rw [if_neg hs, beq_false_of_ne hs, if_neg Bool.false_ne_true]
      refine intCode_of_modEq ?_
      rw [Nat.cast_mul]
      exact (hrd a).mul (hrd b)
  case mad =>
    refine elemRow_of_intPlan rfl rfl fun a b c _ _ _ => intResult_eq ?_
    rw [Nat.cast_add, Nat.cast_mul]
    exact ((hrd a).mul (hrd b)).add (hrd c)
  case log => exact elemRow_of_plan rfl rfl fun a b _ ha hb _ => Prod.ext (logicOp_codes f.sub.toNat ha hb) rfl
  case shf => exact elemRow_of_plan rfl rfl fun a b _ ha _ _ => Prod.ext (shiftOp_eq_shiftBy f.sub.toNat b (laneWidth_pos _) ha) rfl
  case sel => exact elemRow_of_plan rfl rfl fun a b c _ _ _ => Prod.ext (ite_not ..).symm rfl
  case mov => exact elemRow_of_plan rfl rfl fun a _ _ _ _ _ => rfl
  case mm =>
    refine elemRow_of_intPlan rfl rfl fun a b _ ha hb _ => Prod.ext ?_ rfl
    show intCode w (if f.sub == 0 then (if rd a ≤ rd b then rd a else rd b) else (if rd a ≤ rd b then rd b else rd a)) = _
    have hcode (p : Prop) [Decidable p] : intCode w (if p then rd a else rd b) = if p then a else b := by
      rw [apply_ite (intCode w), intCode_asInt _ ha, intCode_asInt _ hb]
    rw [← hcode]
    by_cases hs : f.sub = 0 <;> by_cases hle : rd a ≤ rd b <;> simp [hs, hle]
  case bit => exact elemRow_of_plan rfl rfl fun a _ _ _ _ _ => rfl

end Sys2Proof.Machine
end

section
/-! Comparisons, byte products and indexed registers (R181, R182): the statement O3. -/

namespace Sys2Proof.Machine

/-! ### dot4 (R181) -/

theorem ofNat_intCode (w : Nat) (v : Int) : BitVec.ofNat w (intCode w v) = BitVec.ofInt w v := by
  apply BitVec.eq_of_toNat_eq
  rw [BitVec.toNat_ofInt, BitVec.toNat_ofNat, intCode, Nat.mod_eq_of_lt]
  have := Int.emod_lt_of_pos v (b := (2 ^ w : Nat)) (by exact_mod_cast Nat.two_pow_pos w)
  omega

theorem sum_range_four (p : Nat → Int) : ((List.range 4).map p).sum = p 0 + p 1 + p 2 + p 3 := by
  simp [List.range_succ, add_assoc]

/-- The range of dot4's result. -/
theorem lo_dot4 (sg : Bool) : Ty.lo (if sg then .i32 else .n32) = if sg then -2147483648 else 0 := by cases sg <;> rfl
theorem hi_dot4 (sg : Bool) : Ty.hi (if sg then .i32 else .n32) = if sg then 2147483647 else 4294967295 := by cases sg <;> rfl

/-! ### movx (R182) -/

section
variable {s : State} {e : Env} {o : Op} {f : Form}

/-- No trap of movx with every lane's register in bounds. -/
theorem movxTrap_none {base : Nat} {act : Lanes} (h : ∀ l < 32, lane act l = true → movxReg e f base l < e.c.regs) :
    movxTrap e f base act = none := by
  have hfind : (lanesOf act).find? (fun l => decide (e.c.regs ≤ movxReg e f base l)) = none :=
    List.find?_eq_none.mpr fun l hl => by
      have hact := mem_lanesOf.mp hl
      simpa using h l (lt_of_lane hact) hact
  rw [movxTrap, hfind]

/-- A ready row whose plan issues a record of register writes. -/
theorem exec_of_go {body : Env → Plan} {srcs : List (Src × Env.Need)} {lat : Nat} {ws : List RegWrite} {la : Option Latch}
    {more : List (List (Src × Env.Need) × Lanes)} (h : Ready s e o f) (hx : exec (Op.mk o f) s = runIsa o f s body)
    (hb : body e = .go (e.contMarks srcs ws (e.active f.pred) false
      (e.issue { e.flight o f with due := e.after lat, writes := ws, latch := la }) more)) :
    ∃ fl, exec (Op.mk o f) s = .next (e.issuedWith f srcs false fl more) ∧ Computes e o f fl ∧ fl.writes = ws ∧ fl.latch = la
      ∧ fl.nf = 0 ∧ fl.due = s.clk.cycle + lat := by
  refine ⟨{ e.flight o f with due := e.after lat, writes := ws, latch := la }, ?_, { flight_record e o f with }, rfl, rfl, rfl, ?_⟩
  · rw [hx, runIsa_ready h, hb]
    rfl
  · rw [Env.after, env_s h.env]

/-- What movx.ld reads beside its index: the base's index register, where there is one, before the lanes' registers. -/
theorem movxLd_reads (x : Src) (regs : List (Src × Env.Need)) :
    (match x with | .vecAt k => (Src.idx k, ({} : Env.Need)) :: regs | _ => regs)
      = (match x with | .vecAt k => [(Src.idx k, ({} : Env.Need))] | _ => []) ++ regs := by
  cases x <;> rfl

theorem ite_beq_zero_out (act : Lanes) (out : List RegWrite × Option Latch) :
    (if act == 0 then ([], none) else out) = (if act = 0 then [] else out.1, if act = 0 then none else out.2) := by
  by_cases h : act = 0
  · simp only [h, beq_self_eq_true, if_true]
  · simp only [h, beq_iff_eq, if_false]

end

/-- The writes of movx.st: of each register that an active lane names, the slices of the lanes that name it (R182). -/
def movxStWrites (e : Env) (f : Form) (base : Nat) (act : Lanes) : List RegWrite :=
  ((lanesOf act).map fun l => movxReg e f base l).eraseDups.map fun r =>
    .v r (maskOf fun l => lane act l && movxReg e f base l == r) (vreg fun l => if lane act l then (e.val f f.s0 l).setWidth 32 else 0)

section
variable {e : Env} {f : Form} {base : Nat} {act : Lanes}

theorem isVec_of_mem_movxStWrites {x : RegWrite} (h : x ∈ movxStWrites e f base act) : ∃ r m v, x = .v r m v := by
  obtain ⟨r, -, rfl⟩ := List.mem_map.mp h
  exact ⟨_, _, _, rfl⟩

theorem lane_of_mem_movxStWrites {r l : Nat} {m : Lanes} {v : VReg} (h : .v r m v ∈ movxStWrites e f base act) (hl : l < 32) :
    lane m l = (lane act l && movxReg e f base l == r) ∧ (lane act l = true → vlane v l = (e.val f f.s0 l).setWidth 32) := by
  obtain ⟨r, -, hr⟩ := List.mem_map.mp h
  cases hr
  exact ⟨lane_maskOf _ hl, fun hact => by rw [vlane_vreg _ hl, if_pos hact]⟩

theorem exists_mem_movxStWrites {l : Nat} (h : lane act l = true) : ∃ m v, .v (movxReg e f base l) m v ∈ movxStWrites e f base act :=
  ⟨_, _, List.mem_map.mpr ⟨movxReg e f base l, List.mem_eraseDups.mpr (List.mem_map.mpr ⟨l, mem_lanesOf.mpr h, rfl⟩), rfl⟩⟩

end

/-- Settles O3: cmp and dot4 are the model's plans with the result of each lane; movx meets no trap when every register that an
active lane names is in bounds, and issues with what those registers give or take. -/
theorem laneOddRowsComplete : Obligations.LaneOddRowsComplete := by
  unfold Obligations.LaneOddRowsComplete
  intro s e f act w need x y dot lo hi num inside
  refine ⟨?cmp, ?dot4, ?ld, ?st⟩
  case cmp => exact laneRow_of_fixed rfl rfl rfl
  case dot4 =>
    refine laneRow_of_fixed rfl rfl ?_
    dsimp only
    simp only [sum_range_four, Ty.clamp_eq, lo_dot4, hi_dot4, ofNat_intCode]
    by_cases hs : f.sub = 1
    · simp only [hs, beq_self_eq_true, if_true, Bool.true_and]
      rfl
    · simp only [hs, beq_false_of_ne hs, if_false, Bool.false_and, Bool.false_eq_true, Fl.all_map_clear]
      rfl
  case ld =>
    intro hin hc reg base srcs out ws h hstall
    have htrap : movxTrap e f ((e.srcNum f.s0).getD 0) (e.active f.pred) = none := movxTrap_none hin
    have hgoes : e.contStalls ((f.s1, {}) :: (match f.s0 with | .vecAt k => (Src.idx k, {}) :: (lanesOf act).map reg | _ => (lanesOf act).map reg)) ws
        = false := by
      rw [movxLd_reads]
      exact hstall
    refine exec_of_go h rfl ?_
    simp only [hc, htrap]
    rw [ite_beq_zero_out]
    exact if_neg (ne_true_of_eq_false hgoes)
  case st =>
    intro hin hc h
    have htrap : movxTrap e f ((e.dstNum f.dst).getD 0) (e.active f.pred) = none := movxTrap_none hin
    refine ⟨movxStWrites e f ((e.dstNum f.dst).getD 0) act, fun r m v hm l hl => lane_of_mem_movxStWrites hm hl,
      fun l _ hact => exists_mem_movxStWrites hact, fun x hx => isVec_of_mem_movxStWrites hx, fun hstall => ?_⟩
    have hgoes := ne_true_of_eq_false hstall
    obtain ⟨fl, hx, hfl, hws, -, hnf, hdue⟩ := exec_of_go (more := []) h rfl (by
      simp only [hc, htrap]
      exact if_neg hgoes)
    exact ⟨fl, hx, hfl, hws, hnf, hdue⟩

end Sys2Proof.Machine
end

section
/-! The floating-point rows (R183 to R187): the statement O4. -/

namespace Sys2Proof.Machine

section
variable {s : State} {e : Env} {o : Op} {f : Form} {body : Env → Plan} {n lat : Nat} {op : Nat → Nat → Nat → Nat → Nat × Fl}

/-- A floating-point row from its plan, which gives the element operation of the row at the type of TY. -/
theorem floatRow_of_plan {op' : Fmt → Nat → Nat → Nat → Nat → Nat × Fl} (hx : exec (Op.mk o f) s = runIsa o f s body)
    (hb : body e = floatPlan e o f n lat op') (hop : ∀ i a b c, op' (fmtOf f.ty) i a b c = op i a b c) :
    FloatRow s e o f n lat op := by
  obtain rfl : op' (fmtOf f.ty) = op := by funext i a b c; exact hop i a b c
  unfold floatPlan at hb
  exact laneRow_of_fixed hx hb rfl

end

/-- Equal and unequal numbers are those that no order separates (R185). -/
theorem Num.cmpEq_eq (x y : Num) : Num.cmpEq x y = (!(x.isNan || y.isNan) && !Num.cmpLt x y && !Num.cmpLt y x) := by
  rw [Num.cmpEq, Bool.not_or]

/-- The relation of fcmp, with eq and ne read through the order. -/
theorem fcmpOp_rel (sub a b : Nat) :
    let un := (decodeNum .f32 a).isNan || (decodeNum .f32 b).isNan
    let lt := Num.cmpLt (decodeNum .f32 a) (decodeNum .f32 b)
    let gt := Num.cmpLt (decodeNum .f32 b) (decodeNum .f32 a)
    (fcmpOp sub a b).1 = match sub with
      | 0 => !un && !lt && !gt | 1 => un || lt || gt | 2 => lt | 3 => !un && !gt | 4 => gt | 5 => !un && !lt | 6 => un | _ => !un := by
  match sub with
  | 0 => exact Num.cmpEq_eq _ _
  | 1 =>
    refine (congrArg not (Num.cmpEq_eq _ _)).trans ?_
    simp only [Bool.not_and, Bool.not_not]
  | 2 | 3 | 4 | 5 | 6 | _ + 7 => rfl

theorem fcmpOp_flags (sub a b : Nat) :
    (fcmpOp sub a b).2 = if 2 ≤ sub ∧ sub ≤ 5 then { nv := (decodeNum .f32 a).isNan || (decodeNum .f32 b).isNan }
      else (readFl .f32 a).or (readFl .f32 b) := by
  simp only [fcmpOp, Bool.and_eq_true, decide_eq_true_eq]

/-- Settles O4: every row is the model's plan with the operation of its elements; fcmp's eq and ne are read through the order. -/
theorem laneFloatRowsComplete : Obligations.LaneFloatRowsComplete := by
  unfold Obligations.LaneFloatRowsComplete
  intro s e f t r num nan one plus prod flip
  refine ⟨?fadd, ?fmul, ?fma, ?fmm, ?fcmp, ?fsf, ?fcls, ?fsgn⟩
  case fadd => exact floatRow_of_plan rfl rfl fun i a b _ => rfl
  case fmul => exact floatRow_of_plan rfl rfl fun i a b _ => rfl
  case fma =>
    refine floatRow_of_plan rfl rfl fun i a b c => ?_
    simp only [flip, decide_eq_true_eq]
    rfl
  case fmm => exact floatRow_of_plan rfl rfl fun _ a b _ => rfl
  case fcmp =>
    exact floatRow_of_plan rfl rfl fun _ a b _ =>
      Prod.ext (congrArg (fun v : Bool => if v then 1 else 0) (fcmpOp_rel f.sub.toNat a b)) (fcmpOp_flags f.sub.toNat a b)
  case fsf => exact floatRow_of_plan rfl rfl fun i a _ _ => rfl
  case fcls => exact floatRow_of_plan rfl rfl fun _ a m _ => rfl
  case fsgn => exact floatRow_of_plan rfl rfl fun _ a b _ => rfl

end Sys2Proof.Machine
end

section
/-! The conversion and block rows (R189 to R195): the statement O5. -/

namespace Sys2Proof.Machine

/-- A register pair takes a block whatever its flags are. -/
theorem outRegs_blockPair {e : Env} {f : Form} {act : Lanes} {t : Fmt} {b c : Nat → Block} {fl : Nat → Fl}
    (h : ∀ l, b l = { c l with fl := fl l }) :
    let out := fun (b : Nat → Block) => e.outRegs f act [fun l => (blockPair t (b l)).1, fun l => (blockPair t (b l)).2]
    ((out b).1, (out b).2, Fl.all ((lanesOf act).map fun l => (b l).fl)) = ((out c).1, (out c).2, Fl.all ((lanesOf act).map fl)) := by
  obtain rfl : b = fun l => { c l with fl := fl l } := funext h
  rfl

/-- Settles O5: every row is the model's plan; rblk's register pair does not hold the flags of its block. -/
theorem conversionRowsComplete : Obligations.ConversionRowsComplete := by
  unfold Obligations.ConversionRowsComplete
  intro s e f act t st r k a n val regs lanes elt quant old deq newX re reFl bcodes
  refine ⟨?cvt, ?bmax, ?bscl, ?qnt, ?dqnt, ?rblk, ?pack⟩
  case cvt =>
    rintro _ _ rfl rfl
    exact laneRow_of_fixed rfl rfl rfl
  case bmax => exact crossRow_of_plan rfl rfl rfl
  case bscl => exact laneRow_of_fixed rfl rfl rfl
  case qnt => exact laneRow_of_fixed rfl rfl rfl
  case dqnt => exact laneRow_of_fixed rfl rfl rfl
  case rblk =>
    refine laneRow_of_fixed rfl rfl (outRegs_blockPair fun l => ?_)
    by_cases hx : (old l).x = 255 ∨ newX l = 255
    · simp only [re, reFl, if_pos hx]
      exact if_pos (by simpa using hx)
    · simp only [re, reFl, if_neg hx]
      exact if_neg (by simpa using hx)
  case pack =>
    have hrow : LaneRow s e e .pack f ((f.s0, {}) :: (if f.variant == 0 then [] else [(f.s1, {})])) {} 2 2 false
        (e.out32 f act fun l => BitVec.ofNat 32
          (if f.variant == 0 then elemAt t (val f.s0 l) f.rm else insElem t (val f.s0 l) f.rm (val f.s1 l))) {} :=
      laneRow_of_fixed rfl rfl rfl
    simpa only [beq_iff_eq] using hrow

end Sys2Proof.Machine
end

section
/-! The cross-lane rows (R196 to R203): the statement O6. -/

namespace Sys2Proof.Machine

/-! ### perm.byte (R199) -/

/-- A little-endian byte of a number (R3). -/
theorem leBytes_getElem? {n i : Nat} (v : Nat) (h : i < n) : (leBytes n v)[i]? = some (BitVec.ofNat 8 (v / 256 ^ i)) := by
  induction n generalizing v i with
  | zero => omega
  | succ n ih =>
    rw [leBytes]
    cases i with
    | zero => simp
    | succ i => rw [List.getElem?_cons_succ, ih _ (by omega), Nat.div_div_eq_div_mul, pow_succ']

/-- The bytes of the doubleword that two words make: first those of the low word, then those of the high one. -/
theorem doubleword_byte {a : Nat} (b : Nat) {n : Nat} (ha : a < 2 ^ 32) (hn : n < 8) :
    (a + 2 ^ 32 * b) / 256 ^ n % 256 = if n < 4 then a / 256 ^ n % 256 else b / 256 ^ (n - 4) % 256 := by
  split
  · next h =>
    have hpow : 2 ^ 32 = 256 ^ n * (256 * 256 ^ (3 - n)) := by
      rw [← pow_succ', ← pow_add, show n + (3 - n + 1) = 4 by omega]
      norm_num
    rw [hpow, Nat.mul_assoc, Nat.add_mul_div_left _ _ (Nat.pow_pos (by omega)), Nat.mul_assoc, Nat.add_mul_mod_self_left]
  · next h =>
    have hpow : 256 ^ n = 2 ^ 32 * 256 ^ (n - 4) := by
      rw [show (2 : Nat) ^ 32 = 256 ^ 4 by norm_num, ← pow_add, show 4 + (n - 4) = n by omega]
    rw [hpow, ← Nat.div_div_eq_div_mul, Nat.add_mul_div_left _ _ (by omega), Nat.div_eq_of_lt ha, Nat.zero_add]

/-- A selector picks its byte of the two words (R199). -/
theorem permByte_eq {a : Nat} (b n : Nat) (ha : a < 2 ^ 32) :
    permByte (a + 2 ^ 32 * b) n = (if 8 ≤ n then (0 : Byte) else ((leBytes 4 a ++ leBytes 4 b)[n]?).getD 0).toNat := by
  unfold permByte
  by_cases hn : 8 ≤ n
  · rw [if_pos hn, if_pos hn]
    rfl
  · rw [if_neg hn, if_neg hn, doubleword_byte b ha (by omega)]
    by_cases h : n < 4
    · rw [if_pos h, List.getElem?_append_left (by rwa [leBytes_length]), leBytes_getElem? a h, Option.getD_some, BitVec.toNat_ofNat]
    · rw [if_neg h, List.getElem?_append_right (by rw [leBytes_length]; omega), leBytes_length, leBytes_getElem? b (by omega),
        Option.getD_some, BitVec.toNat_ofNat]

theorem leNat_concat (l : List Byte) (b : Byte) : leNat (l ++ [b]) = leNat l + b.toNat * 256 ^ l.length := by
  induction l with
  | nil => simp [leNat]
  | cons c l ih =>
    rw [List.cons_append, leNat, leNat, ih, List.length_cons, pow_succ]
    ring

/-- The number that a list of bytes makes, byte by byte. -/
theorem foldl_bytes (g : Nat → Byte) (n : Nat) :
    (List.range n).foldl (fun a j => a + (g j).toNat * 256 ^ j) 0 = leNat ((List.range n).map g) := by
  induction n with
  | zero => rfl
  | succ n ih =>
    rw [List.range_succ, List.foldl_append, List.map_append, List.map_singleton, leNat_concat, List.length_map, List.length_range, ih]
    rfl

/-! ### Votes, ballots and counts (R200) -/

/-- A vote over the lanes' values, taken over the lanes (R200). -/
theorem vote_map (sub : Nat) (ls : List Nat) (p : Nat → W32) (v : W32) :
    (match sub with
      | 0 => (ls.map p).all fun x => x != 0
      | 1 => (ls.map p).any fun x => x != 0
      | _ => (ls.map p).all fun x => x == v)
      = match sub with | 0 => ls.all fun i => p i != 0 | 1 => ls.any fun i => p i != 0 | _ => ls.all fun i => p i == v := by
  match sub with
  | 0 | _ + 2 => exact List.all_map
  | 1 => exact List.any_map

/-- A lane that participates in a tile is a lane of the group, where a predicate operand is what it reads. -/
theorem lane_predOf {e : Env} {f : Form} {act : Lanes} {i l : Nat} (h : i ∈ e.peers act l) (x : Src) :
    lane (e.predOf f x) i = ((e.val f x i).setWidth 32 != (0 : W32)) := by
  have hact : lane act i = true := (List.mem_filter.mp h).2
  exact lane_maskOf _ (lt_of_lane hact)

/-! ### Rows -/

section
variable {s : State} {e : Env} {o : Op} {f : Form} {body : Env → Plan} {srcs : List (Src × Env.Need)}
  {nf : Fl} {more : List (List (Src × Env.Need) × Lanes)}

/-- A cross-lane row with a 32-bit result in each lane. -/
theorem crossRow_of_lanes {r : Lanes → Nat → W32} {r' : Nat → W32} {fl : Lanes → Fl} (hx : exec (Op.mk o f) s = runIsa o f s body)
    (hb : body e = crossPlan e o f srcs (fun act => ((e.out32 f act (r act)).1, (e.out32 f act (r act)).2, fl act)) more)
    (hr : ∀ l, r (e.active f.pred) l = r' l) (hfl : fl (e.active f.pred) = nf) :
    CrossRow s e o f srcs (e.out32 f (e.active f.pred) r') nf more := by
  obtain rfl : r (e.active f.pred) = r' := funext hr
  subst hfl
  exact crossRow_of_plan hx hb rfl

/-- shfl and perm.lane from the lane that each lane reads (R197, R199). -/
theorem crossRow_of_fromPlan {src src' : Nat → Nat} (hx : exec (Op.mk o f) s = runIsa o f s body) (hb : body e = fromPlan e o f src')
    (hsrc : ∀ l, src' l = src l) :
    CrossRow s e o f [(f.s0, { vecLatch := true }), (f.s1, {})] (e.out32 f (e.active f.pred) fun l => e.fromLane f f.s0 (src l)) {}
      [([(f.s0, {})], maskOf fun i => (lanesOf (e.active f.pred)).any fun l => src l == i)] := by
  obtain rfl : src' = src := funext hsrc
  unfold fromPlan at hb
  exact crossRow_of_plan hx hb rfl

end

/-- Settles O6: every row is the model's plan; perm.byte is read byte by byte, and a vote, a ballot and a count over the lanes
that participate, where a predicate operand is what each lane reads. -/
theorem crossLaneRowsComplete : Obligations.CrossLaneRowsComplete := by
  unfold Obligations.CrossLaneRowsComplete
  intro s e f act w val lane0 peers from_ src truth bytes pick scanOf scans read
  refine ⟨?shfl, ?permLane, ?permByte, ?vote, ?ballot, ?ballotGrp, ?popc, ?red, ?scan⟩
  case shfl => exact crossRow_of_fromPlan rfl rfl fun l => rfl
  case permLane => exact crossRow_of_fromPlan rfl rfl fun l => (Nat.mod_mod_of_dvd _ (by norm_num)).symm
  case permByte =>
    refine crossRow_of_lanes rfl rfl (fun l => congrArg (BitVec.ofNat 32) ?_) rfl
    have hpick (j : Nat) : permByte (val f.s0 l + 2 ^ 32 * val f.s1 l) (val f.s2 l / 16 ^ j % 16) = (pick l j).toNat :=
      permByte_eq _ _ (Nat.mod_lt _ (by norm_num))
    rw [← foldl_bytes]
    simp only [← hpick]
    rfl
  case vote => exact crossRow_of_lanes rfl rfl (fun l => congrArg (fun b : Bool => if b then 1 else 0) (vote_map ..)) rfl
  case ballot =>
    refine crossRow_of_lanes rfl rfl (fun l => congrArg (BitVec.ofNat 32) ?_) rfl
    rw [List.filter_congr fun i hi => lane_predOf hi f.s0, List.sum_eq_foldl, List.foldl_map]
    rfl
  case ballotGrp => exact crossRow_of_plan rfl rfl rfl
  case popc =>
    refine crossRow_of_lanes rfl rfl (fun l => congrArg (BitVec.ofNat 32) ?_) rfl
    rw [List.filter_congr fun i hi => congrArg (· && (f.sub == 0 || decide (i < l))) (lane_predOf hi f.s0)]
    rfl
  case red => exact crossRow_of_plan rfl rfl rfl
  case scan => exact crossRow_of_plan rfl rfl rfl

end Sys2Proof.Machine
end

section
/-! ld.z with no active lane in a continuation without room in its tracked set (R310): the statement O18 and its refutation. -/

namespace Sys2Proof.Machine

/-- ld.z v4, b32, from the region at s1, in the lanes of q1: in none. -/
def idleLoadZ : Form := { sub := 4, ty := .b32, dst := .vec 4, s0 := .scal 1, pred := 1 }

/-- A group as after its fcall has forked, whose continuation tracks 129 sectors. -/
def Group.overTracked (g : Group) : Group :=
  { g.forkedOnce with forks := g.forkedOnce.forks.map fun k => { k with tracked := List.range 129 } }

/-- A device with one comb, whose continuation stands at that ld.z and is chosen. -/
def contAtLoadZ : State :=
  let s := (State.reset.withFetchWord 96 (encodeOp .ldZ idleLoadZ).toNat).modGroup 1 0 Group.overTracked
  { s with clk := { s.clk with issuing := [], cur := some { comb := 1, group := 0, path := 6 } } }

/-- What that continuation sees as it issues. -/
def loadZEnv : Env := contAtLoadZ.env?.getD default

theorem contAtLoadZ_ready : Ready contAtLoadZ loadZEnv .ldZ idleLoadZ where
  env := by decide +kernel
  legal := by decide +kernel
  last := by decide +kernel
  goes := by decide +kernel

theorem loadZEnv_idle : loadZEnv.check [(.scal 1, { uniform := true })] idleLoadZ.dst { span := Ty.span idleLoadZ.ty, mult := Ty.span idleLoadZ.ty } = none
    ∧ loadZEnv.active idleLoadZ.pred = 0 ∧ loadZEnv.g.ended = false
    ∧ loadZEnv.contStalls [(.scal 1, { uniform := true })] (loadZEnv.pseudoWrites idleLoadZ (Ty.span idleLoadZ.ty) (loadZEnv.active idleLoadZ.pred)) = false := by
  decide +kernel

/-- The number of instructions in flight in the state that a step answers. -/
def flyingIn : Out State → Option Nat
  | .next t => some t.flights.length
  | _ => none

/-- In the model the continuation stalls, for want of room in its tracked set (R310). -/
theorem contAtLoadZ_stalls : flyingIn (exec (.ldZ idleLoadZ) contAtLoadZ) = some 0 := by decide +kernel

/-- Refutes O18 in its clause on no active lane, for a continuation: that one issues only while its tracked set has room, even
for a load that reads nothing, and the clause does not ask it to. The state is no state of R310's 128 sectors: its continuation
tracks 129; the statement assumes nothing of the kind. -/
theorem not_loadCompressedIssues : ¬ Obligations.LoadCompressedIssues := by
  unfold Obligations.LoadCompressedIssues
  intro h
  obtain ⟨hcheck, hidle, hend, hgoes⟩ := loadZEnv_idle
  obtain ⟨hnone, -⟩ := h contAtLoadZ loadZEnv idleLoadZ 0 0 (fun _ => []) contAtLoadZ_ready hcheck
  obtain ⟨t, fl, hx, hfl, -⟩ := hnone hidle hgoes hend
  have hstall := contAtLoadZ_stalls
  rw [show Instr.ldZ idleLoadZ = Op.mk .ldZ idleLoadZ from rfl, hx, flyingIn, hfl, List.length_append] at hstall
  simp at hstall

end Sys2Proof.Machine
end

section
/-! SUPPORT. From the plan of an instruction that issues to what the statements say of its issue (R93, R107, R214): the state
that it issues from may have translations noted and free values taken. -/

namespace Sys2Proof.Machine

/-! ### The state that an instruction issues from -/

/-- What the plan of an instruction may take or note before it issues leaves these parts as they were. -/
structure State.Before (s u : State) : Prop where
  serial  : u.clk.serial = s.clk.serial
  combs   : u.combs = s.combs
  flights : u.flights = s.flights
  mem     : u.mem = s.mem
  bank    : u.coh.bank = s.coh.bank

namespace State.Before

theorem refl (s : State) : s.Before s := ⟨rfl, rfl, rfl, rfl, rfl⟩

theorem trans {s t u : State} (h : s.Before t) (k : t.Before u) : s.Before u where
  serial := k.serial.trans h.serial
  combs := k.combs.trans h.combs
  flights := k.flights.trans h.flights
  mem := k.mem.trans h.mem
  bank := k.bank.trans h.bank

theorem spend {s t : State} (h : s.Before t) : s.Before t.spend := h.trans ⟨rfl, rfl, rfl, rfl, rfl⟩

theorem modCtx (s : State) (c : Nat) (f : Ctx → Ctx) : s.Before (s.modCtx c f) := ⟨rfl, rfl, rfl, rfl, rfl⟩

theorem tlb {s t : State} (h : s.Before t) (l : List TlbEntry) : s.Before { t with coh := { t.coh with tlb := l } } :=
  h.trans ⟨rfl, rfl, rfl, rfl, rfl⟩

theorem note (s : State) (c : Nat) (va : W64) : s.Before (s.note c va) := by
  rw [State.note]
  extract_lets m coh
  have ht : s.Before m := modCtx s c _
  clear_value m
  split
  · exact refl s
  · split
    · exact ht
    · split
      · exact ht.tlb _
      · split
        · exact ht.tlb _
        · exact ht

theorem foldl {α : Type} {f : State → α → State} (h : ∀ (s : State) (x : α), s.Before (f s x)) (l : List α) (s : State) : s.Before (l.foldl f s) := by
  induction l generalizing s with
  | nil => exact refl s
  | cons x l ih => exact (h s x).trans (ih (f s x))

theorem noteAll (e : Env) (ps : List Place) (fs : List LaneFault) : e.s.Before (e.noteAll ps fs).s :=
  foldl (fun s va => note s e.ctx va) _ e.s

end State.Before

/-! ### Issuing -/

section
variable {s u t : State} {e : Env} {o : Op} {f : Form} {fl : Flight} {body : Env → Plan}

/-- The record that an instruction starts from. -/
theorem State.Before.record (h : e.s.Before u) (o : Op) (f : Form) : RecordOf e o f ({ e with s := u }.flight o f) where
  fid := h.serial
  row := ⟨rfl, rfl⟩
  path := ⟨rfl, rfl, rfl⟩
  place := ⟨rfl, rfl⟩
  setf := rfl
  lanes := rfl
  order := congrArg (fun n => ({ sid := e.p.sid, pos := n, past := e.p.past } : Order)) h.serial
  modes := ⟨rfl, rfl⟩
  cont := rfl

/-- Issuing changes paths and forks alone, but for the record, wherever the instruction's group is found. -/
theorem Env.issue_pathsOnly_of_group (hg : e.s.group? e.ref.comb e.ref.group = some e.g) (hend : e.g.ended = false)
    (hc : fl.comb = e.ref.comb) (hi : fl.group = e.ref.group) : (e.s.withFlight fl).PathsOnly (e.issue fl) := by
  have hfind : (e.s.withFlight fl).group? e.ref.comb e.ref.group = some e.g := hg
  have hended : ∀ g, (e.recorded fl).group? e.ref.comb e.ref.group = some g → g.ended = false := fun g hg' => by
    unfold Env.recorded State.modPath at hg'
    rw [State.group?_modGroup_same _ (f := fun g => g.modPath e.ref.path e.issued) fun _ => rfl] at hg'
    rcases (e.s.withFlight fl).group?_loseOthers e.core e.gslot e.ref e.ref.comb e.ref.group with hl | hl
    all_goals
      rw [hl, hfind] at hg'
      cases hg'
      exact hend
  rw [Env.issue_eq]
  exact (e.recorded_pathsOnly fl).trans (.goAfter e.b e.k hended (List.mem_append_right _ (List.mem_singleton_self fl)) hc hi)

theorem State.Before.issue_pathsOnly (hu : e.s.Before u) (h : s.env? = some e) (hend : e.g.ended = false)
    (hc : fl.comb = e.ref.comb) (hi : fl.group = e.ref.group) : (u.withFlight fl).PathsOnly ({ e with s := u }.issue fl) := by
  obtain ⟨hs, -⟩ := State.env?_parts h
  refine Env.issue_pathsOnly_of_group (e := { e with s := u }) ?_ hend hc hi
  rw [State.group?, State.comb?, hu.combs, hs]
  exact (State.env?_group h : s.group? e.ref.comb e.ref.group = some e.g)

/-- What issuing leaves of flights, memory and the command queue. -/
theorem State.Before.issue_rest (hu : e.s.Before u) (h : s.env? = some e) (hend : e.g.ended = false) (hc : fl.comb = e.ref.comb)
    (hi : fl.group = e.ref.group) : ({ e with s := u }.issue fl).flights = s.flights ++ [fl]
      ∧ ({ e with s := u }.issue fl).mem = s.mem ∧ ({ e with s := u }.issue fl).coh.bank = s.coh.bank := by
  have hrest := (hu.issue_pathsOnly h hend hc hi).rest
  rw [← env_s h]
  exact ⟨(congrArg State.flights hrest).trans (congrArg (· ++ [fl]) hu.flights), (congrArg State.mem hrest).trans hu.mem,
    (congrArg (fun s => s.coh.bank) hrest).trans hu.bank⟩

/-- The state after an instruction has issued from such a state: what its plan did after that changes paths and forks alone. -/
theorem issues_of_plan {P : Flight → Prop} (h : Ready s e o f) (hx : exec (Op.mk o f) s = runIsa o f s body)
    (hb : body e = .go t) (hu : e.s.Before u) (hrec : RecordOf e o f fl) (ht : ({ e with s := u }.issue fl).PathsOnly t)
    (hP : P fl) : Issues s e o f P := by
  intro hend
  obtain rfl : e.s = s := env_s h.env
  obtain ⟨hc, hi, -⟩ := hrec.path
  have hrest := ((hu.issue_pathsOnly h.env hend hc hi).trans ht).rest
  refine ⟨t.rested, fl, ?_, ?_, ?_, rfl, hrec, hP⟩
  · rw [hx, runIsa_ready h, hb]
  · exact (congrArg State.flights hrest).trans (congrArg (· ++ [fl]) hu.flights)
  · exact (congrArg State.mem hrest).trans hu.mem

/-- The plan is to issue at once with a record. -/
theorem issues_of_issue {P : Flight → Prop} (h : Ready s e o f) (hx : exec (Op.mk o f) s = runIsa o f s body)
    (hb : body e = .go ({ e with s := u }.issue fl)) (hu : e.s.Before u) (hrec : RecordOf e o f fl) (hP : P fl) : Issues s e o f P :=
  issues_of_plan h hx hb hu hrec (.refl _) hP

/-- An instruction that takes a free value and issues. -/
theorem issues_of_spend (h : Ready s e o f) (hx : exec (Op.mk o f) s = runIsa o f s body)
    (hb : body e = .go ({ e with s := e.s.spend }.issue fl)) (hrec : RecordOf e o f fl) (hP : P fl) : Issues s e o f P :=
  issues_of_issue h hx hb (State.Before.refl e.s).spend hrec hP

/-- An instruction that only issues. -/
theorem issues_of_bare (h : Ready s e o f) (hx : exec (Op.mk o f) s = runIsa o f s body)
    (hb : body e = .go (e.issue (e.flight o f))) (hP : P (e.flight o f)) : Issues s e o f P :=
  issues_of_issue h hx hb (State.Before.refl e.s) (flight_record e o f).toRecordOf hP

end
/-! ### Memory instructions whose lanes all translate (R205, R209, R217) -/

/-- Records the translations of places: the state that the instruction issues from. -/
def Env.noted (e : Env) (ps : List Place) : Env := e.noteAll (ps ++ ps) []

theorem Env.noted_before (e : Env) (ps : List Place) : e.s.Before (e.noted ps).s := .noteAll e _ _

/-- No address outside the window: no trap of R209. -/
theorem Env.windowTrap_none {e : Env} {lvs : List (Nat × W64)} (h : ∀ x ∈ lvs, e.outsideWindow x.2 = false) (all : Option Lanes) :
    e.windowTrap lvs all = none := by
  have hnil : (lvs.filter fun x => e.outsideWindow x.2) = [] := List.filter_eq_nil_iff.mpr fun x hx => by simp [h x hx]
  rw [Env.windowTrap, hnil]

theorem Env.spreadFaults_nil (e : Env) (f : Form) (u : Bool) : e.spreadFaults f u [] = [] := by
  cases u <;> rfl

section
variable {s : State} {e : Env} {o : Op} {f : Form} {srcs : List (Src × Env.Need)} {dn : Env.Need} {n : Nat} {u : Bool} {need : Access}
  {okTT : Nat → Bool} {ps : List Place}

/-- When every lane translates and passes the entry's own checks, the plan is what the entry does with the places. -/
theorem Translates.memPlan_eq (h : Translates s e o f srcs dn n u need okTT ps) {post : Place → Place ⊕ LaneFault}
    (hpost : ∀ p ∈ ps, post p = .inl p) (go : Env → List Place → Plan) :
    e.memPlan f srcs dn n u need okTT go post = go (e.noted ps) ps := by
  have hplaces : e.resolveAll n need okTT ((e.accessLanes f u).map fun l => (l, e.addrOf f n l)) = (ps, []) := h.places
  have hinside : ∀ x ∈ (e.accessLanes f u).map fun l => (l, e.addrOf f n l), e.outsideWindow x.2 = false := h.inside
  have hmap : ps.map post = ps.map Sum.inl := List.map_congr_left hpost
  rw [Env.memPlan, h.check]
  dsimp only
  rw [Env.windowTrap_none hinside, hplaces]
  simp only [hmap, List.filterMap_map, Function.comp_def, List.filterMap_some, List.filterMap_none, List.append_nil, Env.spreadFaults_nil]
  rfl

/-- A place that a lane's access resolves to has a target type that the access takes. -/
theorem Translates.tt_ok (h : Translates s e o f srcs dn n u need okTT ps) {p : Place} (hp : p ∈ ps) : okTT p.tt = true := by
  have hps : (e.resolveAll n need okTT (e.laneAddrs f n u)).1 = ps := congrArg Prod.fst h.places
  rw [← hps] at hp
  obtain ⟨r, hr, hrp⟩ := List.mem_filterMap.mp hp
  obtain ⟨x, -, rfl⟩ := List.mem_map.mp hr
  split at hrp
  case h_2 => cases hrp
  next q hq =>
    cases hrp
    unfold Env.resolve at hq
    dsimp only at hq
    repeat' split at hq
    all_goals cases hq
    all_goals assumption

end

end Sys2Proof.Machine
end

section
/-! PROOF. rcn, bind, acq, rel and the fences (R224, R240 to R244): the statements O24 and O26. -/

namespace Sys2Proof.Machine

/-! ### rcn (R224) -/

/-- The copies of lines that a hive owes to the other replicas (R224). -/
theorem mem_copiesOwed {ls : List Nat} {h l r : Nat} :
    (l, r) ∈ (ls.map fun l => ([0, 1, 2, 3].filter fun r => r != h).map fun r => (l, r)).flatten ↔ l ∈ ls ∧ r < 4 ∧ r ≠ h := by
  have hrep (r : Nat) : r ∈ [0, 1, 2, 3] ↔ r < 4 := by simp; omega
  simp only [← List.flatMap_def, List.mem_flatMap, List.mem_map, List.mem_filter, hrep, bne_iff_ne, Prod.mk.injEq]
  constructor
  · rintro ⟨_, hl, _, hr, rfl, rfl⟩
    exact ⟨hl, hr⟩
  · rintro ⟨hl, hr⟩
    exact ⟨l, hl, r, hr, rfl, rfl⟩

/-- Settles O24: rcn's plan issues with the copies of the lines that translate; a range of no bytes has no line. -/
theorem rcnIssues : Obligations.RcnIssues := by
  unfold Obligations.RcnIssues
  intro s e f ls base ext n h hr hc hls
  refine issues_of_spend hr rfl (fl := { e.flight .rcn f with
    due := e.openDue, rcn := (ls.map fun l => ([0, 1, 2, 3].filter fun r => r != h).map fun r => (l, r)).flatten
    ops := [e.uni f f.s0, e.uni f f.s1] }) ?_ { (flight_record e .rcn f).toRecordOf with } ⟨rfl, rfl, rfl, fun l r => mem_copiesOwed, ?_⟩
  · have hn : n = if ext = 0 || e.active f.pred == 0 then 0 else (base + ext - 1) / 128 + 1 - base / 128 := by simp [n]
    rw [hn] at hls
    dsimp only
    rw [hc]
    dsimp only [base, ext] at hls ⊢
    rw [hls]
  · intro hext
    have hn : n = 0 := if_pos (.inl hext)
    rw [hn] at hls
    cases hls
    rfl

/-! ### bind, acq, rel and the fences (R240 to R244) -/

section
variable {s : State} {e : Env} {o : Op} {f : Form} {step : SyncStep}

/-- acq and rel. -/
theorem issues_entryPlan (h : Ready s e o f) (hx : exec (Op.mk o f) s = runIsa o f s fun e => entryPlan e o f step) :
    Issues s e o f fun fl => fl.writes = [] ∧ fl.accs = [] ∧ fl.stores = []
      ∧ fl.sync = (if e.active f.pred = 0 ∨ (getAt e.c.binds (f.imm.toNat % 16)).extent = 0 then none else some step)
      ∧ fl.cmds = [] ∧ fl.binds = e.c.binds := by
  by_cases hidle : e.active f.pred = 0 ∨ (getAt e.c.binds (f.imm.toNat % 16)).extent = 0
  · refine issues_of_bare h hx ?_ ⟨rfl, rfl, rfl, (if_pos hidle).symm, rfl, rfl⟩
    exact if_pos (by simpa using hidle)
  · refine issues_of_spend h hx (fl := { e.flight o f with due := e.openDue, sync := some step }) ?_
      { (flight_record e o f).toRecordOf with } ⟨rfl, rfl, rfl, (if_neg hidle).symm, rfl, rfl⟩
    exact if_neg (by simpa using hidle)

/-- A range with bytes has its lines. -/
theorem State.linesOf_of_ne {base ext : W64} (h : ext ≠ 0) :
    (State.linesOf base ext).toList = [(base.toNat / 128, (base.toNat + ext.toNat - 1) / 128 + 1)] := by
  rw [State.linesOf, if_neg (by simpa using h)]
  rfl

end

/-- Settles O26: the row's plan issues with its step, or with none where it has no effect. -/
theorem fencesComplete : Obligations.FencesComplete := by
  unfold Obligations.FencesComplete
  intro s e f act u i empty ok
  refine ⟨?bind, fun h => issues_entryPlan h rfl, fun h => issues_entryPlan h rfl, ?fenceAll, ?fenceBank⟩
  case bind =>
    intro h hc
    refine issues_of_spend h rfl (fl := { e.flight .bind f with due := e.openDue, writes := if act == 0 then [] else
        [.bind i { kind := f.sub.toNat, obj := e.uni f f.s0, base := e.uni f f.s1, extent := e.uni f f.s2 }] })
      ?_ { (flight_record e .bind f).toRecordOf with } ⟨rfl, rfl, rfl, by simp⟩
    dsimp only [List.map]
    rw [hc]
  case fenceAll =>
    intro h
    by_cases hact : act = 0
    · exact issues_of_bare h rfl (if_pos (by simpa using hact)) ⟨rfl, rfl, rfl, (if_pos hact).symm, rfl, rfl⟩
    · exact issues_of_spend h rfl (fl := { e.flight .fenceAll f with due := e.openDue, sync := some (.fence f.scope) })
        (if_neg (by simpa using hact)) { (flight_record e .fenceAll f).toRecordOf with } ⟨rfl, rfl, rfl, (if_neg hact).symm, rfl, rfl⟩
  case fenceBank =>
    intro hc base ext idle h
    by_cases hidle : idle
    · refine issues_of_bare h rfl ?_ ⟨rfl, rfl, rfl, (if_pos hidle).symm, (if_pos hidle).symm, rfl⟩
      dsimp only
      rw [hc]
      exact if_pos (by simpa [idle, act, ext] using hidle)
    · have hext : ext ≠ 0 := fun hz => hidle (.inr hz)
      refine issues_of_spend h rfl (fl := { e.flight .fenceBank f with
          due := e.openDue, cmds := queuedIn e (State.linesOf base ext).toList, sync := some (.fenceBank base ext) })
        ?_ { (flight_record e .fenceBank f).toRecordOf with } ⟨rfl, rfl, rfl, (if_neg hidle).symm, ?_, rfl⟩
      · dsimp only
        rw [hc]
        exact if_neg (by simpa [idle, act, ext] using hidle)
      · rw [if_neg hidle, ← env_s h.env, ← State.linesOf_of_ne hext]
        rfl

end Sys2Proof.Machine
end

section
/-! PROOF. The bar rows (R166, R234 to R236, R332): the statement O25. -/

namespace Sys2Proof.Machine

/-! ### What the frame of a bar answers -/

/-- The bar rows (R236). -/
def barOps : List Op := [.barPost, .barSet, .barMeet, .barHold]

section
variable {s : State} {e : Env} {o : Op} {f : Form} {go : Env → BarRef → Nat → Plan} {r : BarRef}

/-- Every bar row runs in the frame of a bar. -/
theorem exec_bar (ho : o ∈ barOps) (s : State) (f : Form) : ∃ go, exec (Op.mk o f) s = runIsa o f s fun e => barPlan e o f go := by
  simp only [barOps, List.mem_cons, List.not_mem_nil, or_false] at ho
  rcases ho with rfl | rfl | rfl | rfl <;> exact ⟨_, rfl⟩

/-- A path with a live side path that is not released is held (R166). -/
theorem Env.barHeld_iff : e.barHeld = true ↔ e.sideLive = true ∧ e.p.freedBar = false := by simp [Env.barHeld]

theorem Env.barHeld_eq_false (h : e.sideLive = false ∨ e.p.freedBar = true) : e.barHeld = false := by
  rcases h with h | h <;> simp [Env.barHeld, h]

theorem barPlan_held (h : e.barHeld = true) : barPlan e o f go = .stall := if_pos h

theorem barPlan_idle (hh : e.barHeld = false) (hc : e.check (barSrcs f o) f.dst {} = none) (ha : e.active f.pred = 0) :
    barPlan e o f go = .go (e.issue (e.flight o f)) := by
  simp [barPlan, hh, hc, ha]

theorem barPlan_named (hh : e.barHeld = false) (hc : e.check (barSrcs f o) f.dst {} = none) (ha : e.active f.pred ≠ 0)
    (hr : e.s.barRef e.c (barNum e f).toNat = some r) :
    barPlan e o f go = if e.s.barKnown e.c r then go e r (barNum e f).toNat else .hold (e.s.askPod e.c r) := by
  rw [barPlan, hh, if_neg Bool.false_ne_true, hc]
  dsimp only
  rw [if_neg (by simpa using ha), hr]

end

/-- The number that B names. -/
theorem barNum_toNat (e : Env) (f : Form) : (barNum e f).toNat = if f.mod then (e.uni f f.s2).toNat else f.imm.toNat % 2 ^ 15 := by
  have hlt : f.imm.toNat % 2 ^ 15 < 2 ^ 64 := (Nat.mod_lt _ (by norm_num)).trans (by norm_num)
  unfold barNum
  split
  · rfl
  · exact (BitVec.toNat_ofNat ..).trans (Nat.mod_eq_of_lt hlt)

theorem phasePast_iff {b : Barrier} {p : W32} : phasePast b p = true ↔ 1 ≤ (b.phase - p).toNat ∧ (b.phase - p).toNat ≤ 2 ^ 31 := by
  simp [phasePast]

/-! ### The states that a bar waits in (R332) -/

namespace State.Before

theorem usePod (s : State) (c : Comb) (r : BarRef) : s.Before (s.usePod c r) := by
  unfold State.usePod
  split
  · exact ⟨rfl, rfl, rfl, rfl, rfl⟩
  · exact refl s

theorem askPod (s : State) (c : Comb) (r : BarRef) : s.Before (s.askPod c r) := by
  unfold State.askPod
  split
  · dsimp only
    split
    · exact ⟨rfl, rfl, rfl, rfl, rfl⟩
    · split
      · exact refl s
      · exact ⟨rfl, rfl, rfl, rfl, rfl⟩
  · exact refl s

theorem waitPod (s : State) (c : Comb) (r : BarRef) : s.Before (s.waitPod c r) := (usePod s c r).trans (askPod _ c r)

end State.Before

/-! ### From a plan to what the path does -/

section
variable {s : State} {e : Env} {o : Op} {f : Form} {body : Env → Plan}

/-- A path whose plan is to stall stays; a continuation waits for commit. -/
theorem exec_of_stall (h : Ready s e o f) (hx : exec (Op.mk o f) s = runIsa o f s body) (hb : body e = .stall) :
    exec (Op.mk o f) s = .next (if e.isCont then (s.modPath e.ref fun p => { p with wait := .deferred }).rested else s.rested) := by
  rw [hx, runIsa_ready h, hb]
  exact congrArg _ (apply_ite State.rested ..)

theorem exec_of_hold {t : State} (h : Ready s e o f) (hx : exec (Op.mk o f) s = runIsa o f s body) (hb : body e = .hold t) :
    exec (Op.mk o f) s = .next t.rested := by
  rw [hx, runIsa_ready h, hb]

/-- A bar at a broken barrier traps in a path that is no continuation (R236). -/
theorem exec_of_broken (h : Ready s e o f) (hx : exec (Op.mk o f) s = runIsa o f s body) (hb : body e = brokenTrap e) (hk : e.fork = none) :
    ∃ tr : Trap, tr.code = 0x13 ∧ tr.lanes = e.p.exm
      ∧ exec (Op.mk o f) s = .next (((s.modPath e.ref fun p => { p with slot := e.k }).takeTrap e.ref tr).rested) := by
  refine ⟨{ code := 0x13, lanes := e.p.exm, open_ := true }, rfl, rfl, ?_⟩
  rw [exec_of_trap h hx hb, Env.raise_of_noFork h.env hk]

/-- An instruction that issues with a step that a release move performs. -/
theorem issues_of_step {u : State} {step : SyncStep} (h : Ready s e o f) (hx : exec (Op.mk o f) s = runIsa o f s body) (hu : e.s.Before u)
    (hb : body e = .go ({ e with s := u.spend }.issue { e.flight o f with due := e.openDue, sync := some step })) :
    Issues s e o f fun fl => fl.writes = [] ∧ fl.accs = [] ∧ fl.stores = [] ∧ fl.sync = some step :=
  issues_of_issue h hx hb hu.spend { (flight_record e o f).toRecordOf with } ⟨rfl, rfl, rfl, rfl⟩

end

/-- Settles O25: the frame of a bar decides whether the row's own part is reached, which compares phases. -/
theorem barrierRowsComplete : Obligations.BarrierRowsComplete := by
  unfold Obligations.BarrierRowsComplete
  intro s e f o r act u b srcs count bytes past ok stays held phase
  have hsrcs : srcs = barSrcs f o := rfl
  refine ⟨fun ho h hheld hfree => ?_, fun ho h hc hheld hact => ?_, fun h hc hact hr hheld => ?_⟩
  · obtain ⟨go, hx⟩ := exec_bar ho s f
    exact exec_of_stall h hx (barPlan_held (Env.barHeld_iff.mpr ⟨hheld, hfree⟩))
  · obtain ⟨go, hx⟩ := exec_bar ho s f
    exact issues_of_bare h hx (barPlan_idle (Env.barHeld_eq_false hheld) hc hact) ⟨rfl, rfl, rfl, rfl⟩
  · have hs : e.s = s := env_s h.env
    have hb : (barNum e f).toNat = b := barNum_toNat e f
    have hplan (go) : barPlan e o f go = if s.barKnown e.c r then go e r b else .hold (s.askPod e.c r) := by
      rw [← hb] at hr ⊢
      rw [← hs] at hr ⊢
      exact barPlan_named (Env.barHeld_eq_false hheld) hc hact hr
    refine ⟨fun ho hkn => ?_, fun hkn => ?_⟩
    · obtain ⟨go, hx⟩ := exec_bar ho s f
      exact exec_of_hold h hx ((hplan go).trans (by rw [hkn]; rfl))
    · have hgo (go) : barPlan e o f go = go e r b := (hplan go).trans (if_pos hkn)
      have hpast {p} (hp : past p) : phasePast (e.s.barGet e.c r) p = true := by rw [hs]; exact phasePast_iff.mpr hp
      have hnot {p} (hp : ¬ past p) : phasePast (e.s.barGet e.c r) p = false := by
        rw [hs]; exact Bool.eq_false_iff.mpr fun hq => hp (phasePast_iff.mp hq)
      have hbar : e.s.barGet e.c r = s.barGet e.c r := by rw [hs]
      refine ⟨?post, ?set, ?meet, ?hold, ?meetStays, ?holdWaits, ?broken⟩
      case post =>
        rintro rfl hok
        refine issues_of_step h rfl (.refl e.s) ((hgo _).trans ?_)
        rw [hbar, hok]
        rfl
      case set =>
        rintro rfl
        exact issues_of_step h rfl (.refl e.s) (hgo _)
      case meet =>
        rintro p rfl hj hp
        refine issues_of_step h rfl (.refl e.s) ((hgo _).trans ?_)
        rw [hj]
        exact if_pos (hpast hp)
      case hold =>
        rintro rfl hp
        exact issues_of_step h rfl (.waitPod e.s e.c r) ((hgo _).trans (if_pos (hpast hp)))
      case meetStays =>
        rintro rfl hj
        refine exec_of_stall h rfl ((hgo _).trans ?_)
        rcases hj with hj | ⟨p, hj, hp, hok⟩
        · rw [hj]
        · rw [hj]
          dsimp only
          rw [hnot hp, hbar, hok]
          rfl
      case holdWaits =>
        rintro rfl hp hok
        rw [← hs]
        refine exec_of_hold (hs ▸ h) rfl ((hgo _).trans ?_)
        rw [hnot hp, hbar, hok]
        rfl
      case broken =>
        rintro (rfl | ⟨p, rfl, hj, hp⟩ | ⟨rfl, hp⟩) hbr hk
        · refine exec_of_broken h rfl ((hgo _).trans ?_) hk
          rw [hbar, hbr]
          rfl
        · refine exec_of_broken h rfl ((hgo _).trans ?_) hk
          rw [hj]
          dsimp only
          rw [hnot hp, hbar, hbr]
          rfl
        · refine exec_of_broken h rfl ((hgo _).trans ?_) hk
          rw [hnot hp, hbar, hbr]
          rfl

end Sys2Proof.Machine
end

section
/-! PROOF. ld and ldsc (R218, R221): the statement O17. -/

namespace Sys2Proof.Machine

/-- A continuation's tracked sectors stand in its fork alone (R310). -/
theorem Env.setTracked_pathsOnly (e : Env) (t : List Nat) (s : State) : s.PathsOnly (e.setTracked t s) := by
  unfold Env.setTracked
  split
  · exact .refl s
  · exact .modGroup s _ _ (fun _ => rfl) fun _ => rfl

section
variable {s u : State} {e : Env} {o : Op} {f : Form} {srcs : List (Src × Env.Need)} {body : Env → Plan}

/-- A load whose path may go on issues with its accesses. -/
theorem issues_load {span : Nat} {accs : List Acc} {ks : List Nat} {fin : Fin} (h : Ready s e o f)
    (hx : exec (Op.mk o f) s = runIsa o f s body) (hu : e.s.Before u)
    (hb : body e = { e with s := u }.issueLoad o f srcs span accs ks fin)
    (hs : e.contStalls srcs (e.pseudoWrites f span (e.active f.pred)) = false) (ht : (e.track ks).isSome) :
    Issues s e o f fun fl => fl.writes = [] ∧ fl.stores = [] ∧ fl.sync = none ∧ fl.fin = fin ∧ fl.accs = accs := by
  let e' : Env := { e with s := u }
  obtain ⟨t, ht⟩ := Option.isSome_iff_exists.mp ht
  have hstall : e'.contStalls srcs (e'.pseudoWrites f span (e'.active f.pred)) = false := hs
  have htrack : e'.track ks = some t := ht
  refine issues_of_plan h hx (fl := { e'.flight o f with due := e'.openDue, accs := accs, fin := fin }) ?_ hu.spend
    { hu.record o f with } ((Env.contMarks_pathsOnly e' srcs (e'.pseudoWrites f span (e'.active f.pred)) (e'.active f.pred) false _ []).trans (e'.setTracked_pathsOnly t _))
    ⟨rfl, rfl, rfl, rfl, rfl⟩
  · rw [hb, Env.issueLoad]
    dsimp only
    rw [if_neg (Bool.eq_false_iff.mp hstall), htrack]

end

/-- The accesses of a place, 8 bytes each but for one of fewer. -/
theorem accsOf_load {n : Nat} (_ : n < 8 ∨ n % 8 = 0 ∧ 8 ≤ n) (p : Place) :
    Env.accsOf .load n p 0 0 = (List.range (max (n / 8) 1)).map fun i =>
      { lane := p.lane, va := p.va + BitVec.ofNat 64 (8 * i), tt := p.tt, key := p.key + 8 * i, size := min n 8 } := by
  unfold Env.accsOf
  split
  · next h =>
    rw [show max (n / 8) 1 = 1 by omega, min_eq_left h]
    simp
  · next h =>
    rw [show max (n / 8) 1 = n / 8 by omega, min_eq_right (by omega)]

/-- The sizes of accesses (R211). -/
theorem accessBytes_size (t : Ty) : t.bits / 8 < 8 ∨ t.bits / 8 % 8 = 0 ∧ 8 ≤ t.bits / 8 := by
  cases t <;> decide

theorem Dst.isScal_eq (d : Dst) : d.isScal = match d with | .scal _ => true | _ => false := by cases d <;> rfl

/-- The keys of a block's scales and μ bytes (R82, R221). -/
theorem blockSide_keys (mx : Bool) (b k : Nat) :
    (blockSide mx b).map (fun j => sideKey k j) = ((List.range (blockSpan mx)).map fun i => sideKey k (b + i))
      ++ (List.range (blockSpan mx)).map fun i => sideKey k (16 + b + i) := by
  rw [blockSide, List.map_append, List.map_map, List.map_map]
  rfl

/-- Settles O17: the plan issues the load with the accesses of the places. -/
theorem loadsIssue : Obligations.LoadsIssue := by
  unfold Obligations.LoadsIssue
  intro s e f ps u
  have hu : u = f.dst.isScal := (Dst.isScal_eq f.dst).symm
  clear_value u
  subst hu
  intro n act need srcs t mx bb span
  refine ⟨fun h hs ht => ?_, fun h hs ht => ?_⟩
  · have haccs : (ps.map fun p => Env.accsOf .load n p 0 0) = ps.map fun p => (List.range (max (n / 8) 1)).map fun i =>
        { lane := p.lane, va := p.va + BitVec.ofNat 64 (8 * i), tt := p.tt, key := p.key + 8 * i, size := min n 8 } :=
      List.map_congr_left fun p _ => accsOf_load (accessBytes_size f.ty) p
    rw [← haccs]
    exact issues_load h.ready rfl (e.noted_before ps) (h.memPlan_eq (fun _ _ => rfl) _) hs ht
  · have hissues := issues_load (o := .ldsc) (f := f) h.ready rfl (e.noted_before ps) (h.memPlan_eq (fun _ _ => rfl) _) hs ht
    simp only [blockSide_keys] at hissues
    exact hissues

end Sys2Proof.Machine
end

section
/-! PROOF. atom and cas (R229 to R232): the statement O22. -/

namespace Sys2Proof.Machine

/-- A place that passes the checks of R229. -/
theorem atomPost_ok {e : Env} {f : Form} {host : Bool} {p : Place} (hhost : p.tt = 2 → host = true) (hbank : f.scope = 6 → p.tt = 0)
    (hread : ∀ c, e.s.xlate e.ctx e.core p.va .read ≠ .fault c) : atomPost e f host p = .inl p := by
  have hok : (p.tt == 2 && !host || f.scope == 6 && p.tt != 0) = false := by
    by_cases h2 : p.tt = 2
    · by_cases h6 : f.scope = 6
      · exact absurd (hbank h6) (by omega)
      · simp [h2, hhost h2, h6]
    · by_cases h6 : f.scope = 6
      · simp [hbank h6]
      · simp [h2, h6]
  rw [atomPost]
  dsimp only
  rw [hok, if_neg Bool.false_ne_true]
  split
  · next c hc => exact absurd hc (hread c)
  · rfl

/-- Bank commands change the command queue and take serial numbers: one command for each access (R261, R297). -/
theorem addCmds_spec (e : Env) (fid : Nat) (accs : List Acc) (s : State) :
    (addCmds e fid accs s).flights = s.flights ∧ (addCmds e fid accs s).mem = s.mem
      ∧ ∃ cs, (addCmds e fid accs s).coh.bank = s.coh.bank ++ cs
        ∧ cs.map (fun c => (c.atom, c.key, c.a, c.queued)) = accs.map fun a => (some (fid, a.lane), a.key, a.a, false) := by
  induction accs generalizing s with
  | nil => exact ⟨rfl, rfl, [], (List.append_nil _).symm, rfl⟩
  | cons a accs ih =>
    obtain ⟨hf, hm, cs, hcs, hmap⟩ := ih { s.bump with coh := { s.coh with bank := s.coh.bank ++
        [{ num := s.clk.serial, launch := e.c.launch, comb := e.ref.comb, group := e.ref.group, ord := e.order, key := a.key, a := a.a
           atom := some (fid, a.lane) }] } }
    refine ⟨hf, hm, _ :: cs, hcs.trans (List.append_assoc ..), ?_⟩
    rw [List.map_cons, hmap]
    rfl

/-- The record of an atom or cas: an access for each place (R229). -/
def Env.atomFlight (e : Env) (o : Op) (f : Form) (n : Nat) (kind : AccKind) (a b : Src) (ps : List Place) : Flight :=
  { e.flight o f with due := e.openDue, orde := f.ord, scope := f.scope, fin := .loaded f.dst ((e.dstNum f.dst).getD 0) f.ty false
                      accs := ps.map fun p => { lane := p.lane, va := p.va, tt := p.tt, key := p.key, size := n, kind := kind
                                                a := e.wide f a p.lane, b := e.wide f b p.lane } }

section
variable {s : State} {e : Env} {o : Op} {f : Form} {ps : List Place} {srcs : List (Src × Env.Need)} {d : Env.Need} {n : Nat} {u : Bool}

/-- The state in which an atom or cas has issued, with its bank commands (R261). -/
def Env.atomIssued (e : Env) (f : Form) (fl : Flight) : State :=
  if f.scope == 6 then addCmds e fl.fid fl.accs ({ e with s := e.s.spend }.issue fl) else { e with s := e.s.spend }.issue fl

/-- The plan of an atom or cas whose lanes all pass the checks. -/
theorem atomPlan_eq {data : List Src} {kind : AccKind} {host : Bool}
    (h : Translates s e o f ((if o == .cas then [(f.s0, { uniform := f.dst.isScal })] else addrNeeds f f.dst.isScal)
      ++ data.map fun x => (x, accessNeed f.ty false)) (accessNeed f.ty false) (accessBytes f.ty) f.dst.isScal .write ttAtom ps)
    (hps : ∀ p ∈ ps, (p.tt = 2 → host = true) ∧ (f.scope = 6 → p.tt = 0) ∧ ∀ c, e.s.xlate e.ctx e.core p.va .read ≠ .fault c) :
    atomPlan e o f data kind host = .go ((e.noted ps).atomIssued f
      ((e.noted ps).atomFlight o f (accessBytes f.ty) kind (data.headD (.vec 0)) (data.getLastD (.vec 0)) ps)) := by
  rw [atomPlan]
  exact h.memPlan_eq (fun p hp => by
    obtain ⟨hhost, hbank, hread⟩ := hps p hp
    exact atomPost_ok hhost hbank hread) _

theorem Env.atomIssued_spec (h : Ready s e o f) (hend : e.g.ended = false) (kind : AccKind) (a b : Src) :
    let fl := (e.noted ps).atomFlight o f n kind a b ps
    let t := (e.noted ps).atomIssued f fl
    t.flights = s.flights ++ [fl] ∧ t.mem = s.mem ∧ (f.scope ≠ 6 → t.coh.bank = s.coh.bank)
      ∧ (f.scope = 6 → ∃ cs, t.coh.bank = s.coh.bank ++ cs
          ∧ cs.map (fun c => (c.atom, c.key, c.a, c.queued)) = ps.map fun p => (some (fl.fid, p.lane), p.key, e.wide f a p.lane, false)) := by
  intro fl t
  obtain ⟨hflights, hmem, hbank⟩ := (e.noted_before ps).spend.issue_rest (fl := fl) h.env hend rfl rfl
  by_cases h6 : f.scope = 6
  · have ht : t = addCmds (e.noted ps) fl.fid fl.accs ({ e with s := (e.noted ps).s.spend }.issue fl) := if_pos (by simpa using h6)
    obtain ⟨hf, hm, cs, hcs, hmap⟩ := addCmds_spec (e.noted ps) fl.fid fl.accs ({ e with s := (e.noted ps).s.spend }.issue fl)
    rw [ht]
    refine ⟨hf.trans hflights, hm.trans hmem, fun hne => absurd h6 hne, fun _ => ⟨cs, by rw [hcs, hbank], hmap.trans ?_⟩⟩
    exact List.map_map ..
  · have ht : t = { e with s := (e.noted ps).s.spend }.issue fl := if_neg (by simpa using h6)
    rw [ht]
    exact ⟨hflights, hmem, fun _ => hbank, fun hbad => absurd hbad h6⟩

end

/-- The operand of a lane, as R213 reads it. -/
theorem Env.wide_eq (e : Env) (f : Form) (x : Src) (l : Nat) :
    (if f.ty = .b64 then e.val2 f x l else ((e.val f x l).setWidth 32).setWidth 64) = e.wide f x l := by
  by_cases h : f.ty = .b64 <;> simp [Env.wide, h]

/-- Settles O22: the plan issues the record, and at BANK scope a command for each of its accesses. -/
theorem atomicsIssue : Obligations.AtomicsIssue := by
  unfold Obligations.AtomicsIssue
  intro s e f ps u
  have hu : u = f.dst.isScal := (Dst.isScal_eq f.dst).symm
  clear_value u
  subst hu
  intro n d wide
  have hwide : wide = e.wide f := funext fun x => funext (Env.wide_eq e f x)
  clear_value wide
  subst hwide
  intro row
  have hrow {o : Op} {data : List Src} {kind : AccKind} {host : Bool} (hx : exec (Op.mk o f) s = runIsa o f s fun e => atomPlan e o f data kind host) :
      row o ((if o == .cas then [(f.s0, { uniform := f.dst.isScal })] else addrNeeds f f.dst.isScal) ++ data.map fun x => (x, accessNeed f.ty false))
        kind host (data.headD (.vec 0)) (data.getLastD (.vec 0)) := by
    intro h hps hend
    let fl := (e.noted ps).atomFlight o f n kind (data.headD (.vec 0)) (data.getLastD (.vec 0)) ps
    obtain ⟨hf, hm, hne, heq⟩ := Env.atomIssued_spec (ps := ps) (n := n) h.ready hend kind (data.headD (.vec 0)) (data.getLastD (.vec 0))
    refine ⟨((e.noted ps).atomIssued f fl).rested, fl, ?_, hf, hm, { (e.noted_before ps).record o f with }, rfl, rfl, rfl, rfl, rfl, hne, heq⟩
    rw [hx, runIsa_ready h.ready, atomPlan_eq h hps]
    rfl
  exact ⟨hrow (data := [f.s2]) rfl, hrow (data := [f.s1, f.s2]) rfl⟩

end Sys2Proof.Machine
end

section
/-! PROOF. ldfe and stfe (R233): the statement O23. -/

namespace Sys2Proof.Machine

/-- R311 holds a continuation at the instructions that it never issues, so a path that is ready at one is none. -/
theorem Ready.fork_none {s : State} {e : Env} {o : Op} {f : Form} (h : Ready s e o f) (hn : Op.nonSpeculable o f = true) : e.fork = none := by
  have hgoes := h.goes
  unfold Env.contHolds at hgoes
  split at hgoes
  · assumption
  · simp [hn] at hgoes

/-! ### The words (R233) -/

/-- The words of some places. -/
def feWords (ps : List Place) : List Nat := (ps.map fun p => wordOf p.key).eraseDups

theorem mem_feWords {ps : List Place} {w : Nat} : w ∈ feWords ps ↔ w ∈ ps.map fun p => keyAddr p.key / 4 := List.mem_eraseDups

theorem feWords_contains (ps : List Place) (w : Nat) : (feWords ps).contains w = (ps.map fun p => keyAddr p.key / 4).contains w := by
  rw [Bool.eq_iff_iff, List.contains_iff_mem, List.contains_iff_mem, mem_feWords]

theorem feWords_ne_nil {ps : List Place} (h : ps ≠ []) : (feWords ps).isEmpty = false := by
  obtain ⟨p, ps, rfl⟩ := List.exists_cons_of_ne_nil h
  have hmem : wordOf p.key ∈ feWords (p :: ps) := mem_feWords.mpr List.mem_cons_self
  exact List.isEmpty_eq_false_iff.mpr (List.ne_nil_of_mem hmem)

/-- The condition of R233: no word is taken, and every word is in the required state. -/
theorem feReady_iff {s : State} {ps : List Place} {want : Option Bool} :
    feReady s (feWords ps) want = true ↔ feTaken s (feWords ps) = false
      ∧ ∀ w ∈ ps.map (fun p => keyAddr p.key / 4), ∀ b, want = some b → s.full.contains w = b := by
  cases want with
  | none => simp [feReady]
  | some b => simp [feReady, mem_feWords]

/-- Whether an issued ldfe or stfe holds one of the words does not depend on how they are listed (log 50). -/
theorem feTaken_feWords (s : State) (ps : List Place) : feTaken s (feWords ps) = feTaken s (ps.map fun p => keyAddr p.key / 4) := by
  unfold feTaken
  simp only [feWords_contains]

/-! ### The plan -/

/-- ldfe and stfe with the state that each requires of its words, and whether it loads. -/
def feRows : List (Op × Option Bool × Bool) :=
  [(.ldfeTake, some true, true), (.ldfePeek, some true, true), (.stfe, some false, false), (.stfeForce, none, false)]

section
variable {s : State} {e : Env} {o : Op} {f : Form} {ps : List Place} {want : Option Bool} {load : Bool}

theorem exec_fe (ho : (o, want, load) ∈ feRows) (s : State) (f : Form) :
    exec (Op.mk o f) s = runIsa o f s (fun e => fePlan e o f load) ∧ feWant o = want ∧ Op.nonSpeculable o f = true := by
  simp only [feRows, List.mem_cons, Prod.mk.injEq, List.not_mem_nil, or_false] at ho
  rcases ho with ⟨rfl, rfl, rfl⟩ | ⟨rfl, rfl, rfl⟩ | ⟨rfl, rfl, rfl⟩ | ⟨rfl, rfl, rfl⟩ <;> exact ⟨rfl, rfl, rfl⟩

/-- The record of ldfe and stfe: its accesses or its entries, and the step over its words (R233, R294). -/
def Env.feFlight (e : Env) (o : Op) (f : Form) (load : Bool) (ps : List Place) : Flight :=
  { e.flight o f with
    due := e.openDue, scope := f.scope
    accs := if load then (ps.map fun p => Env.accsOf .load 4 p 0 0).flatten else []
    stores := if load then [] else settleLanes (ps.map fun p =>
      { lane := p.lane, va := p.va, tt := 3, data := cellsFrom p.key (e.dataBytes f f.s2 4 p.lane) })
    fin := if load then .loaded f.dst ((e.dstNum f.dst).getD 0) .b32 false else .regs
    sync := if (feWords ps).isEmpty then none else some (.fe (o == .ldfeTake) (!load) (feWords ps) f.scope) }

/-- The places of an ldfe or stfe none of whose lanes faults. -/
theorem fePlaces_eq {u : Bool} {need : Access} (h : (e.laneAddrs f 4 u).map (fun x => feResolve e need x.1 x.2) = ps.map Sum.inl) :
    fePlaces e f u need = (ps, []) := by
  have hmap : ((e.accessLanes f u).map fun l => feResolve e need l (e.addrOf f 4 l)) = ps.map Sum.inl := by
    rw [← h, Env.laneAddrs, List.map_map]
    rfl
  simp only [fePlaces, hmap, List.filterMap_map, Function.comp_def, List.filterMap_some, List.filterMap_none]

/-- With every lane in the window the plan turns on R233's condition alone. -/
theorem fePlan_eq (hc : e.check (addrNeeds f f.dst.isScal ++ if load then [] else [(f.s2, ({} : Env.Need))]) f.dst {} = none)
    (hin : ∀ x ∈ e.laneAddrs f 4 f.dst.isScal, e.outsideWindow x.2 = false)
    (hps : (e.laneAddrs f 4 f.dst.isScal).map (fun x => feResolve e (if load then .read else .write) x.1 x.2) = ps.map Sum.inl) :
    fePlan e o f load = if !feReady e.s (feWords ps) (feWant o) then .stall
      else .go ({ e with s := e.s.spend }.issue (e.feFlight o f load ps)) := by
  have hinside : ∀ x ∈ (e.accessLanes f f.dst.isScal).map fun l => (l, e.addrOf f 4 l), e.outsideWindow x.2 = false := hin
  rw [fePlan]
  dsimp only
  rw [hc]
  dsimp only
  rw [Env.windowTrap_none hinside, fePlaces_eq hps]
  dsimp only
  rw [Env.spreadFaults_nil]
  rfl

end

/-- Each place of a word has one access. -/
theorem accsOf_words (ps : List Place) : (ps.map fun p => Env.accsOf .load 4 p 0 0).flatten
    = ps.map fun p => { lane := p.lane, va := p.va, tt := p.tt, key := p.key, size := 4 } := by
  induction ps with
  | nil => rfl
  | cons p ps ih => exact congrArg (List.cons _) ih

/-- Settles O23: the plan stalls unless R233's condition holds, and else issues with the step over the words. -/
theorem fullEmptyIssue : Obligations.FullEmptyIssue := by
  unfold Obligations.FullEmptyIssue
  intro s e f ps o want load u plain need srcs words free hrow h hc hin hne hps
  obtain ⟨hx, hwant, hspec⟩ := exec_fe hrow s f
  have hs : e.s = s := env_s h.env
  have hplan := fePlan_eq (o := o) hc hin hps
  rw [hwant, hs] at hplan
  refine ⟨fun hfree hall => ?_, fun hword => ?_⟩
  · have hready : feReady s (feWords ps) want = true := feReady_iff.mpr ⟨(feTaken_feWords s ps).trans hfree, hall⟩
    have hnil := feWords_ne_nil hne
    refine issues_of_spend h hx (fl := e.feFlight o f load ps) ?_ { (flight_record e o f).toRecordOf with }
      ⟨rfl, rfl, ⟨feWords ps, if_neg (by simp [hnil]), fun w => mem_feWords⟩, ?_, ?_⟩
    · rw [hplan, hready, ← hs]
      rfl
    · rintro rfl
      exact ⟨rfl, accsOf_words ps⟩
    · rintro rfl
      exact ⟨rfl, rfl⟩
  · obtain ⟨w, hw, b, hb, hbad⟩ := hword
    have hready : feReady s (feWords ps) want = false := Bool.eq_false_iff.mpr fun hr =>
      hbad ((feReady_iff.mp hr).2 w hw b hb)
    rw [exec_of_stall h hx (by rw [hplan, hready]; rfl), Env.isCont, h.fork_none hspec]
    rfl

end Sys2Proof.Machine
end

section
/-! PROOF. st, stmc and stsc (R219, R221, R222): the statement O19. -/

namespace Sys2Proof.Machine

/-! ### Issuing a store -/

section
variable {s u : State} {e : Env} {o : Op} {f : Form} {srcs : List (Src × Env.Need)} {body : Env → Plan}

/-- No entry of a store goes to a window (R267, R282). -/
def noWindow (sts : List SpecEntry) : Prop := ∀ x ∈ sts, x.tt ≠ 5 ∧ x.tt ≠ 6

/-- A store to plain memory, whose path may go on and has a free entry, issues with its entries (R310). -/
theorem issues_store {sts : List SpecEntry} {clash : Bool} {nf : BitVec 7} {more : List (List (Src × Env.Need) × Lanes)}
    (h : Ready s e o f) (hx : exec (Op.mk o f) s = runIsa o f s body) (hu : e.s.Before u)
    (hb : body e = { e with s := u }.issueStore o f srcs sts clash nf more)
    (hs : e.contStalls srcs [] = false) (hfull : e.specFull = false) (hw : noWindow sts) :
    Issues s e o f fun fl => fl.writes = [] ∧ fl.accs = [] ∧ fl.fin = .store ∧ fl.nf = nf
      ∧ fl.stores = sts.map fun x => { x with ord := fl.ord } := by
  let e' : Env := { e with s := u }
  have hfull' : e'.specFull = false := by rw [← hfull, Env.specFull, Env.specFull]; simp only [e', hu.flights]
  have hany : (sts.any fun x => x.tt == 5 || x.tt == 6) = false :=
    List.any_eq_false.mpr fun x hx => by obtain ⟨h5, h6⟩ := hw x hx; simp [h5, h6]
  have hstall : (e'.contStalls srcs [] || (e'.isCont && (e'.specFull || sts.any fun x => x.tt == 5 || x.tt == 6))) = false := by
    rw [show e'.contStalls srcs [] = false from hs, hfull', hany, Bool.or_false, Bool.and_false, Bool.or_false]
  let go := if sts.any fun x => x.tt == 5 then
    (u.coh.sb.filter fun x => x.comb == e.ref.comb && x.group == e.ref.group).map fun x => x.eid else []
  let fl := { e'.flight o f with due := e'.openDue, fin := .store, nf := nf }
  refine issues_of_plan h hx (fl := { fl with stores := sts.map fun x => { x with ord := fl.ord }, cmds := go }) ?_ hu.spend
    { hu.record o f with } (Env.contMarks_pathsOnly e' srcs [] (e'.active f.pred) clash _ more) ⟨rfl, rfl, rfl, rfl, rfl⟩
  rw [hb, Env.issueStore]
  exact if_neg (Bool.eq_false_iff.mp hstall)

end

/-! ### The entries of st and stmc -/

theorem settleLanes_tt {sts : List SpecEntry} {x : SpecEntry} (hx : x ∈ settleLanes sts) : ∃ y ∈ sts, x.tt = y.tt := by
  induction sts with
  | nil => cases hx
  | cons y ys ih =>
    rcases List.mem_cons.mp hx with rfl | hx
    · exact ⟨y, List.mem_cons_self, rfl⟩
    · obtain ⟨z, hz, htt⟩ := ih hx
      exact ⟨z, List.mem_cons_of_mem _ hz, htt⟩

/-- The sizes of stored data (R211): one access, or two of 8 bytes. -/
theorem accessBytes_cases (t : Ty) : accessBytes t ≤ 4 ∨ accessBytes t = 8 ∨ accessBytes t = 16 := by
  cases t <;> decide

/-- The entries of a place, 8 bytes each but for one of fewer (R216). -/
theorem entriesOf_eq {p : Place} {bs : List Byte} (h6 : p.tt ≠ 6) (reps : List Nat) (hn : bs.length ≤ 8 ∨ bs.length = 16) :
    entriesOf p bs reps = (List.range (max (bs.length / 8) 1)).map fun i =>
      { lane := p.lane, va := p.va + BitVec.ofNat 64 (8 * i), tt := p.tt
        data := cellsFrom (p.key + 8 * i) ((bs.drop (8 * i)).take 8), reps := reps } := by
  have htt : (p.tt == 6) = false := by simpa using h6
  rw [entriesOf, htt, Bool.or_false]
  rcases hn with hn | hn
  · rw [if_pos (by simpa using hn), show max (bs.length / 8) 1 = 1 by omega]
    simp [List.take_of_length_le hn]
  · rw [if_neg (by simp [hn]), hn]
    rfl

/-- The data of a lane has the bytes of its access. -/
theorem Env.dataBytes_length (e : Env) (f : Form) (x : Src) (t : Ty) (l : Nat) :
    (e.dataBytes f x (accessBytes t) l).length = accessBytes t := by
  unfold Env.dataBytes
  split
  · exact leBytes_length ..
  · split
    · next h => rw [h]; exact leBytes_length ..
    · next h4 h8 =>
      have h16 : accessBytes t = 16 := by have := accessBytes_cases t; omega
      split
      · simp [leBytes_length, h16, List.range_succ]
      · exact leBytes_length ..

section
variable {s : State} {e : Env} {o : Op} {f : Form} {ps : List Place} {okTT : Nat → Bool}

/-- The entries of places in plain memory. -/
theorem storeEntries_eq (h6 : ∀ p ∈ ps, p.tt ≠ 6) (reps : Nat → List Nat) :
    storeEntries e f ps reps = (ps.map fun p => (List.range (max (accessBytes f.ty / 8) 1)).map fun i =>
      { lane := p.lane, va := p.va + BitVec.ofNat 64 (8 * i), tt := p.tt
        data := cellsFrom (p.key + 8 * i) (((e.dataBytes f f.s2 (accessBytes f.ty) p.lane).drop (8 * i)).take 8)
        reps := reps p.tt }).flatten := by
  rw [storeEntries]
  refine congrArg List.flatten (List.map_congr_left fun p hp => ?_)
  have hlen := e.dataBytes_length f f.s2 f.ty p.lane
  have hn : (e.dataBytes f f.s2 (accessBytes f.ty) p.lane).length ≤ 8 ∨ (e.dataBytes f f.s2 (accessBytes f.ty) p.lane).length = 16 := by
    rw [hlen]
    have := accessBytes_cases f.ty
    omega
  have htt : (p.tt == 6) = false := by simpa using h6 p hp
  dsimp only
  rw [htt, if_neg Bool.false_ne_true, entriesOf_eq (h6 p hp) _ hn, hlen]

theorem storeEntries_noWindow (hps : ∀ p ∈ ps, p.tt ≠ 5 ∧ p.tt ≠ 6) (reps : Nat → List Nat) : noWindow (storeEntries e f ps reps) := by
  rw [storeEntries_eq fun p hp => (hps p hp).2]
  intro x hx
  obtain ⟨l, hl, hx⟩ := List.mem_flatten.mp hx
  obtain ⟨p, hp, rfl⟩ := List.mem_map.mp hl
  obtain ⟨i, -, rfl⟩ := List.mem_map.mp hx
  exact hps p hp

theorem windowPost_plain {p : Place} (h : p.tt ≠ 5 ∧ p.tt ≠ 6) : windowPost e f p = .inl p := by
  obtain ⟨h5, h6⟩ := h
  simp [windowPost, h5, h6]

/-- st and stmc to plain memory issue with the settled entries. -/
theorem issues_storePlan {reps : Env → Nat → List Nat}
    (h : Translates s e o f (addrNeeds f false ++ [(f.s2, accessNeed f.ty false)]) {} (accessBytes f.ty) false .write okTT ps)
    (hx : exec (Op.mk o f) s = runIsa o f s fun e => storePlan e o f okTT reps) (hps : ∀ p ∈ ps, p.tt ≠ 5 ∧ p.tt ≠ 6)
    (hs : e.contStalls (addrNeeds f false ++ [(f.s2, accessNeed f.ty false)]) [] = false) (hfull : e.specFull = false) :
    Issues s e o f fun fl => fl.writes = [] ∧ fl.accs = [] ∧ fl.fin = .store ∧ fl.nf = 0
      ∧ fl.stores = (settleLanes (storeEntries e f ps (reps (e.noted ps)))).map fun x => { x with ord := fl.ord } := by
  have hno : noWindow (storeEntries e f ps (reps (e.noted ps))) := storeEntries_noWindow hps _
  have hcmds : (storeEntries e f ps (reps (e.noted ps))).filter (fun x => x.tt == 6) = [] :=
    List.filter_eq_nil_iff.mpr fun x hx => by simpa using (hno x hx).2
  have hplain : (storeEntries e f ps (reps (e.noted ps))).filter (fun x => x.tt != 6) = storeEntries e f ps (reps (e.noted ps)) :=
    List.filter_eq_self.mpr fun x hx => by simpa using (hno x hx).2
  have hbody : storePlan e o f okTT reps = (e.noted ps).issueStore o f (addrNeeds f false ++ [(f.s2, accessNeed f.ty false)])
      (settleLanes (storeEntries e f ps (reps (e.noted ps)))) (lanesClash (storeEntries e f ps (reps (e.noted ps)))) 0 := by
    rw [storePlan]
    refine (h.memPlan_eq (fun p hp => windowPost_plain (hps p hp)) _).trans ?_
    show (e.noted ps).issueStore o f _ (settleLanes ((storeEntries e f ps (reps (e.noted ps))).filter fun x => x.tt != 6)
      ++ (storeEntries e f ps (reps (e.noted ps))).filter fun x => x.tt == 6)
      (lanesClash ((storeEntries e f ps (reps (e.noted ps))).filter fun x => x.tt != 6)) 0 = _
    rw [hcmds, hplain, List.append_nil]
  refine issues_store h.ready hx (e.noted_before ps) hbody hs hfull fun x hx => ?_
  obtain ⟨y, hy, htt⟩ := settleLanes_tt hx
  rw [htt]
  exact hno y hy

end

/-- The target types of stmc and stsc are of plain memory (R205). -/
theorem ttScaled_plain {k : Nat} (h : ttScaled k = true) : k ≠ 5 ∧ k ≠ 6 := by
  constructor <;> (rintro rfl; cases h)

/-- Settles O19: the plan issues the entries of the places; stsc's are those of its blocks with an active lane. -/
theorem storesIssue : Obligations.StoresIssue := by
  unfold Obligations.StoresIssue
  intro s e f ps n act plain dneed srcs bytes entries ok ssrcs t mx blocks own goes
  refine ⟨fun h hps hgo => ?st, fun h hgo => ?stmc, fun h hgo => ?stsc⟩
  case st =>
    have hissues := issues_storePlan h rfl hps hgo.1 hgo.2
    rw [storeEntries_eq fun p hp => (hps p hp).2] at hissues
    have hown : ownReplica (e.noted ps) = own := funext fun tt => by simp [ownReplica, own]; rfl
    rw [hown] at hissues
    exact hissues
  case stmc =>
    have h4 : ∀ p ∈ ps, p.tt = 4 := fun p hp => by simpa using h.tt_ok hp
    have hps : ∀ p ∈ ps, p.tt ≠ 5 ∧ p.tt ≠ 6 := fun p hp => by rw [h4 p hp]; decide
    have hissues := issues_storePlan h rfl hps hgo.1 hgo.2
    rw [storeEntries_eq fun p hp => (hps p hp).2] at hissues
    exact hissues
  case stsc =>
    refine issues_store h.ready rfl (e.noted_before ps) (h.memPlan_eq (fun _ _ => rfl) _) hgo.1 hgo.2 fun x hx => ?_
    obtain ⟨r, hr, rfl⟩ := List.mem_map.mp hx
    obtain ⟨l, hl, hr⟩ := List.mem_flatten.mp hr
    obtain ⟨p, hp, rfl⟩ := List.mem_map.mp hl
    obtain ⟨b, -, rfl⟩ := List.mem_map.mp hr
    exact ttScaled_plain (h.tt_ok hp)

end Sys2Proof.Machine
end

section
/-! PROOF. The arrival step of bar.meet (R215, R235, R236): the statement O45. -/

namespace Sys2Proof.Machine

section
variable {s : State} {r : PathRef} {e : Env}

/-- The launch of an environment is its comb's. -/
theorem State.envOf_launch (h : s.envOf r = some e) : s.launch? e.c.launch = some e.l := by
  unfold State.envOf at h
  split at h
  · cases h
  · split at h
    · split at h
      · cases h
      · split at h
        · cases h
        · split at h
          · cases h
          · cases h; assumption
    · cases h

/-- Identifiers below 16 name the comb's own barriers (R234). -/
theorem State.barRef_comb {c : Comb} {l : Launch} {n : Nat} (hl : s.launch? c.launch = some l) (hn : n < 16) :
    s.barRef c n = some (.comb n) := by
  have hmod : n % 16 = n := Nat.mod_eq_of_lt hn
  have hlw : n / 16 % 16 = 0 := by omega
  have hlh : n / 256 % 16 = 0 := by omega
  have hkind : n / 4096 = 0 := by omega
  rw [State.barRef, hl]
  dsimp only
  rw [if_neg (by omega), hkind, hmod, hlw, hlh]
  rfl

end

/-- The test of R235. -/
theorem State.tested_eq (b : Barrier) : State.tested b = if b.expect ≤ b.arrived ∧ b.pending = 0
    then { b with arrived := b.arrived - b.expect, phase := b.phase + 1 } else b := by
  simp [State.tested]

/-- The comb's own barrier after an arrival (R235). -/
def Barrier.joinedBy (b : Barrier) (count : W32) (bytes : W64) : Barrier :=
  State.tested { b with pending := b.pending + bytes, arrived := b.arrived + count }

/-- The comb after an arrival at its barrier `n`. -/
def Comb.meets (n : Nat) (count : W32) (bytes : W64) (c : Comb) : Comb :=
  { c with bars := setAt c.bars n ((getAt c.bars n).joinedBy count bytes) }

/-- The path that has joined a phase. -/
def Path.joins (phase : W32) (p : Path) : Path := { p with joined := some phase }

/-- The state after an arrival at a comb's own barrier, with the joined phase (R215, R236). -/
def Env.met (e : Env) (n : Nat) (count : W32) (bytes : W64) : State :=
  (e.s.modPath e.ref (Path.joins (getAt e.c.bars n).phase)).modCombHome e.c.id (Comb.meets n count bytes)

section
variable {s : State} {r : PathRef} {e : Env} {f : Form} {n : Nat}

/-- bar.meet's arrival step at a comb's own barrier that is not broken, once its release may be performed (R215, R236). -/
theorem barMeetStep_arrives (hr : e.s.barRef e.c (barNum e f).toNat = some (.comb n)) (hj : e.p.joined = none) (hk : e.fork = none)
    (ha : e.active f.pred ≠ 0) (hheld : e.barHeld = false) (hc : e.check (barSrcs f .barMeet) f.dst {} = none)
    (hbr : (getAt e.c.bars n).broken = false)
    (hrel : e.s.mayRelease e.ref.comb e.ref.group 0 e.order false (State.boundRegion e.c.binds 0 (BitVec.ofNat 64 (barNum e f).toNat)) = true) :
    barMeetStep e f = e.met n (barCount e f) (barBytes e f) := by
  have hbusy : (e.p.joined.isSome || e.isCont || e.active f.pred == 0 || e.barHeld) = false := by
    simpa [hj, Env.isCont, hk, hheld] using ha
  have hrelease : e.s.mayRelease e.ref.comb e.ref.group 0 e.order false (barMeetStep.boundRegionOf e.c.binds (barNum e f).toNat) = true := hrel
  rw [barMeetStep, hbusy, if_neg Bool.false_ne_true, hc]
  dsimp only [Option.isSome]
  rw [if_neg Bool.false_ne_true, hr]
  dsimp only
  rw [if_neg (by simp [State.barKnown]), if_neg (by simp [hrelease, State.barScope]),
    if_neg (by simp [State.barGet, hbr])]
  rfl

/-- What an arrival leaves: the barrier counted and tested, the joined phase with the path, and all else. -/
theorem Env.met_spec (h : s.envOf r = some e) (count : W32) (bytes : W64) :
    let t := e.met n count bytes
    t.mem = s.mem ∧ t.flights = s.flights
      ∧ (∃ d, t.comb? r.comb = some d ∧ d.bars = setAt e.c.bars n ((getAt e.c.bars n).joinedBy count bytes))
      ∧ t.path? r = some (e.p.joins (getAt e.c.bars n).phase) := by
  obtain ⟨hs, rfl, hcomb, hgroup, hpath⟩ := State.envOf_parts h
  obtain rfl := hs
  intro t
  let s1 := e.s.modPath e.ref (Path.joins (getAt e.c.bars n).phase)
  let c1 := e.c.modGroup e.ref.group fun g => g.modPath e.ref.path (Path.joins (getAt e.c.bars n).phase)
  have hcomb1 : s1.comb? e.ref.comb = some c1 := (State.comb?_modGroup_same e.s e.ref.comb e.ref.group _).trans (congrArg _ hcomb)
  have ht : t = s1.modComb e.ref.comb (Comb.meets n count bytes) := by
    show s1.modCombHome e.c.id (Comb.meets n count bytes) = _
    rw [State.id_of_comb? hcomb, State.modCombHome, hcomb1]
    rfl
  have hcomb2 : t.comb? e.ref.comb = some (c1.meets n count bytes) := by
    rw [ht, State.comb?_modComb_same s1 (f := Comb.meets n count bytes) fun _ hx => hx, hcomb1]
    rfl
  have hpath1 : s1.path? e.ref = some (e.p.joins (getAt e.c.bars n).phase) := by
    rw [State.path?_modPath_same e.s (f := Path.joins (getAt e.c.bars n).phase) fun _ => rfl, State.path?, State.group?, hcomb,
      Option.bind_some, hgroup, Option.bind_some, hpath]
    rfl
  refine ⟨?_, ?_, ⟨_, hcomb2, rfl⟩, ?_⟩
  · rw [ht]; rfl
  · rw [ht]; rfl
  · rw [← hpath1, State.path?, State.path?, State.group?, State.group?, hcomb1, hcomb2]
    rfl

end

/-- Settles O45: the arrival step reaches the comb's own barrier, which it changes together with the path. -/
theorem meetArrives : Obligations.MeetArrives := by
  unfold Obligations.MeetArrives
  intro s r e e1 f n u act srcs count bytes b b1 henv hrun htime hps hslot hmod himm hn hk ha hj hheld hc hbr hrel
  have hs : e.s = s := (State.envOf_parts henv).1
  have hnum : (barNum e f).toNat = n := by
    rw [barNum_toNat, hmod, himm]
    exact Nat.mod_eq_of_lt (hn.trans (by norm_num))
  have href : e.s.barRef e.c (barNum e f).toNat = some (.comb n) := by
    rw [hnum, hs]
    exact State.barRef_comb (State.envOf_launch henv) hn
  have hsrcs : barSrcs f .barMeet = srcs := by simp [barSrcs, hmod, srcs]; rfl
  have hstep : s.meetArrival r = e.met n (barCount e f) (barBytes e f) := by
    rw [← barMeetStep_arrives href hj hk ha (Env.barHeld_eq_false hheld) (hsrcs ▸ hc) hbr (by rw [hnum, hs]; exact hrel),
      State.meetArrival, hrun, henv]
    dsimp only
    rw [hslot]
    exact if_pos (by simp [htime, hps])
  obtain ⟨hmem, hflights, ⟨d, hd, hbars⟩, hpath⟩ := Env.met_spec (n := n) henv (barCount e f) (barBytes e f)
  refine ⟨s.meetArrival r, d, e.p.joins b.phase, rfl, ?_, ?_, ?_, hbars.trans ?_, ?_, rfl, rfl, rfl, rfl⟩
  · rw [hstep, hmem]
  · rw [hstep, hflights]
  · rw [hstep, hd]
  · exact congrArg _ (State.tested_eq _)
  · rw [hstep, hpath]

end Sys2Proof.Machine
end

section
/-! SUPPORT. What translation depends on (R325): memory, contexts, launches, cached translations and the combs, but no fork,
no copy of a line and no in-flight record. -/

namespace Sys2Proof.Machine

/-! ### The part of the state that translation reads -/

def Group.unforked (g : Group) : Group := { g with forks := [] }
def Comb.unforked (c : Comb) : Comb := { c with groups := c.groups.map Group.unforked }

/-- The state without what no translation reads: forks, copies of lines and in-flight records. -/
def State.mapsOf (s : State) : State :=
  { s with combs := s.combs.map Comb.unforked, flights := [], coh := { tlb := s.coh.tlb } }

section
variable (s : State)

theorem State.combs_mapsOf_filter (c : Nat) : (s.mapsOf.combs.filter fun x => s.mapsOf.ctxOf x == c)
    = (s.combs.filter fun x => s.ctxOf x == c).map Comb.unforked := List.filter_map

theorem State.spBases_mapsOf : s.mapsOf.spBases = s.spBases := by
  funext c
  rw [State.spBases, State.combs_mapsOf_filter, List.map_map]
  rfl

theorem State.stkBases_mapsOf : s.mapsOf.stkBases = s.stkBases := by
  funext c
  have hgroups (x : Comb) : (x.unforked.groups.map fun g => g.stkap) = x.groups.map fun g => g.stkap := List.map_map ..
  rw [State.stkBases, State.combs_mapsOf_filter, List.map_map]
  exact congrArg (fun l => _ :: List.flatten l) (List.map_congr_left fun x _ => hgroups x)

theorem State.inAperture_mapsOf : s.mapsOf.inAperture = s.inAperture := by
  delta State.inAperture
  rw [State.spBases_mapsOf]

theorem State.inStack_mapsOf : s.mapsOf.inStack = s.inStack := by
  delta State.inStack
  rw [State.stkBases_mapsOf]

theorem State.byteAt_mapsOf (k : Nat) : s.mapsOf.byteAt k = s.byteAt k := by
  have hsalt (core off : Nat) : s.mapsOf.saltAt core off = s.saltAt core off := by
    rw [State.saltAt, State.mapsOf, List.find?_map, State.saltAt]
    change (match Option.map Comb.unforked (s.combs.find? fun c => c.core == core && c.spOff ≤ off && off < c.spOff + c.scratch) with
      | some c => c.salt | none => 0) = _
    cases s.combs.find? fun c => c.core == core && c.spOff ≤ off && off < c.spOff + c.scratch <;> rfl
  simp only [State.byteAt, hsalt]
  rfl

theorem State.bytesAt_mapsOf (k n : Nat) : s.mapsOf.bytesAt k n = s.bytesAt k n := by
  induction n generalizing k with
  | zero => rfl
  | succ n ih => rw [State.bytesAt, ih, State.byteAt_mapsOf, State.bytesAt]

theorem State.walk_mapsOf (va t : Nat) (ls : List (Nat × Nat)) : s.mapsOf.walk va t ls = s.walk va t ls := by
  induction ls generalizing t with
  | nil => rfl
  | cons x ls ih =>
    have hword (k : Nat) : s.mapsOf.wordAt k = s.wordAt k := congrArg (fun b => BitVec.ofNat 64 (leNat b)) (s.bytesAt_mapsOf k 8)
    simp only [State.walk, hword, ih]
    rfl

theorem State.xlateTable_mapsOf (c core va : Nat) (need : Access) : s.mapsOf.xlateTable c core va need = s.xlateTable c core va need := by
  have hwalk : s.mapsOf.walkCtx c va = s.walkCtx c va := s.walk_mapsOf ..
  rw [State.xlateTable, hwalk]
  rfl

/-- The stack page of a group slot, as translation finds it. -/
theorem State.stackPage_mapsOf (c k g b : Nat) :
    ((s.mapsOf.combs.find? fun x => x.core == k && s.mapsOf.ctxOf x == c && x.groups.any fun y => y.gslot == g && y.stkap == b).bind
      fun x => x.groups.find? fun y => y.gslot == g)
    = ((s.combs.find? fun x => x.core == k && s.ctxOf x == c && x.groups.any fun y => y.gslot == g && y.stkap == b).bind
      fun x => x.groups.find? fun y => y.gslot == g).map Group.unforked := by
  have hany (x : Comb) : (x.unforked.groups.any fun y => y.gslot == g && y.stkap == b) = x.groups.any fun y => y.gslot == g && y.stkap == b :=
    List.any_map
  have hfind : (s.mapsOf.combs.find? fun x => x.core == k && s.mapsOf.ctxOf x == c && x.groups.any fun y => y.gslot == g && y.stkap == b)
      = (s.combs.find? fun x => x.core == k && s.ctxOf x == c && x.groups.any fun y => y.gslot == g && y.stkap == b).map Comb.unforked := by
    rw [State.mapsOf, List.find?_map]
    refine congrArg (Option.map Comb.unforked) (congrArg (fun p => s.combs.find? p) (funext fun x => ?_))
    exact congrArg (fun z => x.core == k && s.ctxOf x == c && z) (hany x)
  rw [hfind]
  cases s.combs.find? fun x => x.core == k && s.ctxOf x == c && x.groups.any fun y => y.gslot == g && y.stkap == b with
  | none => rfl
  | some x => exact List.find?_map ..

theorem State.xlate_mapsOf (c core : Nat) (va : W64) (need : Access) : s.mapsOf.xlate c core va need = s.xlate c core va need := by
  have htable : s.mapsOf.xlateTable = s.xlateTable := by
    funext c core va need
    exact s.xlateTable_mapsOf c core va need
  have hlines : s.mapsOf.uncorrectable = s.uncorrectable := rfl
  unfold State.xlate
  simp only [htable, hlines, State.inAperture_mapsOf, State.inStack_mapsOf, State.stackPage_mapsOf]
  congr! 3
  rcases s.inStack c va.toNat with _ | ⟨k, g, off, b⟩
  · rfl
  · dsimp only
    cases (s.combs.find? fun x => x.core == k && s.ctxOf x == c && x.groups.any fun y => y.gslot == g && y.stkap == b).bind
      fun x => x.groups.find? fun y => y.gslot == g <;> rfl

end

section
variable {s t : State}

/-- States that agree in what translation reads translate every address alike. -/
theorem State.xlate_congr (h : t.mapsOf = s.mapsOf) (c core : Nat) (va : W64) (need : Access) :
    t.xlate c core va need = s.xlate c core va need := by
  rw [← State.xlate_mapsOf, h, State.xlate_mapsOf]

theorem State.pageHits_congr (h : t.mapsOf = s.mapsOf) (c core k : Nat) (r : List (Nat × Nat)) (p n : Nat) :
    t.pageHits c core k r p n = s.pageHits c core k r p n := by
  induction n generalizing p with
  | zero => rfl
  | succ n ih => simp only [State.pageHits, ih, State.xlate_congr h]

theorem State.lineIn_congr (h : t.mapsOf = s.mapsOf) (c core k : Nat) (r : List (Nat × Nat)) : t.lineIn c core k r = s.lineIn c core k r := by
  simp only [State.lineIn, State.pageHits_congr h]

/-- A change of one group's forks is none of what translation reads. -/
theorem State.mapsOf_modGroup (s : State) (c g : Nat) {f : Group → Group} (hf : ∀ x, (f x).unforked = x.unforked) :
    (s.modGroup c g f).mapsOf = s.mapsOf := by
  have hcomb (x : Comb) : (x.modGroup g f).unforked = x.unforked := by
    refine congrArg (fun l => { x with groups := l }) ?_
    rw [Comb.modGroup, List.map_map]
    refine List.map_congr_left fun y _ => ?_
    rw [Function.comp_apply]
    split
    · exact hf y
    · rfl
  refine congrArg (fun l => { s with combs := l, flights := [], coh := { tlb := s.coh.tlb } }) ?_
  rw [State.modGroup, State.modComb, List.map_map]
  refine List.map_congr_left fun x _ => ?_
  rw [Function.comp_apply]
  split
  · exact hcomb x
  · rfl

end

end Sys2Proof.Machine
end

section
/-! PROOF. An atomic lane (R229 to R232, R290, R291, R294 to R297): the statement O43. -/

namespace Sys2Proof.Machine

/-! ### The new value (R231, R232) -/

theorem leNat_lt (bs : List Byte) : leNat bs < 256 ^ bs.length := by
  induction bs with
  | nil => exact Nat.one_pos
  | cons b bs ih =>
    have hb : b.toNat < 256 := b.isLt
    rw [leNat, List.length_cons, pow_succ]
    omega

theorem State.bytesAt_eq_map (s : State) (k n : Nat) : s.bytesAt k n = (List.range n).map fun i => s.byteAt (k + i) := by
  induction n generalizing k with
  | zero => rfl
  | succ n ih =>
    rw [State.bytesAt, ih, List.range_succ_eq_map, List.map_cons, List.map_map]
    refine congrArg (List.cons _) (List.map_congr_left fun i _ => ?_)
    rw [Function.comp_apply, Nat.succ_eq_add_one, Nat.add_assoc, Nat.add_comm 1 i]

/-- What an atomic finds at its place: its hive's copy at COMB and CLUSTER scope in tower memory (R229, R290). -/
theorem State.atomBytes_near {s : State} {core scope : Nat} {a : Acc} (h : scope ≤ 1 ∧ a.tt = 0) :
    s.atomBytes core scope a = (List.range a.size).map fun i => s.hiveByte (hiveOf core) (a.key + i) := by
  simp [State.atomBytes, h]

theorem State.atomBytes_far {s : State} {core scope : Nat} {a : Acc} (h : ¬ (scope ≤ 1 ∧ a.tt = 0)) :
    s.atomBytes core scope a = s.bytesAt a.key a.size := by
  have hnot : (a.tt == 0 && decide (scope ≤ 1)) = false := by
    rw [Bool.and_eq_false_iff]
    by_cases h0 : a.tt = 0
    · exact .inr (by simpa [h0] using h)
    · exact .inl (by simpa using h0)
  simp [State.atomBytes, hnot, State.bytesAt_eq_map]

theorem State.atomBytes_length (s : State) (core scope : Nat) (a : Acc) : (s.atomBytes core scope a).length = a.size := by
  simp [State.atomBytes]

/-- The signed reading of a number of `w` bits (R231). -/
theorem toInt_ofNat {w n : Nat} (hw : 0 < w) (h : n < 2 ^ w) :
    (BitVec.ofNat w n).toInt = if n < 2 ^ (w - 1) then (n : Int) else (n : Int) - 2 ^ w := by
  have hpow : 2 ^ w = 2 * 2 ^ (w - 1) := by rw [← pow_succ', Nat.sub_add_cancel hw]
  rw [BitVec.toInt_eq_toNat_cond, BitVec.toNat_ofNat, Nat.mod_eq_of_lt h]
  by_cases hn : n < 2 ^ (w - 1)
  · rw [if_pos hn, if_pos (by omega)]
  · rw [if_neg hn, if_neg (by omega)]
    norm_cast

/-! ### Dropping clean copies (R291, R295) -/

/-- No line of the state is dirty. -/
def State.Clean (s : State) : Prop := ∀ y ∈ s.coh.lines, y.dirty = []

theorem State.writeBack_clean {s : State} (h : s.Clean) (hive line : Nat) : s.writeBack hive line = s := by
  unfold State.writeBack
  split
  · rfl
  · next c hc =>
    have hd : c.dirty = [] := h c (List.mem_of_find?_eq_some hc)
    simp [hd]

/-- Dropping a copy of clean lines takes it away. -/
theorem State.dropCopy_clean {s : State} (h : s.Clean) (id : CacheId) (line : Nat) :
    s.dropCopy id line = s.modLines fun l => l.filter fun c => !(c.cache == id && c.line == line) := by
  have hfilter : (s.coh.lines.filter fun c => !(c.cache == id && c.line == line && c.dirty.isEmpty))
      = s.coh.lines.filter fun c => !(c.cache == id && c.line == line) :=
    List.filter_congr fun c hc => by rw [h c hc]; simp
  have hmod := congrArg (fun l => { s with coh := { s.coh with lines := l } }) hfilter
  cases id with
  | rdc hive =>
    unfold State.dropCopy
    dsimp only
    rw [State.writeBack_clean h]
    exact hmod
  | l1 core => exact hmod

theorem State.Clean.filter {s : State} (h : s.Clean) (p : CacheLine → Bool) : (s.modLines fun l => l.filter p).Clean :=
  fun y hy => h y (List.mem_of_mem_filter hy)

theorem State.dropCopies_clean {s : State} (h : s.Clean) (id : CacheId) (ls : List Nat) :
    ls.foldl (fun s l => s.dropCopy id l) s = s.modLines fun l => l.filter fun c => !(c.cache == id && ls.contains c.line) := by
  induction ls generalizing s with
  | nil =>
    refine (congrArg (fun l => { s with coh := { s.coh with lines := l } }) ?_).symm
    exact List.filter_eq_self.mpr fun c _ => by simp
  | cons x ls ih =>
    rw [List.foldl_cons, State.dropCopy_clean h, ih (h.filter _)]
    refine congrArg (fun l => { s with coh := { s.coh with lines := l } }) ?_
    refine List.filter_filter.trans (List.filter_congr fun c _ => ?_)
    rw [List.contains_cons]
    cases c.cache == id <;> cases c.line == x <;> simp

/-- Dropping the copies of a cache that satisfy a test leaves those that do not. -/
theorem State.dropListed {s : State} {l : List CacheLine} (hl : ∀ c ∈ l, c ∈ s.coh.lines) (id : CacheId) (p : Nat → Bool) :
    (l.filter fun c => !(c.cache == id && ((s.coh.lines.filter fun c => c.cache == id && p c.line).map fun c => c.line).contains c.line))
      = l.filter fun c => !(c.cache == id && p c.line) := by
  refine List.filter_congr fun c hc => ?_
  by_cases hid : c.cache = id
  · have hmem : ((s.coh.lines.filter fun c => c.cache == id && p c.line).map fun c => c.line).contains c.line = p c.line := by
      rw [Bool.eq_iff_iff, List.contains_iff_mem, List.mem_map]
      constructor
      · rintro ⟨x, hx, hline⟩
        obtain ⟨-, hp⟩ := Bool.and_eq_true_iff.mp (List.mem_filter.mp hx).2
        rwa [← hline]
      · exact fun hp => ⟨c, List.mem_filter.mpr ⟨hl c hc, by simp [hid, hp]⟩, rfl⟩
    rw [hmem]
  · rw [beq_eq_false_iff_ne.mpr hid]
    rfl

/-- The copies that an acquire looks at: of the core's L1, and at HIVE and wider of its hive's RDC (R295). -/
def CacheLine.acquiredBy (core scope : Nat) (c : CacheLine) : Bool :=
  c.cache == .l1 core || (decide (2 ≤ scope) && c.cache == .rdc (hiveOf core))

theorem State.dropWhere_clean {s : State} (h : s.Clean) (core scope : Nat) (p : Nat → Bool) :
    s.dropWhere core scope p = s.modLines fun l => l.filter fun c => !(c.acquiredBy core scope && p c.line) := by
  unfold State.dropWhere
  dsimp only
  rw [State.dropCopies_clean h, State.dropCopies_clean (h.filter _)]
  refine congrArg (fun l => { s with coh := { s.coh with lines := l } }) ?_
  show (s.coh.lines.filter _).filter _ = _
  rw [State.dropListed fun c hc => hc]
  by_cases hscope : scope < 2
  · rw [if_pos hscope]
    have hnot : ¬ 2 ≤ scope := by omega
    simp [CacheLine.acquiredBy, hnot]
  · rw [if_neg hscope, State.dropListed fun c hc => List.mem_of_mem_filter hc, List.filter_filter]
    have hwide : 2 ≤ scope := by omega
    refine List.filter_congr fun c _ => ?_
    rw [CacheLine.acquiredBy, decide_eq_true hwide, Bool.true_and]
    cases c.cache == .l1 core <;> cases c.cache == .rdc (hiveOf core) <;> simp

/-! ### The acquire of an atomic (R295) -/

/-- What an acquire leaves alone, and what it leaves of the region: no copy that the core reads. -/
structure State.Acquires (s : State) (c : Comb) (scope : Nat) (r : List (Nat × Nat)) (t : State) : Prop where
  mem     : t.mem = s.mem
  flights : t.flights = s.flights
  bank    : t.coh.bank = s.coh.bank
  maps    : t.mapsOf = s.mapsOf
  drops   : ∀ y ∈ t.coh.lines, y.acquiredBy c.core scope = true → s.lineIn (s.ctxOf c) c.core y.line r = false

theorem State.acquireFor_spec {s : State} (h : s.Clean) (c : Comb) (f : Flight) (scope : Nat) (r : List (Nat × Nat)) :
    s.Acquires c scope r (s.acquireFor c f scope r) := by
  unfold State.acquireFor
  split
  · next hr => exact ⟨rfl, rfl, rfl, rfl, fun y _ _ => by rw [List.isEmpty_iff.mp hr]; rfl⟩
  · next hr =>
    rw [State.acquire, if_neg hr, State.dropWhere_clean h]
    refine ⟨rfl, rfl, rfl, State.mapsOf_modGroup _ _ _ fun x => rfl, fun y hy hacq => ?_⟩
    have hkept := (List.mem_filter.mp hy).2
    simpa [hacq] using hkept

/-! ### What a write leaves (R290) -/

/-- A copy that takes written bytes stays as dirty as it was. -/
theorem CacheLine.take_dirty (c : CacheLine) (data : List (Nat × Byte)) : (c.take data).dirty = c.dirty := by
  refine foldl_keeps (p := CacheLine.dirty) (fun c d => ?_) data c
  split
  · unfold CacheLine.put
    split <;> rfl
  · rfl

/-- What a write to plain memory leaves alone. -/
structure State.WritesMem (s t : State) (data : List (Nat × Byte)) : Prop where
  mem      : t.mem = s.mem.setAll data
  flights  : t.flights = s.flights
  bank     : t.coh.bank = s.coh.bank
  launches : t.launches = s.launches
  clean    : s.Clean → t.Clean

theorem State.WritesMem.refl (s : State) : s.WritesMem s [] := ⟨rfl, rfl, rfl, rfl, id⟩

theorem State.WritesMem.takeBytes {s t : State} {data : List (Nat × Byte)} (h : s.WritesMem t data) (id : CacheId) (bytes : List (Nat × Byte)) :
    s.WritesMem (t.takeBytes id bytes) data where
  mem := h.mem
  flights := h.flights
  bank := h.bank
  launches := h.launches
  clean hs y hy := by
    obtain ⟨x, hx, rfl⟩ := List.mem_map.mp hy
    have hdirty := h.clean hs x hx
    split
    · rw [CacheLine.take_dirty, hdirty]
    · exact hdirty

/-- The host's copies take the bytes, and nothing else changes (R290). -/
theorem State.hostHook_lines (s : State) (data : List (Nat × Byte)) :
    ∃ l, s.hostHook data = s.modLines (fun _ => l) ∧ (s.Clean → ∀ y ∈ l, y.dirty = []) := by
  unfold State.hostHook
  split
  · exact ⟨s.coh.lines, rfl, id⟩
  · refine ⟨_, rfl, fun h y hy => ?_⟩
    obtain ⟨x, hx, rfl⟩ := List.mem_map.mp hy
    split
    · rw [CacheLine.take_dirty, h x hx]
    · exact h x hx

theorem State.rebuildHook_dev (s : State) (ks : List Nat) : ∃ d, s.rebuildHook ks = s.withDev d := by
  unfold State.rebuildHook
  dsimp only
  split
  · exact ⟨_, rfl⟩
  · exact ⟨s.dev, rfl⟩

/-- While no snapshot is armed, performing a write changes memory, copies of lines, forks and what is left to rebuild. -/
theorem State.performRaw_writes {s : State} (h : s.snaps = []) (passed : List (Nat × Nat)) (data : List (Nat × Byte)) :
    s.WritesMem (s.performRaw passed data) data := by
  have hmem := State.performRaw_mem h passed data
  obtain ⟨d, hd⟩ := s.rebuildHook_dev (data.map fun d => d.1)
  revert hmem
  unfold State.performRaw
  dsimp only
  rw [State.snapHooks_none h, hd]
  obtain ⟨l, hl, hclean⟩ := State.hostHook_lines { s.withDev d with
    mem := ((s.withDev d).mem.setAll data).setAll ((s.withDev d).mirror passed data) } data
  rw [hl]
  split <;> exact fun hmem => ⟨hmem, rfl, rfl, rfl, hclean⟩

/-! ### The steps of an atomic (R291) -/

/-- The bytes that an atomic leaves at its place. -/
def Acc.cells (a : Acc) : Option Nat → List (Nat × Byte)
  | none => []
  | some v => cellsFrom a.key (leBytes a.size v)

/-- The write of an atomic, with the copies that its core reads. -/
def State.atomWritten (s : State) (core : Nat) (a : Acc) (old : Nat) : Option Nat → State
  | none => s.seenAt core a old
  | some v => ((s.perform (s.masked (a.cells (some v)))).takeBytes (.rdc (hiveOf core)) (s.masked (a.cells (some v)))).takeBytes (.l1 core)
      (s.masked (a.cells (some v)))

/-- A command that has been performed leaves its queue. -/
def State.cmdDone (s : State) : Option BankCmd → State
  | some b => { s with coh := { s.coh with bank := s.coh.bank.filter fun x => x.num != b.num } }
  | none => s

/-- The acquire of an atomic. -/
def State.atomAcquired (s : State) (c : Comb) (f : Flight) (a : Acc) : State :=
  if f.orde == 1 || f.orde == 3 then s.acquireFor c f (scopeOf f.scope) (State.lockRegion f a) else s

theorem State.cmdDone_rest (s : State) (cmd : Option BankCmd) : (s.cmdDone cmd).mem = s.mem ∧ (s.cmdDone cmd).flights = s.flights
    ∧ (s.cmdDone cmd).launches = s.launches ∧ (s.cmdDone cmd).coh.lines = s.coh.lines := by
  cases cmd <;> exact ⟨rfl, rfl, rfl, rfl⟩

/-- The access has its value. -/
def Flight.answered (a : Acc) (old : Nat) (s : State) (f : Flight) : Flight :=
  { s.later f with accs := f.accs.map fun x => if x == a then { x with val := some old } else x }

theorem State.atomWritten_spec {s : State} {a : Acc} (hs : s.snaps = []) (hp : ∀ i < a.size, s.Plain (a.key + i)) (core old : Nat)
    (new : Option Nat) : s.WritesMem (s.atomWritten core a old new) (a.cells new) := by
  cases new with
  | none =>
    unfold State.atomWritten State.seenAt
    dsimp only
    split
    · exact (State.WritesMem.refl s).takeBytes ..
    · exact .refl s
  | some v =>
    have hplain : ∀ d ∈ a.cells (some v), s.Plain d.1 := fun d hd => by
      obtain ⟨h1, h2⟩ := mem_cellsFrom hd
      rw [leBytes_length] at h2
      have := hp (d.1 - a.key) (by omega)
      rwa [Nat.add_sub_cancel' h1] at this
    unfold State.atomWritten State.perform State.performFor
    dsimp only
    rw [State.masked_plain hplain, State.masked_plain hplain]
    exact ((State.performRaw_writes hs [] _).takeBytes ..).takeBytes ..

/-- A release of clean lines has nothing to wait for or to write back. -/
theorem State.stuck_clean {s : State} (h : s.Clean) (hive : Nat) (p : Nat → Bool) : s.stuck hive p = false :=
  List.any_eq_false.mpr fun y hy => by simp [h y hy]

theorem State.writeBackAll_clean {s : State} (h : s.Clean) (hive : Nat) (p : Nat → Bool) : s.writeBackAll hive p = s := by
  have hnil : (s.coh.lines.filter fun c => c.cache == .rdc hive && !c.dirty.isEmpty && p c.line) = [] :=
    List.filter_eq_nil_iff.mpr fun y hy => by simp [h y hy]
  rw [State.writeBackAll, hnil]
  rfl

section
variable {s : State} {f : Flight} {a : Acc} {c : Comb} {cmd : Option BankCmd}

/-- The command of an atomic at BANK scope. -/
def State.cmdOf (s : State) (f : Flight) (a : Acc) : Option BankCmd := if f.scope == 6 then s.atomCmd f.fid a.lane else none

/-- An atomic that waits for nothing is performed: it writes, its command leaves, it acquires, and its access has its value. -/
theorem State.atomPerform_eq {old : Nat} {new : Option Nat} (hf : s.flight? f.fid = some f)
    (ha : (f.accs.find? fun x => x.lane == a.lane && x.val.isNone && x.kind != .load) = some a) (hc : s.comb? f.comb = some c)
    (hbank : f.scope = 6 → ∃ b, s.atomCmd f.fid a.lane = some b ∧ b.queued = true ∧ s.cmdFirst b = true)
    (hwaits : s.atomWaits f a = false) (hregion : keyRegion a.key < 7) (hold : leNat (s.atomBytes c.core f.scope a) = old)
    (hnew : State.atomResult a old = new) (hclean : f.orde ≠ 0 → s.Clean)
    (hrel : f.orde = 2 ∨ f.orde = 3 → new ≠ none → s.mayRelease f.comb f.group f.fid f.ord false (State.lockRegion f a) = true) :
    let t := ((s.atomWritten c.core a old new).cmdDone (s.cmdOf f a)).atomAcquired c f a
    s.atomPerform f.fid a.lane = t.modFlight f.fid (Flight.answered a old t) := by
  intro t
  have hnear : (keyRegion a.key == 7) = false := beq_eq_false_iff_ne.mpr (by omega)
  have hready : (!(f.scope != 6 || (match s.cmdOf f a with | some b => b.queued && s.cmdFirst b | none => false)) || s.atomWaits f a) = false := by
    rw [hwaits, Bool.or_false]
    by_cases h6 : f.scope = 6
    · obtain ⟨b, hb, hq, hfirst⟩ := hbank h6
      simp [State.cmdOf, h6, hb, hq, hfirst]
    · simp [h6]
  have hrelease (h : ((f.orde == 2 || f.orde == 3) && new.isSome) = true) :
      s.Clean ∧ s.mayRelease f.comb f.group f.fid f.ord false (State.lockRegion f a) = true := by
    obtain ⟨horde, hsome⟩ := Bool.and_eq_true_iff.mp h
    have h23 : f.orde = 2 ∨ f.orde = 3 := by simpa using horde
    exact ⟨hclean (by omega), hrel h23 (Option.isSome_iff_ne_none.mp hsome)⟩
  have hgo (p : Nat → Bool) : ((f.orde == 2 || f.orde == 3) && new.isSome
      && (!s.mayRelease f.comb f.group f.fid f.ord false (State.lockRegion f a) || (4 ≤ scopeOf f.scope && s.stuck (hiveOf c.core) p))) = false := by
    cases h : (f.orde == 2 || f.orde == 3) && new.isSome with
    | false => rfl
    | true =>
      obtain ⟨hcl, hmay⟩ := hrelease h
      rw [hmay, State.stuck_clean hcl]
      simp
  have hback (p : Nat → Bool) : (if (f.orde == 2 || f.orde == 3) && new.isSome && decide (4 ≤ scopeOf f.scope) then
      s.writeBackAll (hiveOf c.core) p else s) = s := by
    split
    · next h => exact State.writeBackAll_clean (hrelease (Bool.and_eq_true_iff.mp h).1).1 ..
    · rfl
  have hsend : s.sendAtom a = s := by rw [State.sendAtom, hnear, if_neg Bool.false_ne_true]
  unfold State.atomPerform
  rw [hf]
  dsimp only
  rw [ha]
  dsimp only
  rw [hc]
  dsimp only
  refine (if_neg (Bool.eq_false_iff.mp hready)).trans ?_
  simp only [hnear, Bool.false_eq_true, if_false, hold, hnew, hgo, hback, hsend]
  rfl

end

/-- The new value, as R231 and R232 give it by the operation. -/
theorem State.atomResult_eq {a : Acc} {old : Nat} (ha : a.size = 4 ∨ a.size = 8) (hold : old < 2 ^ (8 * a.size)) :
    let w := 8 * a.size
    let arg := a.a.toNat % 2 ^ w
    let int := fun (n : Nat) => (BitVec.ofNat w n).toInt
    State.atomResult a old = match a.kind with
      | .atom op => some (match op with
        | 0 => (old + arg) % 2 ^ w
        | 1 => if int old ≤ int arg then old else arg
        | 2 => if int old ≤ int arg then arg else old
        | 3 => min old arg | 4 => max old arg | 5 => old &&& arg | 6 => old ||| arg | 7 => old ^^^ arg | 8 => arg
        | _ => (roundTo (Machine.Num.add false (decodeNum .f32 old) (decodeNum .f32 arg)).1 .f32 { mode := 0 } 0).1)
      | .cas => if old = arg then some (a.b.toNat % 2 ^ w) else none
      | .load => none := by
  intro w arg int
  have hw : 0 < w := by omega
  have harg : arg < 2 ^ w := Nat.mod_lt _ (Nat.two_pow_pos w)
  have hint {n : Nat} (h : n < 2 ^ w) : int n = if n < 2 ^ (w - 1) then (n : Int) else (n : Int) - 2 ^ w := toInt_ofNat hw h
  unfold State.atomResult
  cases hk : a.kind with
  | load => rfl
  | cas => simp [arg, w]
  | atom op =>
    refine congrArg some ?_
    rw [hint hold, hint harg]
    rfl

/-- What holds an atomic back (R291, R295, R298). -/
theorem State.atomWaits_eq_false {s : State} {f : Flight} {a : Acc} (hside : a.side = [])
    (hheld : s.heldBack f.comb f.group f.ord a.va.toNat a.size = false) (hsync : f.orde ≠ 0 → s.syncAhead f = false)
    (holder : ((s.olderEntries f.comb f.group f.ord).any fun e => e.tt != 5 && e.tt != 6 && (e.data ++ e.side).any fun d =>
      ((List.range a.size).map fun i => a.key + i).contains d.1) = false)
    (hstore : Env.storeAhead s f.comb f.group f.ord ((List.range a.size).map fun i => a.key + i) = false)
    (hacc : s.accessAhead f.comb f.group f.ord a.key a.size false = false) (hreach : s.reaches a.key = true) : s.atomWaits f a = false := by
  have hks : accKeys a = (List.range a.size).map fun i => a.key + i := by rw [accKeys, hside, List.append_nil]
  have hold : ((s.olderEntries f.comb f.group f.ord).any fun e => !isWindow e && (entryBytes e).any fun d => (accKeys a).contains d.1) = false := by
    rw [← holder, hks]
    refine congrArg (fun p => (s.olderEntries f.comb f.group f.ord).any p) (funext fun e => ?_)
    rw [isWindow, Bool.not_or]
    rfl
  have hs : (f.orde != 0 && s.syncAhead f) = false := by
    by_cases h0 : f.orde = 0
    · simp [h0]
    · rw [hsync h0, Bool.and_false]
  unfold State.atomWaits
  dsimp only
  rw [hold, hks, hheld, hs, hstore, hacc, hreach]
  rfl

section
variable {s : State} {f : Flight} {a : Acc} {c : Comb}

/-- What the acquire of an atomic leaves, which only one with acquire order performs (R295). -/
theorem State.atomAcquired_spec (h : f.orde ≠ 0 → s.Clean) : (s.atomAcquired c f a).mem = s.mem ∧ (s.atomAcquired c f a).flights = s.flights
    ∧ (s.atomAcquired c f a).coh.bank = s.coh.bank
    ∧ (f.orde = 1 ∨ f.orde = 3 → ∀ y ∈ (s.atomAcquired c f a).coh.lines, y.acquiredBy c.core (scopeOf f.scope) = true →
        (s.atomAcquired c f a).lineIn (s.ctxOf c) c.core y.line (State.lockRegion f a) = false) := by
  unfold State.atomAcquired
  by_cases h13 : f.orde = 1 ∨ f.orde = 3
  · have hspec := State.acquireFor_spec (h (by omega)) c f (scopeOf f.scope) (State.lockRegion f a)
    rw [if_pos (by simpa using h13)]
    refine ⟨hspec.mem, hspec.flights, hspec.bank, fun _ y hy hacq => ?_⟩
    rw [State.lineIn_congr hspec.maps]
    exact hspec.drops y hy hacq
  · rw [if_neg (by simpa using h13)]
    exact ⟨rfl, rfl, rfl, fun h => absurd h h13⟩

end

/-- The bytes of an atomic stand at its place (R216), and no others change. -/
theorem Acc.get_cells {a : Acc} {m : Memory} (hm : m.wf = true) {v i : Nat} (hi : i < a.size) :
    (m.setAll (a.cells (some v))).get (a.key + i) = (leBytes a.size v)[i]? := by
  have hlen : i < (leBytes a.size v).length := by rwa [leBytes_length]
  rw [List.getElem?_eq_getElem hlen]
  exact Memory.get_setAll_cells m a.key (leBytes a.size v) hm i hlen

theorem Acc.get_cells_other {a : Acc} {m : Memory} (hm : m.wf = true) {new : Option Nat} {k : Nat}
    (h : new = none ∨ k < a.key ∨ a.key + a.size ≤ k) : (m.setAll (a.cells new)).get k = m.get k := by
  refine Memory.get_setAll_other m _ k (fun d hd => ?_) hm
  cases new with
  | none => cases hd
  | some v =>
    obtain ⟨h1, h2⟩ := mem_cellsFrom hd
    rw [leBytes_length] at h2
    rcases h with h | h
    · cases h
    · omega

/-- Settles O43: the steps of the move, each with what it leaves alone. -/
theorem atomicPerforms : Obligations.AtomicPerforms := by
  unfold Obligations.AtomicPerforms
  intro s f a c w region near old arg ks int sum new hf ha hside hsize hreg hc hbank horde hrel hheld holder hstore hacc hreach hplain hsnaps hok
  have hold : leNat (s.atomBytes c.core f.scope a) = old := by
    by_cases hn : f.scope ≤ 1 ∧ a.tt = 0
    · rw [State.atomBytes_near hn]
      exact (if_pos hn).symm
    · rw [State.atomBytes_far hn]
      exact (if_neg hn).symm
  have hlt : old < 2 ^ (8 * a.size) := by
    have hbytes := leNat_lt (s.atomBytes c.core f.scope a)
    rw [State.atomBytes_length, hold] at hbytes
    rwa [pow_mul]
  have hnew : State.atomResult a old = new := State.atomResult_eq hsize hlt
  have hclean : f.orde ≠ 0 → s.Clean := fun h => (horde h).2
  have hwaits := State.atomWaits_eq_false hside hheld (fun h => (horde h).1) holder hstore hacc hreach
  have heq := State.atomPerform_eq hf ha hc hbank hwaits hreg hold hnew hclean hrel
  have hwrite := State.atomWritten_spec hsnaps hplain c.core old new
  let w1 := s.atomWritten c.core a old new
  let u := w1.cmdDone (s.cmdOf f a)
  let v := u.atomAcquired c f a
  obtain ⟨humem, huflights, hulaunches, hulines⟩ := w1.cmdDone_rest (s.cmdOf f a)
  obtain ⟨hvmem, hvflights, hvbank, hvdrops⟩ := State.atomAcquired_spec (s := u) (f := f) (a := a) (c := c)
    fun h y hy => hwrite.clean (hclean h) y (by rw [← hulines]; exact hy)
  have hmem : v.mem = s.mem.setAll (a.cells new) := hvmem.trans (humem.trans hwrite.mem)
  have hctx : u.ctxOf c = s.ctxOf c := by
    rw [State.ctxOf, State.launch?, hulaunches, hwrite.launches]
    rfl
  refine ⟨v.modFlight f.fid (Flight.answered a old v), Flight.answered a old v f, congrArg _ heq, fun x hx i hi => ?_, fun k hk => ?_,
    fun h y hy hcache => ?_, fun b h6 hb => ?_, ?_, rfl, ?_⟩
  · show v.mem.get (a.key + i) = _
    rw [hmem, hx]
    exact Acc.get_cells hok hi
  · show v.mem.get k = _
    rw [hmem]
    exact Acc.get_cells_other hok hk
  · have hacq : y.acquiredBy c.core (scopeOf f.scope) = true := by simpa [CacheLine.acquiredBy] using hcache
    have hmaps : (v.modFlight f.fid (Flight.answered a old v)).mapsOf = v.mapsOf := rfl
    rw [State.lineIn_congr hmaps, ← hctx]
    exact hvdrops h y hy hacq
  · have hcmd : s.cmdOf f a = some b := by simp [State.cmdOf, h6, hb]
    have hubank : u.coh.bank = w1.coh.bank.filter fun x => x.num != b.num := congrArg (fun cmd => (w1.cmdDone cmd).coh.bank) hcmd
    exact hvbank.trans (hubank.trans (congrArg (List.filter fun x => x.num != b.num) hwrite.bank))
  · have hflights : v.flights = s.flights := hvflights.trans (huflights.trans hwrite.flights)
    refine (find?_change_same (key := Flight.fid) (f := Flight.answered a old v) (fun x hx => hx) v.flights).trans ?_
    rw [hflights, show s.flights.find? (fun x => x.fid == f.fid) = some f from hf]
    rfl
  · simp [Flight.answered]

end Sys2Proof.Machine
end

section
/-! PROOF. A store to the job-queue window (R267, R268): the statement O20. -/

namespace Sys2Proof.Machine

/-! ### The store buffer of the state that an instruction issues from -/

/-- Noting what a translation used leaves the store buffer and the engine's queue as they were. -/
theorem State.note_queues (s : State) (c : Nat) (va : W64) : (s.note c va).coh.sb = s.coh.sb ∧ (s.note c va).coh.mq = s.coh.mq := by
  rw [State.note]
  extract_lets m coh
  have hm : m.coh.sb = s.coh.sb ∧ m.coh.mq = s.coh.mq := ⟨rfl, rfl⟩
  clear_value m
  split
  · exact ⟨rfl, rfl⟩
  · split
    · exact hm
    · split
      · exact hm
      · split <;> exact hm

theorem State.noteFold_queues (c : Nat) (l : List W64) (s : State) :
    (l.foldl (fun s va => s.note c va) s).coh.sb = s.coh.sb ∧ (l.foldl (fun s va => s.note c va) s).coh.mq = s.coh.mq := by
  induction l generalizing s with
  | nil => exact ⟨rfl, rfl⟩
  | cons va l ih =>
    obtain ⟨hsb, hmq⟩ := s.note_queues c va
    obtain ⟨isb, imq⟩ := ih (s.note c va)
    exact ⟨isb.trans hsb, imq.trans hmq⟩

/-- Recording translations changes the state of the environment alone, and of it nothing that an instruction issues with. -/
theorem Env.noteAll_spec (e : Env) (ps : List Place) (fs : List LaneFault) :
    ∃ u, e.noteAll ps fs = { e with s := u } ∧ e.s.Before u ∧ u.coh.sb = e.s.coh.sb ∧ u.coh.mq = e.s.coh.mq :=
  ⟨_, rfl, State.Before.noteAll e ps fs, State.noteFold_queues e.ctx _ e.s⟩

section
variable {s : State} {e : Env} {o : Op} {f : Form} {p : Place} {srcs : List (Src × Env.Need)}

/-- One lane's place passes the entry's own checks as another place, to which the access then goes. -/
theorem Translates.memPlan_moved {dn : Env.Need} {n : Nat} {u : Bool} {need : Access} {okTT : Nat → Bool}
    (h : Translates s e o f srcs dn n u need okTT [p]) {post : Place → Place ⊕ LaneFault} {q : Place} (hpost : post p = .inl q)
    (go : Env → List Place → Plan) : e.memPlan f srcs dn n u need okTT go post = go (e.noteAll [p, q] []) [q] := by
  have hplaces : e.resolveAll n need okTT ((e.accessLanes f u).map fun l => (l, e.addrOf f n l)) = ([p], []) := h.places
  have hinside : ∀ x ∈ (e.accessLanes f u).map fun l => (l, e.addrOf f n l), e.outsideWindow x.2 = false := h.inside
  rw [Env.memPlan, h.check]
  dsimp only
  rw [Env.windowTrap_none hinside, hplaces]
  simp only [List.map_cons, List.map_nil, hpost, List.filterMap_cons, List.filterMap_nil, List.append_nil, Env.spreadFaults_nil]
  rfl

/-- The record of a store to the job-queue window, which notes the group's buffered entries (R268). -/
def Env.windowFlight (e : Env) (o : Op) (f : Form) (sts : List SpecEntry) : Flight :=
  { e.flight o f with
    due := e.openDue, fin := .store, nf := 0, stores := sts.map fun x => { x with ord := (e.flight o f).ord }
    cmds := (e.s.coh.sb.filter fun x => x.comb == e.ref.comb && x.group == e.ref.group).map fun x => x.eid }

/-- A store to the job-queue window by a path that is no continuation issues. -/
theorem Env.issueStore_window (hk : e.fork = none) {sts : List SpecEntry} (htt : (sts.any fun x => x.tt == 5) = true) (clash : Bool) :
    e.issueStore o f srcs sts clash 0 = .go ({ e with s := e.s.spend }.issue (e.windowFlight o f sts)) := by
  have hs : e.contStalls srcs [] = false := by rw [Env.contStalls, hk]
  have hc : e.isCont = false := by rw [Env.isCont, hk]; rfl
  have hm (t : State) : e.contMarks srcs [] (e.active f.pred) clash t [] = t := by rw [Env.contMarks, hk]
  rw [Env.issueStore, hs, hc, htt]
  exact congrArg Plan.go (hm _)

/-- The place of a card word: the register of the group's card that the address names (R267). -/
def cardPlace (p : Place) : Place := { p with key := key 9 (p.va.toNat % 64) }

/-- The entry of a card word, before the store's place in program order is put in. -/
def cardEntry (e : Env) (f : Form) (p : Place) : SpecEntry :=
  { lane := p.lane, va := p.va, tt := 5, data := cellsFrom (key 9 (p.va.toNat % 64)) (leBytes 8 (e.val2 f f.s2 p.lane).toNat), reps := [0] }

theorem windowPost_card (hty : f.ty = .b64) (htt : p.tt = 5) (hoff : p.va.toNat % 64 ≤ 0x20) : windowPost e f p = .inl (cardPlace p) := by
  simp [windowPost, hty, htt, hoff, cardPlace]

theorem storeEntries_card (hty : f.ty = .b64) (htt : p.tt = 5) {reps : Nat → List Nat} (hr : reps 5 = [0]) :
    storeEntries e f [cardPlace p] reps = [cardEntry e f p] := by
  have hbytes : e.dataBytes f f.s2 (accessBytes f.ty) p.lane = leBytes 8 (e.val2 f f.s2 p.lane).toNat := by rw [hty]; rfl
  simp [storeEntries, cardPlace, htt, hbytes, entriesOf, leBytes_length, hr, cardEntry]

/-- One entry has no lane below another. -/
theorem settleLanes_single (x : SpecEntry) : settleLanes [x] = [x] := by simp [settleLanes]

/-- The plan of a store of a card word is to issue its one entry. -/
theorem storePlan_card (h : Translates s e .st f (addrNeeds f false ++ [(f.s2, accessNeed f.ty false)]) {} 8 false .write ttStore [p])
    (hty : f.ty = .b64) (htt : p.tt = 5) (hoff : p.va.toNat % 64 ≤ 0x20) {u : State}
    (hu : e.noteAll [p, cardPlace p] [] = { e with s := u }) :
    storePlan e .st f ttStore ownReplica
      = { e with s := u }.issueStore .st f (addrNeeds f false ++ [(f.s2, accessNeed f.ty false)]) [cardEntry e f p] false 0 := by
  have hsize : accessBytes f.ty = 8 := by rw [hty]; rfl
  have hentries : storeEntries { e with s := u } f [cardPlace p] (ownReplica { e with s := u }) = [cardEntry e f p] :=
    storeEntries_card hty htt rfl
  have hwindow : ((cardEntry e f p).tt == 6) = false := rfl
  rw [storePlan, hsize]
  refine (h.memPlan_moved (windowPost_card hty htt hoff) _).trans ?_
  rw [hu]
  dsimp only
  rw [hentries]
  simp only [List.filter_cons, List.filter_nil, bne, hwindow, Bool.not_false, Bool.false_eq_true, if_true, if_false, settleLanes_single,
    List.append_nil, lanesClash, List.any_nil, Bool.or_false]

end

/-- Settles O20: the place of the store becomes that of the card word, whose one entry notes the group's buffered entries. -/
theorem cardStoresIssue : Obligations.CardStoresIssue := by
  unfold Obligations.CardStoresIssue
  intro s e f p plain srcs h hty htt hoff hfork
  obtain rfl : e.s = s := env_s h.ready.env
  obtain ⟨u, hu, hbefore, hsb, -⟩ := e.noteAll_spec [p, cardPlace p] []
  refine issues_of_issue h.ready rfl (u := u.spend) (fl := { e with s := u }.windowFlight .st f [cardEntry e f p])
    ((storePlan_card h hty htt hoff hu).trans (Env.issueStore_window (e := { e with s := u }) hfork (sts := [cardEntry e f p]) rfl false))
    hbefore.spend { hbefore.record .st f with } ⟨rfl, rfl, rfl, ?_⟩
  rw [← hsb]
  rfl

end Sys2Proof.Machine
end

section
/-! PROOF. Bank commands (R282, R299): the statement O38. -/

namespace Sys2Proof.Machine

/-! ### What a performed write can change (R290) -/

/-- Of a write that reaches no host memory, the copies of host lines take nothing. -/
theorem State.hostHook_elsewhere (s : State) {data : List (Nat × Byte)} (h : ∀ d ∈ data, keyRegion d.1 ≠ 4) : s.hostHook data = s := by
  have hnil : (data.filter fun d => keyRegion d.1 == 4) = [] := List.filter_eq_nil_iff.mpr fun d hd => by simpa using h d hd
  rw [State.hostHook, hnil]

/-- While no snapshot is armed, a performed write changes memory, what is left to rebuild, continuations that track what it
writes and, of host memory, copies of lines: nothing else. -/
theorem State.performRaw_shape {s : State} (h : s.snaps = []) (passed : List (Nat × Nat)) (data : List (Nat × Byte)) :
    ∃ dev combs lines, s.performRaw passed data
        = { s with mem := s.mem.setAll data, dev := dev, combs := combs, coh := { s.coh with lines := lines } }
      ∧ ((∀ d ∈ data, keyRegion d.1 ≠ 4) → lines = s.coh.lines) := by
  obtain ⟨d, hd⟩ := s.rebuildHook_dev (data.map fun d => d.1)
  have hmirror : (s.withDev d).mirror passed data = [] := by
    rw [State.mirror, State.withDev, h]
    rfl
  let u : State := { s.withDev d with mem := s.mem.setAll data }
  have hraw : s.performRaw passed data = if data.isEmpty then u.hostHook data else (u.hostHook data).squashHook (data.map fun d => d.1) := by
    unfold State.performRaw
    dsimp only
    rw [State.snapHooks_none h, hd, hmirror]
    rfl
  obtain ⟨l, hl, -⟩ := State.hostHook_lines u data
  have hlines : (∀ d ∈ data, keyRegion d.1 ≠ 4) → l = s.coh.lines := fun hall => by
    rw [State.hostHook_elsewhere u hall] at hl
    exact (congrArg (fun t => t.coh.lines) hl).symm
  rw [hraw, hl]
  split
  · exact ⟨d, s.combs, l, rfl, hlines⟩
  · exact ⟨d, _, l, rfl, hlines⟩

/-- A performed write that meets no snapshot and no trap record is written whole. -/
theorem State.perform_shape {s : State} (h : s.snaps = []) {data : List (Nat × Byte)} (hp : ∀ d ∈ data, s.Plain d.1) :
    ∃ dev combs lines, s.perform data
        = { s with mem := s.mem.setAll data, dev := dev, combs := combs, coh := { s.coh with lines := lines } }
      ∧ ((∀ d ∈ data, keyRegion d.1 ≠ 4) → lines = s.coh.lines) := by
  rw [State.perform, State.performFor, State.masked_plain hp]
  exact State.performRaw_shape h [] data

/-- What holds of every byte of a run holds of its cells. -/
theorem forall_cellsFrom {k : Nat} {bs : List Byte} {P : Nat → Prop} (h : ∀ i < bs.length, P (k + i)) : ∀ d ∈ cellsFrom k bs, P d.1 := by
  intro d hd
  obtain ⟨h1, h2⟩ := mem_cellsFrom hd
  have := h (d.1 - k) (by omega)
  rwa [Nat.add_sub_cancel' h1] at this

/-! ### Bank commands (R282) -/

section
variable {s : State} {n : Nat} {c : BankCmd}

/-- A command that is the next of its path in its bank's queue is performed and leaves the queue (R282, R299). -/
theorem State.bankPerform_first (hc : s.cmd? n = some c) (hq : c.queued = true) (ha : c.atom = none) (hfirst : s.cmdFirst c = true)
    (op : Nat → Nat → Nat) :
    let u := s.performAt c.key (leBytes 8 (op (s.natAt c.key 8) c.a.toNat))
    s.bankPerform n c.bop op = { u with coh := { u.coh with bank := u.coh.bank.filter fun b => b.num != n } } := by
  rw [State.bankPerform, hc]
  dsimp only
  rw [if_neg (by simp [hq, ha, hfirst])]

/-- The command makes the dword at its target what its operation gives, and changes no other byte. -/
theorem State.bankPerform_spec (hc : s.cmd? n = some c) (hq : c.queued = true) (ha : c.atom = none) (hfirst : s.cmdFirst c = true)
    (hsnaps : s.snaps = []) (hok : s.MemOk) (hreg : keyRegion c.key = 0) (halign : c.key % 8 = 0) (hplain : ∀ i < 8, s.Plain (c.key + i))
    (op : Nat → Nat → Nat) {v : Nat} (hv : op (s.natAt c.key 8) c.a.toNat = v) :
    let t := s.bankPerform n c.bop op
    t.wordAt c.key = BitVec.ofNat 64 v ∧ (∀ k, k < c.key ∨ c.key + 8 ≤ k → t.mem.get k = s.mem.get k)
      ∧ t.coh.bank = s.coh.bank.filter (fun b => b.num != n) ∧ t.coh.sb = s.coh.sb ∧ t.coh.lines = s.coh.lines
      ∧ t.flights = s.flights ∧ t.jobs = s.jobs ∧ t.launches = s.launches ∧ t.ctxs = s.ctxs := by
  have hlen : (leBytes 8 v).length = 8 := leBytes_length 8 v
  have hplain' : ∀ d ∈ cellsFrom c.key (leBytes 8 v), s.Plain d.1 := forall_cellsFrom (P := s.Plain) (by rw [hlen]; exact hplain)
  have hregion : ∀ d ∈ cellsFrom c.key (leBytes 8 v), keyRegion d.1 ≠ 4 := by
    refine forall_cellsFrom (P := fun k => keyRegion k ≠ 4) fun i hi => ?_
    rw [hlen] at hi
    unfold keyRegion regionSize at *
    omega
  have hbytes := State.perform_bytesAt (bs := leBytes 8 v) hsnaps hok (by rw [hlen]; exact hplain)
  obtain ⟨dev, combs, lines, hshape, hl⟩ := State.perform_shape hsnaps hplain'
  obtain rfl := hl hregion
  intro t
  have ht : t = { s.perform (cellsFrom c.key (leBytes 8 v)) with coh := { s.coh with bank := s.coh.bank.filter fun b => b.num != n } } := by
    have h := State.bankPerform_first hc hq ha hfirst op
    rw [hv, State.performAt] at h
    refine h.trans ?_
    rw [hshape]
  have hword : t.wordAt c.key = BitVec.ofNat 64 v := by
    have hread : t.bytesAt c.key 8 = leBytes 8 v := by
      rw [hlen] at hbytes
      rw [← hbytes, ht]
      exact State.bytesAt_congr rfl rfl c.key 8
    rw [State.wordAt, State.natAt, hread, leNat_leBytes]
    exact BitVec.eq_of_toNat_eq (by simp)
  refine ⟨hword, fun k hk => ?_, ?_⟩
  · rw [ht, hshape]
    refine Memory.get_setAll_other s.mem _ k (fun d hd => ?_) hok
    obtain ⟨h1, h2⟩ := mem_cellsFrom hd
    rw [hlen] at h2
    omega
  · rw [ht, hshape]
    exact ⟨rfl, rfl, rfl, rfl, rfl, rfl, rfl⟩

end

/-- Settles O38: each command is the performed write of what its operation gives. -/
theorem bankCommandsPerform : Obligations.BankCommandsPerform := by
  unfold Obligations.BankCommandsPerform
  intro s n c o a pair sum ok hc hq ha hfirst hsnaps hok hreg halign hplain
  have hspec (i : Instr) (op : Nat → Nat → Nat) (hx : exec i s = .next (s.bankPerform n c.bop op)) : ok i (op o a) :=
    ⟨_, hx, State.bankPerform_spec hc hq ha hfirst hsnaps hok hreg halign hplain op rfl⟩
  refine ⟨fun h => ?fadd2, fun h => ?iadd2, fun h => ?iadd64, fun h => ?fmax2, fun h => ?write⟩
  case fadd2 => exact hspec (.bankFadd2 n) (State.onHalves f32Sum) (by rw [h]; rfl)
  case iadd2 => exact hspec (.bankIadd2 n) (State.onHalves fun o a => (o + a) % 2 ^ 32) (by rw [h]; rfl)
  case iadd64 => exact hspec (.bankIadd64 n) (fun o a => (o + a) % 2 ^ 64) (by rw [h]; rfl)
  case fmax2 => exact hspec (.bankFmax2 n) (State.onHalves fun o a => (fmmOp 1 .f32 o a).1) (by rw [h]; rfl)
  case write => exact hspec (.bankWrite n) (fun _ a => a) (by rw [h]; rfl)

end Sys2Proof.Machine
end

section
/-! PROOF. The acc rows and epld (R251, R262, R263): the statement O28. -/

namespace Sys2Proof.Machine

/-- The record of an instruction that enters the engine's queue. -/
def Env.engineFlight (e : Env) (o : Op) (f : Form) (ops : List W64) (accs : List Acc) : Flight :=
  { e.flight o f with fin := .engine, ops := ops, accs := accs }

/-- Its entry in the queue (R251). -/
def Env.engineEntry (e : Env) (o : Op) (f : Form) (ops : List W64) : QEntry :=
  { core := e.core, comb := e.c.id, op := o, form := f, fids := [e.s.clk.serial], ops := ops, seed := e.g.seed, frm := e.g.frm }

section
variable {s s2 : State} {e : Env} {o : Op} {f : Form} {srcs : List (Src × Env.Need)} {names : List Nat} {ops : List W64} {body : Env → Plan}

theorem Env.engineFlight_record (e : Env) (o : Op) (f : Form) (ops : List W64) (accs : List Acc) : RecordOf e o f (e.engineFlight o f ops accs) :=
  { (flight_record e o f).toRecordOf with }

/-- With room in the queue and its tiles bound the instruction issues and enters the queue. -/
theorem enginePlan_go (hq : e.s.queueFull e.core = false) (hb : e.s.bindTiles e.c.id names = .ok s2) (accs : List Acc) :
    enginePlan e o f names ops accs = .go (({ e with s := s2 }.issue (e.engineFlight o f ops accs)).enqueue (e.engineEntry o f ops)) := by
  rw [enginePlan, hq, if_neg Bool.false_ne_true, hb]
  rfl

theorem accPlan_idle (hc : e.check srcs f.dst {} = none) (ha : e.active f.pred = 0) :
    accPlan e o f srcs names ops = .go (e.issue (e.flight o f)) := by
  rw [accPlan, hc]
  exact if_pos (by simpa using ha)

theorem accPlan_active (hc : e.check srcs f.dst {} = none) (ha : e.active f.pred ≠ 0) :
    accPlan e o f srcs names ops = enginePlan e o f names ops := by
  rw [accPlan, hc]
  exact if_neg (by simpa using ha)

/-- What an instruction's plan gives is what the step leaves. -/
theorem exec_of_plan {t : State} (h : Ready s e o f) (hx : exec (Op.mk o f) s = runIsa o f s body) (hb : body e = .go t) :
    exec (Op.mk o f) s = .next t.rested := by
  rw [hx, runIsa_ready h, hb]

/-- An acc row, without an active lane and with one. -/
theorem accRow_completes (hx : exec (Op.mk o f) s = runIsa o f s body) (hb : body e = accPlan e o f srcs names ops)
    (h : Ready s e o f) (hc : e.check srcs f.dst {} = none) :
    (e.active f.pred = 0 → ∃ fl, Computes e o f fl ∧ fl.writes = [] ∧ exec (Op.mk o f) s = .next (e.issue fl).rested)
    ∧ (∀ s2, e.active f.pred ≠ 0 → s.queueFull e.core = false → s.bindTiles e.c.id names = .ok s2 → ∃ fl q,
        exec (Op.mk o f) s = .next (({ e with s := s2 }.issue fl).enqueue q).rested
        ∧ RecordOf e o f fl ∧ fl.fin = .engine ∧ fl.writes = [] ∧ fl.accs = [] ∧ fl.ops = ops
        ∧ q.core = e.core ∧ q.comb = e.c.id ∧ q.op = o ∧ q.form = f ∧ q.fids = [fl.fid] ∧ q.ops = ops) := by
  obtain rfl : e.s = s := env_s h.env
  refine ⟨fun ha => ⟨e.flight o f, flight_record e o f, rfl, exec_of_plan h hx (hb.trans (accPlan_idle hc ha))⟩, fun s2 ha hq hbind => ?_⟩
  refine ⟨e.engineFlight o f ops [], e.engineEntry o f ops, ?_, e.engineFlight_record o f ops [], ?_⟩
  · exact exec_of_plan h hx (hb.trans ((accPlan_active hc ha).trans (enginePlan_go hq hbind [])))
  · exact ⟨rfl, rfl, rfl, rfl, rfl, rfl, rfl, rfl, rfl, rfl⟩

end

/-! ### epld (R263) -/

/-- The addresses of the words of an epld. -/
def epldAddrs (e : Env) (f : Form) : List (Nat × W64) :=
  (List.range (f.immBits 6 6 + 1)).map fun i => (i, e.uni f f.s0 + BitVec.ofNat 64 (4 * i))

theorem epldAddrs_eq (e : Env) (f : Form) :
    epldAddrs e f = (List.range (f.imm.toNat / 64 % 64 + 1)).map fun i => (i, e.uni f f.s0 + BitVec.ofNat 64 (4 * i)) := by
  have hbits : f.immBits 6 6 = f.imm.toNat / 64 % 64 := by simp [Form.immBits, BitVec.extractLsb'_toNat, Nat.shiftRight_eq_div_pow]
  rw [epldAddrs, hbits]

/-- The accesses of the words of an epld. -/
def epldAccs (ps : List Place) : List Acc := ps.map fun p => { lane := p.lane, va := p.va, tt := p.tt, key := p.key, size := 4 }

theorem accsOf_words_flatten (ps : List Place) : (ps.map fun p => Env.accsOf .load 4 p 0 0).flatten = epldAccs ps := by
  induction ps with
  | nil => rfl
  | cons p ps ih =>
    rw [List.map_cons, List.flatten_cons, ih]
    rfl

/-- An epld whose words all translate issues and enters the queue, with room there. -/
theorem epld_enters {s : State} {e : Env} {f : Form} {ps : List Place} (h : Ready s e .epld f)
    (hc : e.check [(f.s0, { uniform := true })] f.dst {} = none) (ha : e.active f.pred ≠ 0)
    (hin : ∀ x ∈ epldAddrs e f, e.outsideWindow x.2 = false) (hps : e.resolveAll 4 .read ttLoad (epldAddrs e f) = (ps, []))
    (hq : s.queueFull e.core = false) :
    ∃ u, s.Before u ∧ u.coh.mq = s.coh.mq ∧ exec (.epld f) s
      = .next (({ e with s := u }.issue ({ e with s := u }.engineFlight .epld f [] (epldAccs ps))).enqueue ({ e with s := u }.engineEntry .epld f [])).rested := by
  obtain rfl : e.s = s := env_s h.env
  obtain ⟨u, hu, hbefore, -, hmq⟩ := e.noteAll_spec ps []
  have hroom : u.queueFull e.core = false := by rw [← hq, State.queueFull, State.queueFull, hmq]
  have hplan : enginePlan { e with s := u } .epld f [] [] (ps.map fun p => Env.accsOf .load 4 p 0 0).flatten
      = .go (({ e with s := u }.issue ({ e with s := u }.engineFlight .epld f [] (epldAccs ps))).enqueue ({ e with s := u }.engineEntry .epld f [])) := by
    rw [accsOf_words_flatten]
    exact enginePlan_go (e := { e with s := u }) hroom rfl _
  have hact : ¬ (e.active f.pred == 0) = true := by simpa using ha
  refine ⟨u, hbefore, hmq, exec_of_plan h rfl ?_⟩
  dsimp only
  rw [hc]
  dsimp only
  rw [if_neg hact]
  have htrap := Env.windowTrap_none hin (some (e.active f.pred))
  unfold epldAddrs at htrap hps
  rw [htrap]
  dsimp only
  rw [hps, Env.spreadFaults_nil]
  dsimp only
  rw [hu, Env.withFaults, List.isEmpty_nil, if_pos rfl]
  exact (if_neg hact).trans hplan

/-- Settles O28: each row is the model's plan of it; epld notes the translations of its words before it issues. -/
theorem accRowsComplete : Obligations.AccRowsComplete := by
  unfold Obligations.AccRowsComplete
  intro s e f act u d a sel num row
  refine ⟨accRow_completes rfl rfl, accRow_completes rfl rfl, accRow_completes rfl rfl, accRow_completes rfl rfl, accRow_completes rfl rfl,
    accRow_completes rfl rfl, accRow_completes rfl rfl, ?epld⟩
  case epld =>
    intro ps h hc ha vas hin hps hq
    rw [show vas = epldAddrs e f from (epldAddrs_eq e f).symm] at hin hps
    obtain ⟨v, hbefore, hmq, hx⟩ := epld_enters h hc ha hin hps hq
    obtain rfl : e.s = s := env_s h.env
    let e' : Env := { e with s := v }
    refine ⟨_, e'.engineFlight .epld f [] (epldAccs ps), e'.engineEntry .epld f [], hx, fun hend => ?_, { hbefore.record .epld f with }, rfl, rfl,
      rfl, rfl, rfl, rfl, rfl⟩
    have hrest := (hbefore.issue_pathsOnly h.env hend rfl rfl : (v.withFlight (e'.engineFlight .epld f [] (epldAccs ps))).PathsOnly _).rest
    obtain ⟨hflights, hmem, -⟩ := hbefore.issue_rest (fl := e'.engineFlight .epld f [] (epldAccs ps)) h.env hend rfl rfl
    refine ⟨hflights, hmem, ?_⟩
    have hqueue : (e'.issue (e'.engineFlight .epld f [] (epldAccs ps))).coh.mq = e.s.coh.mq :=
      (congrArg (fun t => t.coh.mq) hrest).trans hmq
    exact congrArg (· ++ [e'.engineEntry .epld f []]) hqueue

end Sys2Proof.Machine
end

section
/-! PROOF. mma, mmv and drain (R249 to R251, R255, R259, R266): the statement O27. -/

namespace Sys2Proof.Machine

/-! ### Latches (R249) -/

/-- How many members a GANG value names. -/
def gangSize (gang : W16) : Nat := ((List.range 16).filter fun i => gang.getLsbD i).length

theorem GangLatch.complete_of_named {l : GangLatch} (h : l.gang ≠ 0) : l.complete = decide (gangSize l.gang ≤ l.inOrder.length) := by
  rw [GangLatch.complete, if_neg (by simpa using h)]
  rfl

/-- A latch of one member has at most that one. -/
theorem GangLatch.inOrder_single {l : GangLatch} {m : Nat × Nat} (h : l.members = [m]) : l.inOrder = if m.1 < 16 then [m] else [] := by
  have hfind (i : Nat) : l.members.find? (fun x => x.1 == i) = if m.1 = i then some m else none := by
    rw [h, List.find?_singleton]
    simp
  unfold GangLatch.inOrder
  simp only [hfind]
  by_cases hm : m.1 < 16
  · rw [if_pos hm]
    interval_cases m.1 <;> rfl
  · rw [if_neg hm, List.filterMap_eq_nil_iff]
    intro i hi
    rw [if_neg (by have := List.mem_range.mp hi; omega)]

section
variable {s s2 : State} {comb : Nat} {c : Comb} {l : GangLatch} {m : Nat × Nat} {f0 : Flight} {keys : List (Nat × Nat)}

/-- A rendezvous that lacks a member does nothing yet (R249). -/
theorem State.rendezvous_incomplete (h : l.complete = false) : s.rendezvous comb l = s := by
  unfold State.rendezvous
  split
  · rfl
  · dsimp only
    split
    · rfl
    · split
      · rfl
      · rw [h]
        rfl

/-- The entry that a complete rendezvous makes (R251). -/
def State.gangEntry (c : Comb) (comb : Nat) (l : GangLatch) (m : Nat × Nat) (f0 : Flight) (keys : List (Nat × Nat)) : QEntry :=
  { core := c.core, comb := comb, op := l.op, form := l.form, fids := l.inOrder.map fun m => m.2, ops := f0.ops
    seed := ((c.group? m.1).getD {}).seed, frm := f0.frm, satf := f0.satf, keys := keys }

/-- A rendezvous whose members have all issued, whose checks pass and whose tile is bound enters the queue, and its members
go on. -/
theorem State.rendezvous_complete (hc : s.comb? comb = some c) (hm : l.inOrder.head? = some m) (hf : s.flight? m.2 = some f0)
    (hl : l.complete = true) (hq : s.queueFull c.core = false)
    (hw : s.gangWaits c l.op l.form f0.ops (l.inOrder.map fun m => m.2) = false) (hk : s.gangCheck c l.op l.form f0.ops = .ok keys)
    (hb : s.bindTiles comb (State.gangTiles l.form) = .ok s2) :
    let s3 := (s2.modComb comb fun c => { c with gangs := c.gangs.filter fun x => x != l }).enqueue (State.gangEntry c comb l m f0 keys)
    s.rendezvous comb l = l.inOrder.foldl (fun s m => s.proceed (s.memberRef comb m) m.2 (s3.asid (s3.ctxOf c)) c.core) s3 := by
  obtain ⟨ms, hms⟩ : ∃ ms, l.inOrder = m :: ms := by
    cases hi : l.inOrder with
    | nil => rw [hi] at hm; cases hm
    | cons x xs => rw [hi] at hm; cases hm; exact ⟨xs, rfl⟩
  intro s3
  have hgo : (!l.complete || s.queueFull c.core || s.gangWaits c l.op l.form f0.ops (l.inOrder.map fun m => m.2)) = false := by
    rw [hl, hq, hw]
    rfl
  simp only [s3, State.gangEntry, hms] at hgo ⊢
  unfold State.rendezvous
  rw [hc]
  dsimp only
  rw [hms]
  dsimp only
  rw [hf]
  dsimp only
  rw [hgo, if_neg Bool.false_ne_true, hk]
  dsimp only
  rw [hb]

end

/-! ### Issuing into a latch (R249, R250) -/

/-- The record of a gang instruction. -/
def Env.gangFlight (e : Env) (o : Op) (f : Form) (srcs : List Src) : Flight :=
  { e.flight o f with fin := .engine, ops := srcs.map fun x => e.uni f x }

/-- The state in which a gang instruction has issued and its path waits in its latch. -/
def Env.gangStands (e : Env) (o : Op) (f : Form) (srcs : List Src) : State :=
  ({ e.s.bump with flights := e.s.flights ++ [e.gangFlight o f srcs] }.loseOthers e.core e.gslot e.ref).modPath e.ref fun p =>
    { p with lastIssue := some e.s.clk.cycle, unchosen := 0, boosted := false, slot := e.k, wait := .gang
             endAfter := e.b.fin && e.b.lastValid e.k }

/-- The latch that the first member claims. -/
def Env.newLatch (e : Env) (o : Op) (f : Form) : GangLatch :=
  { gang := e.g.gang, op := o, form := f, members := [(e.g.gidx, e.s.clk.serial)], since := e.s.clk.cycle }

/-- A latch with a further member. -/
def GangLatch.join (l : GangLatch) (m : Nat × Nat) : GangLatch := { l with members := l.members ++ [m] }

section
variable {s : State} {e : Env} {o : Op} {f : Form} {srcs : List Src}

theorem gangPlan_idle (hc : e.check (srcs.map fun x => (x, { uniform := true })) f.dst {} = none) (ha : e.active f.pred = 0) :
    gangPlan e o f srcs = .go (e.issue (e.flight o f)) := by
  rw [gangPlan, hc]
  exact if_pos (by simpa using ha)

/-- An arm, a side path and an open dual path have no gang instruction (R250). -/
theorem gangPlan_astray (hc : e.check (srcs.map fun x => (x, { uniform := true })) f.dst {} = none) (ha : e.active f.pred ≠ 0)
    (h : e.p.kind ≠ .main ∨ e.g.dual.isSome) : gangPlan e o f srcs = .trap { code := 0x08, lanes := e.p.exm, open_ := true } := by
  rw [gangPlan, hc]
  exact (if_neg (by simpa using ha)).trans (if_pos (by simpa using h))

variable (hc : e.check (srcs.map fun x => (x, { uniform := true })) f.dst {} = none) (ha : e.active f.pred ≠ 0) (hmain : e.p.kind = .main)
  (hdual : e.g.dual = none)
include hc ha hmain hdual

/-- With no latch of its GANG value, or with GANG = 0, the group claims one. -/
theorem gangPlan_claims (h : e.g.gang = 0 ∨ ∀ l ∈ e.c.gangs, l.gang ≠ e.g.gang) :
    gangPlan e o f srcs = .go (((e.gangStands o f srcs).modComb e.c.id fun c => { c with gangs := c.gangs ++ [e.newLatch o f] }).rendezvous
      e.c.id (e.newLatch o f)) := by
  have hnone : (if e.g.gang == 0 then none else e.c.gangs.find? fun l => l.gang == e.g.gang) = none := by
    split
    · rfl
    · next hz =>
      refine List.find?_eq_none.mpr fun l hl => ?_
      have := h.resolve_left (by simpa using hz) l hl
      simpa using this
  rw [gangPlan, hc]
  refine (if_neg (by simpa using ha)).trans ((if_neg (by simp [hmain, hdual])).trans ?_)
  dsimp only
  rw [hnone]
  rfl

/-- With a latch of its GANG value the group joins it, or fails it with another word (R250). -/
theorem gangPlan_joins {l : GangLatch} (hg : e.g.gang ≠ 0) (hl : e.c.gangs.find? (fun x => x.gang == e.g.gang) = some l) :
    let l2 := l.join (e.g.gidx, e.s.clk.serial)
    let t := (e.gangStands o f srcs).modComb e.c.id fun c => { c with gangs := c.gangs.map fun x => if x == l then l2 else x }
    gangPlan e o f srcs = .go (if l.op == o && l.form == f then t.rendezvous e.c.id l2 else t.failGang e.c.id l2 0x08 none) := by
  have hsome : (if e.g.gang == 0 then none else e.c.gangs.find? fun l => l.gang == e.g.gang) = some l := by
    rw [hl]
    exact if_neg (by simpa using hg)
  intro l2 t
  rw [gangPlan, hc]
  refine (if_neg (by simpa using ha)).trans ((if_neg (by simp [hmain, hdual])).trans ?_)
  dsimp only
  rw [hsome]
  rfl

end

/-- A gang instruction runs the plan of gangs. -/
theorem exec_gang {o : Op} {srcs : List Src} {f : Form}
    (h : (o, srcs) ∈ [(Op.mma, [f.s0, f.s1]), (.mmv, [f.s0, f.s1, f.s2]), (.drain, [f.s1, f.s2])]) (s : State) :
    ∃ body, exec (Op.mk o f) s = runIsa o f s body ∧ ∀ e, body e = gangPlan e o f srcs := by
  simp only [List.mem_cons, List.not_mem_nil, or_false, Prod.mk.injEq] at h
  rcases h with ⟨rfl, rfl⟩ | ⟨rfl, rfl⟩ | ⟨rfl, rfl⟩ <;> exact ⟨_, rfl, fun _ => rfl⟩

/-- The record of a gang instruction is found under its number, which no other flight has. -/
theorem Env.flight?_gangStands (e : Env) (o : Op) (f : Form) (srcs : List Src) (h : ∀ x ∈ e.s.flights, x.fid ≠ e.s.clk.serial) :
    (e.gangStands o f srcs).flight? e.s.clk.serial = some (e.gangFlight o f srcs) := by
  have hnone : e.s.flights.find? (fun x => x.fid == e.s.clk.serial) = none :=
    List.find?_eq_none.mpr fun x hx => by simpa using h x hx
  change (e.s.flights ++ [e.gangFlight o f srcs]).find? (fun x => x.fid == e.s.clk.serial) = _
  rw [List.find?_append, hnone, List.find?_singleton]
  simp [Env.gangFlight, Env.flight]

/-- Settles O27: a gang instruction claims a latch or joins one, which does nothing until the last member completes it. -/
theorem gangRowsComplete : Obligations.GangRowsComplete := by
  unfold Obligations.GangRowsComplete
  intro s e f o srcs ops n fl latch stands joined add joins want sorted hrow hr hc
  obtain ⟨body, hx, hbody⟩ := exec_gang hrow s
  have hes : e.s = s := env_s hr.env
  have hplan {t : State} (h : gangPlan e o f srcs = .go t) : exec (Op.mk o f) s = .next t.rested := exec_of_plan hr hx ((hbody e).trans h)
  have hstands : e.gangStands o f srcs = stands := by rw [Env.gangStands, hes]; rfl
  have hlatch : e.newLatch o f = latch := by rw [Env.newLatch, hes]
  refine ⟨?idle, ?claims, ?joins, ?alone, ?astray⟩
  case idle => exact fun ha => ⟨e.flight o f, flight_record e o f, rfl, hplan (gangPlan_idle hc ha)⟩
  case claims =>
    intro ha hmain hdual hgang hfree hwant
    have hcomplete : latch.complete = false := by
      have hone : latch.inOrder.length ≤ 1 := by
        rw [GangLatch.inOrder_single (l := latch) rfl]
        split <;> simp
      rw [GangLatch.complete_of_named (l := latch) hgang, decide_eq_false_iff_not]
      exact fun h => absurd (hwant.trans (h.trans hone)) (by decide)
    have h := gangPlan_claims (o := o) hc ha hmain hdual (.inr hfree)
    rw [hstands, hlatch, State.rendezvous_incomplete hcomplete] at h
    exact hplan h
  case joins =>
    intro l ha hmain hdual hgang hl
    have h := gangPlan_joins (o := o) hc ha hmain hdual hgang hl
    rw [hstands, hes] at h
    have hsame (hop : l.op = o) (hf : l.form = f) : gangPlan e o f srcs = .go ((joins l).rendezvous e.c.id (add l)) :=
      h.trans (congrArg Plan.go (if_pos (by simp [hop, hf])))
    have hcomplete (hg : l.gang = e.g.gang) : (add l).complete = decide (want ≤ (sorted l).length) := by
      rw [GangLatch.complete_of_named (l := add l) (by rw [show (add l).gang = l.gang from rfl, hg]; exact hgang)]
      rw [show (add l).gang = e.g.gang from hg]
      rfl
    refine ⟨fun hne => ?differs, fun hop hf hg hlt => ?waits, ?last⟩
    case differs =>
      have hdiff : ¬ (l.op == o && l.form == f) = true := by
        rw [Bool.and_eq_true, beq_iff_eq, beq_iff_eq]
        exact not_and_or.mpr hne
      exact hplan (h.trans (congrArg Plan.go (if_neg hdiff)))
    case waits =>
      have hshort : (add l).complete = false := by rw [hcomplete hg]; exact decide_eq_false (by omega)
      have hgo := hsame hop hf
      rw [State.rendezvous_incomplete hshort] at hgo
      exact hplan hgo
    case last =>
      intro m f0 keys s2 c2 hop hf hg hle hm hflight hcomb hroom hwaits hcheck hbind
      have hfull : (add l).complete = true := by rw [hcomplete hg]; exact decide_eq_true hle
      subst hop hf
      have hdone := State.rendezvous_complete (l := add l) hcomb hm hflight hfull hroom hwaits hcheck hbind
      have hgo := hsame rfl rfl
      rw [hdone] at hgo
      exact ⟨State.gangEntry c2 e.c.id (add l) m f0 keys, rfl, rfl, rfl, rfl, rfl, rfl, rfl, rfl, rfl, rfl, rfl, _, rfl, hplan hgo⟩
  case alone =>
    intro keys s2 c2 ha hmain hdual hgang hidx hfresh hcomb hroom hwaits hcheck hbind
    have horder : latch.inOrder = [(e.g.gidx, n)] := (GangLatch.inOrder_single (l := latch) rfl).trans (if_pos hidx)
    have hfull : latch.complete = true := by
      rw [GangLatch.complete, if_pos (by simp [latch, hgang]), horder]
      rfl
    have hflight : joined.flight? n = some fl := by
      have h := e.flight?_gangStands o f srcs (by rw [hes]; exact hfresh)
      rw [hstands, hes] at h
      exact h
    have hdone := State.rendezvous_complete (l := latch) (m := (e.g.gidx, n)) hcomb (by rw [horder]; rfl) hflight hfull hroom
      (by rw [horder]; exact hwaits) hcheck hbind
    have h := gangPlan_claims (o := o) hc ha hmain hdual (.inl hgang)
    rw [hstands, hlatch, hdone, horder] at h
    exact ⟨State.gangEntry c2 e.c.id latch (e.g.gidx, n) fl keys, rfl, rfl, rfl, rfl, by rw [State.gangEntry, horder]; rfl, rfl, rfl, rfl, rfl, rfl,
      _, rfl, hplan h⟩
  case astray =>
    intro ha hother hfork
    refine ⟨{ code := 0x08, lanes := e.p.exm, open_ := true }, rfl, rfl, ?_⟩
    rw [exec_of_trap hr hx ((hbody e).trans (gangPlan_astray hc ha hother)), Env.raise_of_noFork hr.env hfork]

end Sys2Proof.Machine
end

section
/-! PROOF. Collective jobs, hops of packets and reduction slots (R284, R333 to R342): the statement O56. -/

namespace Sys2Proof.Machine

/-! ### What telling a verdict leaves unchanged -/

/-- A state that differs from another in jobs and in what the spire says to other devices only. -/
structure State.SameSlots (s t : State) : Prop where
  dev : t.dev = s.dev
  slots : t.spire.slots = s.spire.slots

theorem State.SameSlots.trans {s t u : State} (h : s.SameSlots t) (k : t.SameSlots u) : s.SameSlots u :=
  ⟨k.dev.trans h.dev, k.slots.trans h.slots⟩

theorem State.modJob_sameSlots (s : State) (n : Nat) (f : Job → Job) : s.SameSlots (s.modJob n f) := ⟨rfl, rfl⟩

theorem State.modColl_sameSlots (s : State) (n : Nat) (f : Coll → Coll) : s.SameSlots (s.modColl n f) := s.modJob_sameSlots n _

theorem State.foldl_sameSlots {α : Type} {f : State → α → State} (hf : ∀ (s : State) (a : α), s.SameSlots (f s a)) (l : List α) (s : State) :
    s.SameSlots (l.foldl f s) := by
  induction l generalizing s with
  | nil => exact ⟨rfl, rfl⟩
  | cons a l ih => exact (hf s a).trans (ih (f s a))

theorem State.tellOwn_sameSlots (s : State) (p : Packet) (v : Verdict) : s.SameSlots (s.tellOwn p v) :=
  State.foldl_sameSlots (fun s _ => s.modColl_sameSlots _ _) _ s

/-- A job of a packet hears its verdict. -/
def State.tellOwner (p : Packet) (v : Verdict) (s : State) (n : Nat) : State :=
  match State.verdictFail v with
  | some code => (s.modColl n fun c => { c with here := c.here - 1 }).failChunks n (code, 0) [p.chunk]
  | none => s.modColl n fun c => { c with here := c.here - 1 }

theorem State.tellOwner_sameSlots (p : Packet) (v : Verdict) (s : State) (n : Nat) : s.SameSlots (s.tellOwner p v n) := by
  unfold State.tellOwner
  cases State.verdictFail v with
  | none => exact s.modColl_sameSlots _ _
  | some code => exact (s.modColl_sameSlots _ _).trans (State.modColl_sameSlots _ _ _)

/-- Who hears a verdict: the packet's jobs, or this device's, or another device. -/
theorem State.tell_eq (s : State) (p : Packet) (v : Verdict) :
    s.tell p v = (let t := p.owners.foldl (State.tellOwner p v) s
      if !p.owners.isEmpty then t
      else if p.src == t.dev.devid.toNat then t.tellOwn p v
      else if t.dev.poden then t.modSpire fun x => { x with verdicts := (p, v) :: x.verdicts }
      else t.modSpire fun x => { x with verdHeld := x.verdHeld ++ [(p, v)] }) := rfl

/-- A verdict leaves the registers and the slots as they are. -/
theorem State.tell_sameSlots (s : State) (p : Packet) (v : Verdict) : s.SameSlots (s.tell p v) := by
  have h := State.foldl_sameSlots (State.tellOwner_sameSlots p v) p.owners s
  rw [State.tell_eq]
  dsimp only
  split
  · exact h
  · split
    · exact h.trans (State.tellOwn_sameSlots _ p v)
    · split <;> exact h.trans ⟨rfl, rfl⟩

/-- A late packet is counted, and no slot changes (R339). -/
theorem State.lateDrop_counts (s : State) (p : Packet) :
    (s.lateDrop p).dev.latecnt = s.dev.latecnt + 1 ∧ (s.lateDrop p).spire.slots = s.spire.slots := by
  have h : ∀ u : State, u.dev.latecnt = s.dev.latecnt + 1 → u.spire.slots = s.spire.slots →
      (u.tell p .late).dev.latecnt = s.dev.latecnt + 1 ∧ (u.tell p .late).spire.slots = s.spire.slots := fun u hd hs =>
    ⟨by rw [(u.tell_sameSlots p .late).dev, hd], by rw [(u.tell_sameSlots p .late).slots, hs]⟩
  exact h _ rfl rfl

/-! ### A collective job that starts -/

theorem State.job?_modJob (s : State) (n : Nat) {f : Job → Job} (hf : ∀ j, j.num = n → (f j).num = n) :
    (s.modJob n f).job? n = (s.job? n).map f :=
  find?_change_same (key := Job.num) hf s.jobs

/-- A job whose result is decided contributes nothing more. -/
theorem State.contributeLate_decideJob (s : State) (n code op : Nat) : (s.decideJob n code 0).contributeLate n op = s.decideJob n code 0 := by
  have h : (s.decideJob n code 0).job? n = (s.job? n).map fun j => { j with phase := .ending code 0 } := s.job?_modJob n fun _ h => h
  unfold State.contributeLate
  rw [h]
  cases s.job? n <;> rfl

/-- The pages that a collective job's start makes present: those of its peer list, and of OP 4 those of its route block. -/
def State.collSource (s : State) (j : Job) (d : CDesc) (op : Nat) : Source :=
  let x := s.readPlain j false d.peers (2 * d.p)
  if op = 4 then x.s.readPlain j false d.route 32 else { s := x.s }

/-- The device ids of its peer list. -/
def State.collPeers (s : State) (j : Job) (d : CDesc) : List Nat :=
  let bs := ((s.placeView (hiveOf j.core)).readPlain j false d.peers (2 * d.p)).bytes
  (List.range d.p).map fun i => leNat ((bs.drop (2 * i)).take 2)

/-- Its route block, of OP 4. -/
def State.collBlock (s : State) (j : Job) (d : CDesc) (op : Nat) : List Byte :=
  if op = 4 then ((s.placeView (hiveOf j.core)).readPlain j false d.route 32).bytes else []

/-- How often a peer list names a device. -/
def timesIn (peers : List Nat) (e : Nat) : Nat := (peers.filter fun x => x == e).length

/-- A collective job that runs. -/
def Job.collBegun (j : Job) (c : Coll) (op me : Nat) (peers : List Nat) (block : List Byte) : Job :=
  let d := cDesc c.desc
  let hops := routeHops block
  let expect := if op = 4 then wBits (dwordAt block 0) 16 16 else if op ≤ 1 then d.p else 0
  let want := op != 4 || hops.any fun h => (h.1 == 2 || h.1 == 3) && h.2 == me
  let route := if op = 4 then (if expect = 0 then hops else hops.tail) else if op ≤ 1 then [(2, me)] else []
  { j with phase := .running, owed := if want then j.owed else 0
           coll := some { c with peers := peers, expect := expect, chunks := collChunks j.card d, want := want, route := route } }

section
variable {s : State} {n op : Nat} {j : Job} {c : Coll}

theorem State.startColl_busy (hj : s.startable n 4 op = some j) (hc : j.coll = some c) (hb : s.persBusy j (cDesc c.desc) = true) :
    s.startColl n op = s.decideJob n 0x1B 0 := by
  simp only [State.startColl, hj, hc]
  exact if_pos hb

/-- The checks of a collective job that starts, and the job that passes them. -/
theorem State.startColl_checks (hj : s.startable n 4 op = some j) (hc : j.coll = some c) (hb : s.persBusy j (cDesc c.desc) = false)
    (hx : (s.readPlain j false (cDesc c.desc).peers (2 * (cDesc c.desc).p)).fail = none) (hy : (s.collSource j (cDesc c.desc) op).fail = none) :
    s.startColl n op = (let d := cDesc c.desc
      let t := (s.collSource j d op).s
      let peers := t.collPeers j d
      let j1 := j.collBegun c op s.dev.devid.toNat peers (t.collBlock j d op)
      if op = 4 && !routeOk (t.collBlock j d op) s.dev.devid.toNat then t.decideJob n 0x13 0
      else if timesIn peers s.dev.devid.toNat = 0 || !(peers.all fun e => timesIn peers e ≤ 4) || !State.inARow peers || s.hiveTaken j d
        then t.decideJob n 0x14 0
      else ((t.modJob n fun _ => j1).armSlots j1).contribute j1) := by
  have hfail : ((s.readPlain j false (cDesc c.desc).peers (2 * (cDesc c.desc).p)).fail.orElse fun _ =>
      (s.collSource j (cDesc c.desc) op).fail) = none := by rw [hx, hy]; rfl
  simp only [State.startColl, hj, hc]
  rw [if_neg (by rw [hb]; exact Bool.false_ne_true)]
  split
  · rename_i h
    exact absurd (hfail.symm.trans h) nofun
  · rename_i h
    exact absurd (hfail.symm.trans h) nofun
  · rfl

section
variable {i : Instr} (hj : s.startable n 4 op = some j) (hc : j.coll = some c) (hi : exec i s = .next ((s.startColl n op).contributeLate n op))
include hj hc hi

theorem collective_busy (hb : s.persBusy j (cDesc c.desc) = true) : exec i s = .next (s.decideJob n 0x1B 0) := by
  rw [hi, State.startColl_busy hj hc hb, State.contributeLate_decideJob]

variable (hb : s.persBusy j (cDesc c.desc) = false)
  (hx : (s.readPlain j false (cDesc c.desc).peers (2 * (cDesc c.desc).p)).fail = none) (hy : (s.collSource j (cDesc c.desc) op).fail = none)
include hb hx hy

/-- A route block that breaks R338. -/
theorem collective_badRoute (h4 : op = 4)
    (hr : routeOk ((s.collSource j (cDesc c.desc) op).s.collBlock j (cDesc c.desc) op) s.dev.devid.toNat = false) :
    exec i s = .next ((s.collSource j (cDesc c.desc) op).s.decideJob n 0x13 0) := by
  rw [hi, State.startColl_checks hj hc hb hx hy]
  dsimp only
  rw [if_pos (by rw [hr]; simpa using h4), State.contributeLate_decideJob]

variable (hr : op = 4 → routeOk ((s.collSource j (cDesc c.desc) op).s.collBlock j (cDesc c.desc) op) s.dev.devid.toNat = true)
include hr

/-- A peer list or a second job of the hive that breaks R337. -/
theorem collective_badPeers
    (hp : (timesIn ((s.collSource j (cDesc c.desc) op).s.collPeers j (cDesc c.desc)) s.dev.devid.toNat = 0
        ∨ ∃ e ∈ (s.collSource j (cDesc c.desc) op).s.collPeers j (cDesc c.desc),
            4 < timesIn ((s.collSource j (cDesc c.desc) op).s.collPeers j (cDesc c.desc)) e)
      ∨ State.inARow ((s.collSource j (cDesc c.desc) op).s.collPeers j (cDesc c.desc)) = false ∨ s.hiveTaken j (cDesc c.desc) = true) :
    exec i s = .next ((s.collSource j (cDesc c.desc) op).s.decideJob n 0x14 0) := by
  rw [hi, State.startColl_checks hj hc hb hx hy]
  dsimp only
  rw [if_neg (by simpa using hr), if_pos, State.contributeLate_decideJob]
  simp only [Bool.or_eq_true, decide_eq_true_eq, Bool.not_eq_true', List.all_eq_false, Nat.not_le]
  exact or_assoc.mpr hp

/-- A job that keeps the rules runs and contributes. -/
theorem collective_runs
    (h0 : timesIn ((s.collSource j (cDesc c.desc) op).s.collPeers j (cDesc c.desc)) s.dev.devid.toNat ≠ 0)
    (h4 : ∀ e ∈ (s.collSource j (cDesc c.desc) op).s.collPeers j (cDesc c.desc),
      timesIn ((s.collSource j (cDesc c.desc) op).s.collPeers j (cDesc c.desc)) e ≤ 4)
    (ha : State.inARow ((s.collSource j (cDesc c.desc) op).s.collPeers j (cDesc c.desc)) = true) (ht : s.hiveTaken j (cDesc c.desc) = false) :
    exec i s = .next (
      let t := (s.collSource j (cDesc c.desc) op).s
      let j1 := j.collBegun c op s.dev.devid.toNat (t.collPeers j (cDesc c.desc)) (t.collBlock j (cDesc c.desc) op)
      (((t.modJob n fun _ => j1).armSlots j1).contribute j1).contributeLate n op) := by
  rw [hi, State.startColl_checks hj hc hb hx hy]
  dsimp only
  rw [if_neg (by simpa using hr), if_neg]
  simp only [Bool.or_eq_true, decide_eq_true_eq, Bool.not_eq_true', List.all_eq_false, Nat.not_le, ha, ht, h0]
  simpa using h4

end

/-- The collective instructions start a job of their operation. -/
theorem exec_collective {i : Instr} (s : State)
    (hi : (op, i) ∈ [(0, Instr.allReduce n), (1, .reduceScatter n), (2, .allGather n), (3, .broadcast n), (4, .inHopReduction n)]) :
    exec i s = .next ((s.startColl n op).contributeLate n op) := by
  simp only [List.mem_cons, Prod.mk.injEq, List.not_mem_nil, or_false] at hi
  obtain ⟨rfl, rfl⟩ | ⟨rfl, rfl⟩ | ⟨rfl, rfl⟩ | ⟨rfl, rfl⟩ | ⟨rfl, rfl⟩ := hi <;> rfl

end

/-! ### Hops -/

section
variable {s : State} {p : Packet} {o : Nat} {rest : List (Nat × Nat)}

/-- A packet of this device at its hop: its hop is popped and acted on (R334). -/
theorem State.arrival_own (hp : p ∈ s.spire.loc) (hh : p.hops = (o, s.dev.devid.toNat) :: rest) (hn : p.nhop ≠ 0)
    {ops : Nat → Bool} (ho : ops o = true) (act : State → Packet → Packet → State) :
    s.arrival p ops act = act (s.modSpire fun x => { x with loc := x.loc.erase p }) p { p with hops := rest, nhop := p.nhop - 1 } := by
  unfold State.arrival
  simp only [List.contains_iff_mem, hp, if_true, hh]
  rw [if_neg (by simp [hn]), if_pos ho]

/-- A packet with no hop left is refused. -/
theorem State.sendOn_ends (s : State) (q : Packet) (h : q.hops = [] ∨ q.nhop = 0) : s.sendOn q = s.tell q .refused := by
  unfold State.sendOn
  split
  · rfl
  · rename_i hq
    exact if_pos (h.resolve_left (by simp [hq]))

/-- A hop at this device crosses no link (R333). -/
theorem State.sendOn_here (s : State) (q : Packet) {r : List (Nat × Nat)} (h : q.hops = (o, s.dev.devid.toNat) :: r) (hn : q.nhop ≠ 0) :
    s.sendOn q = s.modSpire fun x => { x with loc := x.loc ++ [q] } := by
  simp [State.sendOn, h, hn]

/-- A packet whose slot has expired is late (R339). -/
theorem State.enterSlot_expired (s : State) (w q : Packet) (hz : s.slotFor q = none)
    (he : s.spire.expired.contains (State.slotKey q.cid q.step q.chunk q.pers) = true) : s.enterSlot w q = s.lateDrop q := by
  simp only [State.enterSlot, hz]
  exact if_pos he

/-- A packet of an earlier step than its slot's is late (R341). -/
theorem State.enterSlot_earlier (s : State) (w q : Packet) {z : Slot} (hz : s.slotFor q = some z) (hs : q.step < z.step) :
    s.enterSlot w q = s.lateDrop q := by
  simp only [State.enterSlot, hz]
  rw [if_neg (by simp; omega), if_pos hs]

/-- The first packet of a key is held in a new slot until the slot's EXPECT is known (R335, R339). -/
theorem State.enterSlot_first (s : State) (w q : Packet) (he : s.spire.expired.contains (State.slotKey q.cid q.step q.chunk q.pers) = false)
    (hs : s.spire.slots = []) (hg : s.giver q.cid q.step = none) :
    (s.enterSlot w q).spire.slots = [{ num := s.clk.serial, cid := q.cid, step := q.step, chunk := q.chunk, pers := q.pers
                                       born := s.clk.cycle, held := [q] }] := by
  have hz : s.slotFor q = none := by simp [State.slotFor, hs]
  simp only [State.enterSlot, hz]
  rw [if_neg (by rw [he]; exact Bool.false_ne_true), if_neg (by simp [hs])]
  simp [State.newSlot, hg, State.joinSlot, State.modSlot, State.modSpire, State.bump, hs]

/-- A payload that finds no job is refused (R334). -/
theorem State.deliver_noJob (s : State) (w q : Packet) (on : Bool) (h : s.jobsFor q = []) : s.deliver w q on = s.tell q .refused := by
  simp [State.deliver, h]

/-- A payload waits for a job that has not started (R271, R334). -/
theorem State.deliver_waits (s : State) (w q : Packet) (on : Bool) (hj : s.jobsFor q ≠ []) (hw : s.deliveryWaits q (s.jobsFor q) = true) :
    s.deliver w q on = s.modSpire fun x => { x with waiting := x.waiting ++ [w] } := by
  unfold State.deliver
  split
  · contradiction
  · exact if_pos hw

/-- A payload is delivered to the one job of its CID and STEP that runs, and sent on when the hop says so. -/
theorem State.deliver_runs (s : State) (w q : Packet) (on : Bool) {j : Job} (hj : s.jobsFor q = [j]) (hw : s.deliveryWaits q [j] = false)
    (hr : j.phase = .running) :
    s.deliver w q on = if on then (s.deliverTo q j).sendOn q else (s.deliverTo q j).tell q .delivered := by
  simp only [State.deliver, hj]
  rw [if_neg (by rw [hw]; exact Bool.false_ne_true)]
  simp [hr]

end

/-! ### A slot whose time is up -/

/-- A slot whose time is up gives its partial result (R339). -/
theorem State.expireSlot_due {s : State} {n e m : Nat} {x : Slot} (hx : s.spire.slots.find? (fun y => y.num == n) = some x)
    (he : x.expect = some e) (hm : x.job = some m)
    (ht : x.born + 1500 * (if x.tmo = 0 then s.dev.tmodef.toNat else x.tmo) ≤ s.clk.cycle) :
    s.expireSlot n = (((s.freeSlot x).expireKey x).writeMiss m (State.absentRanks x.ranks x.packs)).slotResult x true := by
  simp only [State.expireSlot, hx, he, hm]
  exact if_neg (by simpa using ht)

/-- Freeing a slot leaves the keys that have expired. -/
theorem State.freeSlot_expired (s : State) (x : Slot) : (s.freeSlot x).spire.expired = s.spire.expired := by
  unfold State.freeSlot
  split <;> rfl

/-- Settles O56: the start of a collective job check by check, a packet at its hop by HOPOP, and a slot's expiry. -/
theorem collectivesAndHops : Obligations.CollectivesAndHops := by
  unfold Obligations.CollectivesAndHops
  intro s me
  refine ⟨?starts, ?hops, ?expiry⟩
  case starts =>
    intro n j c op i hj hc hmem d ends x y v xb yb peers times hops
    have hi := exec_collective s hmem
    refine ⟨collective_busy hj hc hi, fun hb hx hy => ⟨collective_badRoute hj hc hi hb hx hy, fun hr => ⟨fun hp => ?_, fun hp => ?_, ?_⟩⟩⟩
    · exact collective_badPeers hj hc hi hb hx hy hr (.inl hp)
    · exact collective_badPeers hj hc hi hb hx hy hr (.inr hp)
    · exact collective_runs hj hc hi hb hx hy hr
  case hops =>
    intro p o rest hp hh hn q s1 late
    have harr := fun (ops : Nat → Bool) (ho : ops o = true) act => State.arrival_own hp hh hn ho act
    refine ⟨fun ho => ⟨?_, ?_, ?_⟩, fun ho => ⟨?_, ?_, ?_, ?_⟩, fun ho => ⟨?_, ?_, ?_, ?_⟩, fun ho => ⟨?_, ?_⟩, fun ho => ?_⟩
    · exact congrArg Host.Outcome.next (harr _ (by simpa using ho) _)
    · exact s1.sendOn_ends q
    · exact fun o2 r2 hr hq => s1.sendOn_here q hr hq
    · exact congrArg Host.Outcome.next (harr _ (by simpa using ho) _)
    · intro hz hl
      rw [s1.enterSlot_expired p q hz hl]
      exact s1.lateDrop_counts q
    · intro z hz hs
      rw [s1.enterSlot_earlier p q hz hs]
      exact s1.lateDrop_counts q
    · exact s1.enterSlot_first p q
    · exact congrArg Host.Outcome.next (harr _ (by simpa using ho) _)
    · exact s1.deliver_noJob p q false
    · rintro _ rfl hne hw
      exact s1.deliver_waits p q false hne hw
    · exact fun j hj hw hr => s1.deliver_runs p q false hj hw hr
    · exact congrArg Host.Outcome.next (harr _ (by simpa using ho) _)
    · exact fun j hj hw hr => s1.deliver_runs p q true hj hw hr
    · exact congrArg Host.Outcome.next (harr _ (by simpa using ho) _)
  case expiry =>
    intro n x e m hx he hm ht
    refine ⟨congrArg Host.Outcome.next (State.expireSlot_due hx he hm ht), ?_, fun hnone => ?_⟩
    · exact congrArg (fun l => (State.slotKey x.cid x.step x.chunk x.pers :: l).take 512) (s.freeSlot_expired x)
    · have hnum : x.num = n := by simpa using List.find?_some hx
      simp only [State.freeSlot, hnone, State.expireKey, State.modSpire, hnum]

end Sys2Proof.Machine
end

section
/-! PROOF. The gang timeout and the matrix engine's queue: the statement O53, which fails where a weight read waits for an
older bank command (R245, R299). -/

namespace Sys2Proof.Machine

section
variable {s : State} {q : QEntry} {f : Flight} {b : BankCmd} {k : Nat}

/-- A member's older bank command in a line's queue is ahead of it (R245). -/
theorem State.bankAhead_of_queued (hb : b ∈ s.coh.bank) (hc : b.comb = f.comb) (hg : b.group = f.group) (ho : b.ord.before f.ord = true)
    (hk : b.key = k) : s.bankAhead f.comb f.group f.ord (s.queueOf k) = true := by
  have h : (s.coh.bank.any fun b => b.comb == f.comb && b.group == f.group && b.ord.before f.ord && s.queueOf b.key == s.queueOf k) = true :=
    List.any_eq_true.mpr ⟨b, hb, by simp [hc, hg, ho, hk]⟩
  simp only [State.bankAhead, h, Bool.true_or]

/-- A weight read waits for such a command (R299). -/
theorem State.weightHeld_of_bankAhead (hr : keyRegion k = 0) (hq : f.fid ∈ q.fids) (hf : s.flight? f.fid = some f)
    (hb : s.bankAhead f.comb f.group f.ord (s.queueOf k) = true) : s.weightHeld q k = true := by
  simp only [State.weightHeld, hr, beq_self_eq_true, Bool.true_and]
  exact Bool.or_eq_true_iff.mpr (.inr (List.any_eq_true.mpr ⟨f.fid, hq, by rw [hf]; exact hb⟩))

/-- Then the engine reads nothing. -/
theorem State.matrixAdvance_held {core : Nat} {c : Comb} (hq : (s.coh.mq.find? fun q => q.core == core) = some q)
    (hc : s.comb? q.comb = some c) (ho : q.out = none) (ht : q.todo = some [[k]]) (hw : s.weightHeld q (lineKey k) = true) :
    s.matrixAdvance core = s.spend := by
  have hpick : (([[k]] : List (List Nat))[Config.freePick s.clk.free % 1]?).getD [] = [k] := by rw [Nat.mod_one]; rfl
  simp only [State.matrixAdvance, hq, hc, ho, ht, List.length_singleton]
  rw [hpick, if_pos]
  exact List.any_eq_true.mpr ⟨lineKey k, by simp, hw⟩

end

/-! ### An mmv whose weight line an older bank command of its path still has to change -/

/-- The mmv of comb 1, group 0. -/
def heldMmvFlight : Flight := { fid := 7, comb := 1, group := 0, path := 0, op := .mmv, fin := .engine, ord := { sid := 0, pos := 1 } }

/-- Its entry, which still has to read the line at 0 of a tower. -/
def heldMmv : QEntry := { core := 0, comb := 1, op := .mmv, form := {}, fids := [7], keys := [(0, 128)], todo := some [[0]] }

/-- The bank command that the path issued before the mmv, to the same line. -/
def olderCommand : BankCmd := { num := 5, comb := 1, group := 0, ord := { sid := 0, pos := 0 }, key := 0, queued := true }

def heldMmvState : State :=
  { State.reset with
    combs := [{ id := 1, launch := 1 }]
    flights := [heldMmvFlight]
    coh := { State.reset.coh with mq := [heldMmv], bank := [olderCommand] } }

/-- The entry waits. -/
theorem heldMmv_waits : exec (.matrixQueueAdvance 0) heldMmvState = .next heldMmvState.spend := by
  have hb : heldMmvState.bankAhead 1 0 heldMmvFlight.ord (heldMmvState.queueOf 0) = true :=
    State.bankAhead_of_queued (f := heldMmvFlight) (b := olderCommand) (List.mem_singleton.mpr rfl) rfl rfl (by decide) rfl
  have hw : heldMmvState.weightHeld heldMmv 0 = true :=
    State.weightHeld_of_bankAhead (f := heldMmvFlight) (by decide) (List.mem_singleton.mpr rfl) rfl hb
  exact congrArg Host.Outcome.next (State.matrixAdvance_held (q := heldMmv) (k := 0) rfl rfl rfl rfl hw)

/-- Refutes O53: in `heldMmvState` the engine does not read the unit that its entry has still to read, although no line of it is
being rebuilt: the weight read waits for an older bank command of the path in the line's queue (R245, R299), and the clause on
reading asks for no such command's absence. -/
theorem not_matrixEvents : ¬ Obligations.MatrixEvents := by
  unfold Obligations.MatrixEvents
  intro h
  obtain ⟨-, hqueue, -⟩ := h heldMmvState { id := 1, launch := 1 } rfl
  obtain ⟨-, -, hread, -⟩ := hqueue heldMmv rfl rfl
  obtain ⟨u, hu, hadv⟩ := hread [[0]] rfl rfl (by decide) (by decide)
  obtain rfl : u = [0] := List.mem_singleton.mp hu
  have hsame := Host.Outcome.next.inj (heldMmv_waits.symm.trans hadv)
  have htodo : heldMmvState.spend.coh.mq.map QEntry.todo = [some []] := by rw [hsame]; rfl
  exact absurd htodo (by decide)

end Sys2Proof.Machine
end

section
/-! PROOF. What the engines' jobs do: the statement O55, which fails where a state holds two jobs of one number. -/

namespace Sys2Proof.Machine

/-! ### A fill job that starts, and a second job of its number with a source line -/

/-- A bank-unit fill of no bytes (R283). -/
def emptyFill : Job := { num := 1, ctx := 0, asid := 0, launch := 1, comb := 0, core := 0, group := 0, card := [0x3300000000000000, 0, 0, 0] }

/-- The first line of the scratchpad aperture of a context after reset (R208). -/
def apertureLine : Nat := 0xFFFFFFF * 2 ^ 21

/-- A job of the same number whose source footprint is that line. -/
def emptyFillTwin : Job := { emptyFill with src := [(apertureLine, apertureLine + 1)] }

def twoFills : State := { State.reset with launches := [{ num := 1, ctx := 0 }], jobs := [emptyFill, emptyFillTwin] }

theorem twoFills_startable : twoFills.startable 1 3 3 = some emptyFill := by decide

theorem twoFills_noReading : twoFills.readingJob 1 3 3 = none := by decide

/-- The fill moves no bytes and translates nothing. -/
theorem fillWork_empty : (fillWork twoFills emptyFill).s = twoFills ∧ (fillWork twoFills emptyFill).fail = none := ⟨rfl, rfl⟩

theorem fillWork_runs : State.waitsForPage (fillWork twoFills emptyFill) = false := by
  rw [State.waitsForPage, fillWork_empty.2]

/-- Starting job 1 gives each job of that number its own lines to read (R300). -/
theorem twoFills_start : exec (.bankFill 1) twoFills
    = .next (twoFills.modJob 1 fun q => { q with phase := .reading (twoFills.sourceLines q) }) := by
  change Host.Outcome.next (twoFills.startJob 1 3 3 fillWork) = _
  simp only [State.startJob, twoFills_noReading, twoFills_startable, fillWork_runs, fillWork_empty.1, Bool.false_eq_true, if_false]

theorem twoFills_lines : twoFills.sourceLines emptyFill = [] ∧ twoFills.sourceLines emptyFillTwin = [kScratch 0 0] := by decide

/-- Refutes O55: the clause on the start gives every job of the started number the source lines of the first one, and nothing in
the statement says that the numbers differ. In `twoFills` the second job of number 1 has a line of its own to read. -/
theorem not_engineJobs : ¬ Obligations.EngineJobs := by
  unfold Obligations.EngineJobs
  intro h
  obtain ⟨hjobs, -⟩ := h twoFills 1 emptyFill
  obtain ⟨hstart, -⟩ := hjobs (.bankFill 1, 3, 3, fillWork) (by simp)
  have hclaim := (hstart twoFills_startable).2 fillWork_runs
  dsimp only at hclaim
  rw [twoFills_start, fillWork_empty.1, twoFills_lines.1] at hclaim
  have hphases := congrArg (fun t : State => t.jobs.map Job.phase) (Host.Outcome.next.inj hclaim)
  have hactual : (twoFills.modJob 1 fun q => { q with phase := .reading (twoFills.sourceLines q) }).jobs.map Job.phase
      = [.reading (twoFills.sourceLines emptyFill), .reading (twoFills.sourceLines emptyFillTwin)] := rfl
  have hclaimed : (twoFills.modJob 1 fun q => { q with phase := .reading [] }).jobs.map Job.phase = [.reading [], .reading []] := rfl
  rw [hactual, hclaimed, twoFills_lines.1, twoFills_lines.2] at hphases
  simp at hphases

end Sys2Proof.Machine
end

section
/-! SUPPORT. What the device's own writes and the pager leave alone (R326, R345, R352): jobs but for the phase of a snapshot arm
that ends, groups but for what their forks track, and of a snapshot everything but its shadows. -/

namespace Sys2Proof.Machine

/-- A job without its phase. -/
def Job.unphased (j : Job) : Job := { j with phase := .waiting }

/-- A snapshot page without its shadow. -/
def SnapPage.bare (p : SnapPage) : SnapPage := { p with shadow := [] }

/-- A snapshot without its shadows. -/
def Snap.bare (n : Snap) : Snap := { n with pages := n.pages.map SnapPage.bare }

structure State.Maintains (s t : State) : Prop where
  jobs : t.jobs.map Job.unphased = s.jobs.map Job.unphased
  combs : t.combs.map Comb.unforked = s.combs.map Comb.unforked
  snaps : ∀ y ∈ t.snaps, ∃ x ∈ s.snaps, y.bare = x.bare

namespace State.Maintains

theorem of_same {s t : State} (hj : t.jobs = s.jobs) (hc : t.combs = s.combs) (hs : t.snaps = s.snaps) : s.Maintains t :=
  ⟨congrArg _ hj, congrArg _ hc, fun y hy => ⟨y, hs ▸ hy, rfl⟩⟩

theorem refl (s : State) : s.Maintains s := of_same rfl rfl rfl

theorem trans {s t u : State} (h : s.Maintains t) (k : t.Maintains u) : s.Maintains u where
  jobs := k.jobs.trans h.jobs
  combs := k.combs.trans h.combs
  snaps y hy := by
    obtain ⟨x, hx, hyx⟩ := k.snaps y hy
    obtain ⟨w, hw, hxw⟩ := h.snaps x hx
    exact ⟨w, hw, hyx.trans hxw⟩

theorem foldl {α : Type} {f : State → α → State} (h : ∀ (s : State) (x : α), s.Maintains (f s x)) (l : List α) (s : State) :
    s.Maintains (l.foldl f s) := by
  induction l generalizing s with
  | nil => exact refl s
  | cons x l ih => exact (h s x).trans (ih (f s x))

section
variable {s t : State}

theorem same {u : State} (h : s.Maintains t) (hj : u.jobs = t.jobs) (hc : u.combs = t.combs) (hs : u.snaps = t.snaps) : s.Maintains u :=
  h.trans (of_same hj hc hs)

theorem spend (h : s.Maintains t) : s.Maintains t.spend := h.same rfl rfl rfl
theorem modCtx (h : s.Maintains t) (c : Nat) (f : Ctx → Ctx) : s.Maintains (t.modCtx c f) := h.same rfl rfl rfl
theorem modLines (h : s.Maintains t) (f : List CacheLine → List CacheLine) : s.Maintains (t.modLines f) := h.same rfl rfl rfl
theorem takeBytes (h : s.Maintains t) (id : CacheId) (data : List (Nat × Byte)) : s.Maintains (t.takeBytes id data) := h.same rfl rfl rfl
theorem forgetPage (h : s.Maintains t) (asid page : Nat) : s.Maintains (t.forgetPage asid page) := h.same rfl rfl rfl
theorem freePagesOf (h : s.Maintains t) (ps : List Nat) : s.Maintains (t.freePagesOf ps) := h.same rfl rfl rfl
theorem zeroPages (h : s.Maintains t) (p n : Nat) : s.Maintains (t.zeroPages p n) := h.same rfl rfl rfl
theorem queueDev (h : s.Maintains t) (w : DevWrite) : s.Maintains (t.queueDev w) := h.same rfl rfl rfl
theorem sendRemote (h : s.Maintains t) (line : Nat) (tx : RemoteTx) : s.Maintains (t.sendRemote line tx) := h.same rfl rfl rfl
theorem countDrop (h : s.Maintains t) (c : Nat) : s.Maintains (t.countDrop c) := h.modCtx c _

/-- A change of what forks track or remember. -/
theorem mapForks (h : s.Maintains t) (f : Fork → Fork) :
    s.Maintains { t with combs := t.combs.map fun c => { c with groups := c.groups.map fun g => { g with forks := g.forks.map f } } } := by
  refine h.trans ⟨rfl, List.map_map.trans (List.map_congr_left fun c _ => ?_), fun y hy => ⟨y, hy, rfl⟩⟩
  exact congrArg (fun gs => ({ c with groups := gs } : Comb)) List.map_map

theorem squashHook (h : s.Maintains t) (ks : List Nat) : s.Maintains (t.squashHook ks) := h.mapForks _

theorem followPage (h : s.Maintains t) (src dst ssrc sdst n : Nat) : s.Maintains (t.followPage src dst ssrc sdst n) := h.mapForks _

/-- A change of phases alone. -/
theorem modJob_phase (h : s.Maintains t) (n : Nat) {f : Job → Job} (hf : ∀ j, (f j).unphased = j.unphased) : s.Maintains (t.modJob n f) := by
  refine h.trans ⟨List.map_map.trans (List.map_congr_left fun j _ => ?_), rfl, fun y hy => ⟨y, hy, rfl⟩⟩
  simp only [Function.comp_apply]
  split
  · exact hf j
  · rfl

/-! ### Shadows (R345) -/

theorem takeRun {tower n p : Nat} (h : s.takeRun tower n = some (p, t)) : s.Maintains t := by
  unfold State.takeRun at h
  split at h
  · cases h
  · split at h
    · cases h
    · cases h
      exact of_same rfl rfl rfl

theorem takeShadows {tower base : Nat} {is : List Nat} {l : List (Nat × Nat)} (h : s.takeShadows tower base is = some (l, t)) :
    s.Maintains t := by
  induction is generalizing s l with
  | nil =>
    cases h
    exact refl _
  | cons i is ih =>
    unfold State.takeShadows at h
    split at h
    · cases h
    · next p u hu =>
      split at h
      · cases h
      · next hl =>
        cases h
        have hcopy : s.Maintains (u.copyPage (base + i) p) := (takeRun hu).same rfl rfl rfl
        exact hcopy.trans (ih hl)

theorem dropSnap (h : s.Maintains t) (n : Snap) (code : Nat) : s.Maintains (t.dropSnap n code) := by
  have hdrop : s.Maintains { t with snaps := t.snaps.filter fun x => x.job != n.job } :=
    h.trans ⟨rfl, rfl, fun y hy => ⟨y, List.mem_of_mem_filter hy, rfl⟩⟩
  refine modJob_phase (hdrop.freePagesOf _) _ fun j => ?_
  cases j.phase <;> rfl

/-- A page of a snapshot that gets a shadow. -/
theorem shadowed (h : s.Maintains t) (job tower : Nat) (l : List (Nat × Nat)) :
    s.Maintains { t with snaps := t.snaps.map fun x => if x.job == job then
      { x with pages := x.pages.map fun q => if q.tower == tower then { q with shadow := l } else q } else x } := by
  refine h.trans ⟨rfl, rfl, fun y hy => ?_⟩
  obtain ⟨x, hx, rfl⟩ := List.mem_map.mp hy
  refine ⟨x, hx, ?_⟩
  split
  · refine congrArg (fun ps => ({ x with pages := ps } : Snap)) (List.map_map.trans (List.map_congr_left fun q _ => ?_))
    simp only [Function.comp_apply]
    split <;> rfl
  · rfl

theorem shadowFor (h : s.Maintains t) (job page : Nat) : s.Maintains (t.shadowFor job page) := by
  unfold State.shadowFor
  split
  · exact h
  · split
    · exact h
    · next p _ =>
      dsimp only
      generalize (if p.big = true then 32 else 1 : Nat) = k
      split
      · exact h.dropSnap _ _
      · split
        · exact h.dropSnap _ _
        · next hu => exact (h.trans (takeShadows hu)).shadowed _ _ _

/-! ### Writes at their place (R290) -/

theorem snapHook (h : s.Maintains t) (k : Nat) : s.Maintains (t.snapHook k) := by
  unfold State.snapHook
  split
  · exact h.trans (foldl (fun s _ => (refl s).shadowFor _ _) _ _)
  · split
    · exact h.trans (foldl (fun s _ => (refl s).shadowFor _ _) _ _)
    · exact h

theorem performRaw (h : s.Maintains t) (passed : List (Nat × Nat)) (data : List (Nat × Byte)) : s.Maintains (t.performRaw passed data) := by
  have hsnap := h.trans (foldl (fun s k => (refl s).snapHook k) (data.map fun d => d.1) t)
  revert hsnap
  unfold State.performRaw
  dsimp only
  generalize (data.map fun d => d.1).foldl (fun s k => s.snapHook k) t = u
  intro hsnap
  obtain ⟨d, hd⟩ := u.rebuildHook_dev (data.map fun d => d.1)
  rw [hd]
  let v : State := { u.withDev d with mem := ((u.withDev d).mem.setAll data).setAll ((u.withDev d).mirror passed data) }
  have hv : s.Maintains v := hsnap.same rfl rfl rfl
  obtain ⟨l, hl, -⟩ := v.hostHook_lines data
  have hhost : s.Maintains (v.hostHook data) := by
    rw [hl]
    exact hv.modLines _
  split
  · exact hhost
  · exact hhost.squashHook _

theorem perform (h : s.Maintains t) (data : List (Nat × Byte)) : s.Maintains (t.perform data) := h.performRaw _ _

/-! ### The pager (R326) -/

theorem setLeaf (h : s.Maintains t) (at_ : Nat) (e : W64) (addr : Nat) (present : Bool) : s.Maintains (t.setLeaf at_ e addr present) :=
  h.perform _

theorem pageOut {c : Nat} {h : Held} (ht : s.pageOut c h = some t) : s.Maintains t := by
  unfold State.pageOut at ht
  dsimp only at ht
  split at ht
  · cases ht
  · split at ht
    · obtain rfl := Option.some.inj ht
      refine forgetPage (modCtx (freePagesOf (setLeaf (followPage ?_ _ _ _ _ _) _ _ _ _) _) _ _) _ _
      exact of_same rfl rfl rfl
    · cases ht

theorem makeRoom {c n fuel : Nat} (ht : s.makeRoom c n fuel = some t) : s.Maintains t := by
  induction fuel generalizing s with
  | zero => cases ht
  | succ fuel ih =>
    unfold State.makeRoom at ht
    split at ht
    · cases ht
      exact refl _
    · split at ht
      · cases ht
      · split at ht
        · cases ht
        · next hu => exact (pageOut hu).trans (ih ht)

theorem makePresent {c va hive : Nat} (ht : s.makePresent c va hive = some t) : s.Maintains t := by
  unfold State.makePresent at ht
  dsimp only at ht
  split at ht
  · cases ht
  · split at ht
    · cases ht
    · split at ht
      · cases ht
      · next u hu =>
        split at ht
        · cases ht
        · next p v hv =>
          split at ht
          · cases ht
          · obtain rfl := Option.some.inj ht
            have h : s.Maintains v := (makeRoom hu).trans (takeRun hv)
            refine forgetPage (modCtx (setLeaf ?_ _ _ _ _) _ _) _ _
            split
            · exact h.zeroPages _ _
            · refine followPage ?_ _ _ _ _ _
              exact h.same rfl rfl rfl

theorem note (h : s.Maintains t) (c : Nat) (va : W64) : s.Maintains (t.note c va) := by
  rw [State.note]
  extract_lets m coh
  have ht : s.Maintains m := h.modCtx c _
  clear_value m
  split
  · exact h
  · split
    · exact ht
    · split
      · exact ht.same rfl rfl rfl
      · split
        · exact ht.same rfl rfl rfl
        · exact ht

theorem keyVa {c core hive va k kk : Nat} {need : Access} (h : s.keyVa c core need hive va k = .ok (kk, t)) : s.Maintains t := by
  unfold State.keyVa at h
  extract_lets u at h
  have hu : s.Maintains u := by
    unfold u
    split
    · cases hp : s.makePresent c va hive with
      | none => exact refl s
      | some v => exact makePresent hp
    · exact refl s
  clear_value u
  split at h
  · split at h
    · cases h
    · split at h
      · cases h
      · cases h
        exact hu.note _ _
  · cases h
  · cases h

theorem readVa {c core hive fuel va n : Nat} {need : Access} {bs : List Byte} (h : s.readVa c core need hive fuel va n = .ok (bs, t)) :
    s.Maintains t := by
  induction fuel generalizing s va n bs with
  | zero =>
    cases h
    exact refl _
  | succ fuel ih =>
    cases n with
    | zero =>
      cases h
      exact refl _
    | succ n =>
      unfold State.readVa at h
      dsimp only at h
      split at h
      · cases h
      · next hu =>
        split at h
        · next hv =>
          cases h
          exact (keyVa hu).trans (ih hv)
        · cases h

theorem writeVa {c core hive fuel va : Nat} {bs : List Byte} (h : s.writeVa c core hive fuel va bs = .ok t) : s.Maintains t := by
  induction fuel generalizing s va bs with
  | zero =>
    cases h
    exact refl _
  | succ fuel ih =>
    unfold State.writeVa at h
    dsimp only at h
    split at h
    · cases h
      exact refl _
    · split at h
      · cases h
      · next hu => exact ((keyVa hu).perform _).trans (ih h)

/-! ### The device's own reads and writes (R352) -/

theorem devRead {c va n : Nat} {bs : List Byte} (h : s.devRead c va n = .ok (bs, t)) : s.Maintains t := by
  unfold State.devRead at h
  split at h
  · cases h
  · exact readVa h

theorem devEdit {c va n : Nat} {f : List Byte → List Byte} (h : s.devEdit c va n f = .ok t) : s.Maintains t := by
  unfold State.devEdit at h
  split at h
  · cases h
  · split at h
    · split at h
      · cases h
      · next hu =>
        cases h
        exact (keyVa hu).perform _
    · split at h
      · cases h
      · next hu => exact (readVa hu).trans (writeVa h)

theorem hostRecord (h : s.Maintains t) (c : Nat) (r : FaultRec) : s.Maintains (t.hostRecord c r) := by
  unfold State.hostRecord
  dsimp only
  split
  · exact h
  · split
    · exact h.queueDev _
    · split
      · exact h.countDrop c
      · split
        · next hu => exact (h.trans (devEdit hu)).modCtx _ _
        · split
          · exact h.queueDev _
          · exact h.countDrop c

theorem devWriteOr22 (h : s.Maintains t) (c va : Nat) (bs : List Byte) (lid : W64) : s.Maintains (t.devWriteOr22 c va bs lid) := by
  unfold State.devWriteOr22 State.devEditOr22
  split
  · exact h.queueDev _
  · split
    · next hu => exact h.trans (devEdit hu)
    · split
      · exact h.queueDev _
      · exact h.hostRecord _ _

/-! ### Jobs: translation and writes at their place (R271, R300) -/

theorem jobXlate (h : s.Maintains t) (j : Job) (va : Nat) (need : Access) : s.Maintains (t.jobXlate j va need).1 := by
  unfold State.jobXlate
  split
  · split
    · next hu => exact h.trans (makePresent hu)
    · exact h
  · exact h

theorem pieces (h : s.Maintains t) (j : Job) (need : Access) (side : Bool) (fuel va n : Nat) : s.Maintains (t.pieces j need side fuel va n).s := by
  induction fuel generalizing t va n with
  | zero => exact h
  | succ fuel ih =>
    unfold State.pieces
    dsimp only
    have hx := h.jobXlate j va need
    split
    · exact h
    · split
      · split
        · exact hx
        · exact ih (hx.note _ _) _ _
      · exact hx
      · exact hx

theorem range (h : s.Maintains t) (j : Job) (need : Access) (side : Bool) (va n : Nat) : s.Maintains (t.range j need side va n).s :=
  h.pieces j need side _ va n

theorem fillRdc (h : s.Maintains t) (hive line : Nat) : s.Maintains (t.fillRdc hive line) := by
  unfold State.fillRdc
  split
  · exact h
  · split
    · exact h
    · dsimp only
      split
      · exact (h.modLines _).sendRemote _ _
      · exact h.modLines _

theorem writeHome (h : s.Maintains t) (hive : Nat) (data : List (Nat × Byte)) : s.Maintains (t.writeHome hive data) := by
  unfold State.writeHome
  dsimp only
  refine modLines ?_ _
  have hbytes := (((h.perform ((t.masked data).filter fun d => !(keyRegion d.1 == 7 || keyRegion d.1 == 8))).trans
    (foldl (fun s l => (refl s).fillRdc hive l) ((((t.masked data).filter fun d => keyRegion d.1 == 7 || keyRegion d.1 == 8).map
      fun d => lineKey d.1).eraseDups) _)).takeBytes (.rdc hive) (t.masked data))
  split
  · exact hbytes
  · exact hbytes.squashHook _

theorem writeBack (h : s.Maintains t) (hive line : Nat) : s.Maintains (t.writeBack hive line) := by
  unfold State.writeBack
  split
  · exact h
  · split
    · exact h
    · exact ((h.spend.perform _).sendRemote _ _).modLines _

theorem landHome (h : s.Maintains t) (hive : Nat) (cells : List (Nat × Byte)) : s.Maintains (t.landHome hive cells) :=
  (h.writeHome hive cells).trans (foldl (fun s l => (refl s).writeBack hive l) _ _)

end

end State.Maintains

end Sys2Proof.Machine
end

section
/-! SUPPORT. What landed bytes and a status leave of the state (R270, R272, R273), and the acceptance of a card (R268, R269). -/

namespace Sys2Proof.Machine

/-! ### What landed bytes leave alone (R273) -/

/-- Landed bytes change a barrier where it stands, and what the spire sends: nothing else. -/
theorem State.landed_keeps {α : Type} {p : State → α} (hspire : ∀ (s : State) x, p { s with spire := x } = p s)
    (hcomb : ∀ (s : State) id (f : Comb → List Barrier), p (s.modCombHome id fun x => { x with bars := f x }) = p s)
    (hlaunch : ∀ (s : State) n (f : Launch → List (SpanId × Barrier)), p (s.modLaunch n fun l => { l with spans := f l }) = p s)
    (hctx : ∀ (s : State) c f, p (s.modCtx c f) = p s) (s : State) (c : Comb) (b n : Nat) : p (s.landed c b n) = p s := by
  unfold State.landed
  split
  · rfl
  · split
    · rfl
    · unfold State.barChange
      split
      · exact hcomb s _ _
      · exact hlaunch s _ _
      · dsimp only
        split
        · unfold State.podChange
          split
          · rfl
          · exact (foldl_keeps (p := p) (fun s d => hspire s _) _ _).trans (hctx s _ _)
        · exact hspire s _

theorem State.landed_jobs (s : State) (c : Comb) (b n : Nat) : (s.landed c b n).jobs = s.jobs :=
  State.landed_keeps (p := State.jobs) (fun _ _ => rfl) (fun s id f => by unfold State.modCombHome; split <;> rfl) (fun _ _ _ => rfl)
    (fun _ _ _ => rfl) s c b n

theorem State.landed_mem (s : State) (c : Comb) (b n : Nat) : (s.landed c b n).mem = s.mem :=
  State.landed_keeps (p := State.mem) (fun _ _ => rfl) (fun s id f => by unfold State.modCombHome; split <;> rfl) (fun _ _ _ => rfl)
    (fun _ _ _ => rfl) s c b n

theorem State.landed_snaps (s : State) (c : Comb) (b n : Nat) : (s.landed c b n).snaps = s.snaps :=
  State.landed_keeps (p := State.snaps) (fun _ _ => rfl) (fun s id f => by unfold State.modCombHome; split <;> rfl) (fun _ _ _ => rfl)
    (fun _ _ _ => rfl) s c b n

theorem State.landCount_jobs (s : State) (j : Job) (n : Nat) : (s.landCount j n).jobs = s.jobs := by
  unfold State.landCount
  split
  · exact s.landed_jobs _ _ _
  · rfl

theorem State.landCount_mem (s : State) (j : Job) (n : Nat) : (s.landCount j n).mem = s.mem := by
  unfold State.landCount
  split
  · exact s.landed_mem _ _ _
  · rfl

theorem State.landCount_snaps (s : State) (j : Job) (n : Nat) : (s.landCount j n).snaps = s.snaps := by
  unfold State.landCount
  split
  · exact s.landed_snaps _ _ _
  · rfl

/-! ### What a status leaves of the jobs (R270, R272) -/

/-- A job keeps its number and its edges, whatever its phase. -/
theorem State.Maintains.job_mem {s t : State} (h : s.Maintains t) {x : Job} (hx : x ∈ t.jobs) : ∃ y ∈ s.jobs, x.num = y.num ∧ x.edges = y.edges := by
  have hmem : x.unphased ∈ s.jobs.map Job.unphased := h.jobs ▸ List.mem_map_of_mem hx
  obtain ⟨y, hy, hxy⟩ := List.mem_map.mp hmem
  exact ⟨y, hy, (congrArg Job.num hxy).symm, (congrArg Job.edges hxy).symm⟩

/-- A group whose lists have a job's status entry, and whose DONE rises with it (R275, R276). -/
def Group.marked (n : Nat) (w : W64) (g : Group) : Group :=
  let mark := fun (l : List BatchJob) => l.map fun j => if j.num == n then { j with status := some w } else j
  State.raiseDone { g with openJobs := mark g.openJobs, batches := g.batches.map fun b => { b with jobs := mark b.jobs } }
    (g.batches.map fun b => { b with jobs := mark b.jobs }).length

/-- What is written of a status beside the group's lists keeps them. -/
theorem State.recordStatus_maintains {s : State} {c g : Nat} {gr : Group} (h : s.groupHome? c g = some gr) (n : Nat) (w : W64) (x : Nat) (lid : W64) :
    (s.modGroupHome c g fun _ => gr.marked n w).Maintains (s.recordStatus c g n w x lid) := by
  unfold State.recordStatus
  rw [h]
  dsimp only
  have hrefl := State.Maintains.refl (s.modGroupHome c g fun _ => gr.marked n w)
  split
  · exact hrefl
  · split
    · exact hrefl
    · split
      · exact (hrefl.devWriteOr22 _ _ _ _).devWriteOr22 _ _ _ _
      · exact hrefl.devWriteOr22 _ _ _ _

theorem State.modGroupHome_jobs (s : State) (c g : Nat) (f : Group → Group) : (s.modGroupHome c g f).jobs = s.jobs := by
  unfold State.modGroupHome State.modCombHome
  split
  · split <;> rfl
  · rfl

theorem State.recordStatus_job_mem (s : State) (c g n : Nat) (w : W64) (a : Nat) (lid : W64) {x : Job}
    (hx : x ∈ (s.recordStatus c g n w a lid).jobs) : ∃ y ∈ s.jobs, x.num = y.num ∧ x.edges = y.edges := by
  cases hg : s.groupHome? c g with
  | none =>
    have hsame : s.recordStatus c g n w a lid = s := by rw [State.recordStatus, hg]
    exact ⟨x, hsame ▸ hx, rfl, rfl⟩
  | some gr =>
    obtain ⟨y, hy, hxy⟩ := (State.recordStatus_maintains hg n w a lid).job_mem hx
    exact ⟨y, s.modGroupHome_jobs c g _ ▸ hy, hxy⟩

theorem State.partGone_job_mem (s : State) (j : Job) {x : Job} (hx : x ∈ (s.partGone j).jobs) : ∃ y ∈ s.jobs, x.num = y.num ∧ x.edges = y.edges := by
  unfold State.partGone at hx
  dsimp only at hx
  split at hx
  · exact ⟨x, hx, rfl, rfl⟩
  · obtain ⟨y, hy, rfl⟩ := List.mem_map.mp hx
    refine ⟨y, hy, ?_⟩
    split <;> exact ⟨rfl, rfl⟩

/-- A job with a status leaves the TDT and every edge (R270). -/
theorem State.giveStatus_job_mem (s : State) (n code detail : Nat) {x : Job} (hj : (s.job? n).isSome) (hx : x ∈ (s.giveStatus n code detail).jobs) :
    ∃ y ∈ s.jobs, y.num ≠ n ∧ x.num = y.num ∧ x.edges = y.edges.filter fun e => e != n := by
  obtain ⟨j, hj⟩ := Option.isSome_iff_exists.mp hj
  unfold State.giveStatus at hx
  rw [hj] at hx
  dsimp only at hx
  obtain ⟨y, hy, hnum, hedges⟩ := State.recordStatus_job_mem _ _ _ _ _ _ _ hx
  obtain ⟨z, hz, rfl⟩ := List.mem_map.mp hy
  obtain ⟨hz, hne⟩ := List.mem_filter.mp hz
  have hpart : ∃ w ∈ s.jobs, z.num = w.num ∧ z.edges = w.edges := by
    have hland : ∀ (b : Bool), (if b then s.landed (s.jobComb j) j.bar j.owed else s).jobs = s.jobs := fun b => by
      cases b
      · rfl
      · exact s.landed_jobs _ _ _
    split at hz
    · obtain ⟨w, hw, hzw⟩ := State.partGone_job_mem _ _ hz
      exact ⟨w, hland _ ▸ hw, hzw⟩
    · exact ⟨z, hland _ ▸ hz, rfl, rfl⟩
  obtain ⟨w, hw, hzn, hze⟩ := hpart
  exact ⟨w, hw, by simpa [← hzn] using hne, hnum.trans hzn, hedges.trans (by rw [hze])⟩

/-- After a status no job has its number. -/
theorem State.giveStatus_num (s : State) (n code detail : Nat) {x : Job} (hx : x ∈ (s.giveStatus n code detail).jobs) :
    x.num ≠ n ∧ ∃ y ∈ s.jobs, x.num = y.num := by
  cases hj : s.job? n with
  | none =>
    have hsame : s.giveStatus n code detail = s := by rw [State.giveStatus, hj]
    rw [hsame] at hx
    exact ⟨by simpa using List.find?_eq_none.mp hj x hx, x, hx, rfl⟩
  | some j =>
    obtain ⟨y, hy, hne, hnum, -⟩ := s.giveStatus_job_mem n code detail (by rw [hj]; rfl) hx
    exact ⟨hnum ▸ hne, y, hy, hnum⟩

theorem State.releaseSnap_jobs (s : State) (n : Nat) : (s.releaseSnap n).jobs = s.jobs := by
  unfold State.releaseSnap
  split <;> rfl

/-- Jobs that are cancelled leave the TDT. -/
theorem State.cancelFold_num (l : List Job) (s : State) {x : Job}
    (hx : x ∈ (l.foldl (fun s o => (s.releaseSnap o.num).giveStatus o.num 0x40 0) s).jobs) :
    (∀ o ∈ l, x.num ≠ o.num) ∧ ∃ y ∈ s.jobs, x.num = y.num := by
  induction l generalizing s with
  | nil => exact ⟨fun o ho => absurd ho List.not_mem_nil, x, hx, rfl⟩
  | cons o l ih =>
    obtain ⟨hrest, y, hy, hxy⟩ := ih _ hx
    obtain ⟨hne, z, hz, hyz⟩ := State.giveStatus_num _ _ _ _ hy
    refine ⟨fun p hp => ?_, z, by rwa [State.releaseSnap_jobs] at hz, hxy.trans hyz⟩
    rcases List.mem_cons.mp hp with rfl | hp
    · rwa [hxy]
    · exact hrest p hp

/-! ### The acceptance of a card (R269) -/

/-- The block that a card's check reads, as it stands at its place. -/
def State.blockSeen (s : State) (e : SBEntry) (card : List W64) : List Byte :=
  match (s.placeView (hiveOf e.core)).blockRead e.ctx card with
  | .ok r => r.1
  | .error _ => []

/-- Whether the data of a GO is invalid (R268, R273). -/
def State.goBad (s : State) (c : Comb) (go : W64) : Bool := wBits go 16 48 != 0 || (go.getLsbD 15 && (s.barRef c (wBits go 0 15)).isNone)

/-- The status with which a GO is rejected. -/
def State.goCode (s : State) (c : Comb) (card : List W64) (go : W64) (bs : List Byte) : Option Nat :=
  rejectCode card (cardCheck s c card bs) (s.goBad c go) (jobEng card == 4 && bs.isEmpty)

/-- The job of an accepted card joins the TDT, and its group's open jobs name its destination (R270, R276). -/
def State.joinJob (s : State) (e : SBEntry) (n : Nat) (j : Job) : State :=
  { s.spend with jobs := s.jobs ++ [j] }.modGroup e.comb e.group fun g => { g with
    openJobs := g.openJobs.map fun (b : BatchJob) => if b.num == n then { b with dst := j.dst } else b }

section
variable {s s2 : State} {e : SBEntry} {c : Comb} {n code : Nat} {card : List W64} {go : W64} {bs : List Byte}
  (hread : s.blockRead e.ctx card = .ok (bs, s2))
include hread

theorem State.acceptCard_rejects (h : s2.goCode c card go (s.blockSeen e card) = some code) :
    s.acceptCard e c n card go = s2.rejectJob e c n code (go.getLsbD 15) (wBits go 0 15) := by
  unfold State.acceptCard
  rw [hread]
  dsimp only
  split
  · rename_i h'
    rw [Option.some.inj (h'.symm.trans h)]
  · rename_i h'
    exact absurd (h'.symm.trans h) nofun

variable (h : s2.goCode c card go (s.blockSeen e card) = none)
include h

theorem State.acceptCard_empty (hempty : jobEng card = 1 ∧ (gCard card).cnt = 0) : s.acceptCard e c n card go
    = s2.recordStatus e.comb e.group n (State.statusEntry 1 0 0) e.ctx (((s2.launch? e.launch).map fun l => l.lid).getD 0) := by
  unfold State.acceptCard
  rw [hread]
  dsimp only
  split
  · rename_i h'
    exact absurd (h'.symm.trans h) nofun
  · exact if_pos (by simpa using hempty)

theorem State.acceptCard_joins (hempty : ¬ (jobEng card = 1 ∧ (gCard card).cnt = 0)) (h4 : jobEng card ≠ 4) : s.acceptCard e c n card go
    = (cancelArms s2 e.ctx card).joinJob e n
        ((cancelArms s2 e.ctx card).newJob e c n card go (cardCheck s2 c card (s.blockSeen e card)) (s.blockSeen e card)) := by
  unfold State.acceptCard
  rw [hread]
  dsimp only
  split
  · rename_i h'
    exact absurd (h'.symm.trans h) nofun
  · exact (if_neg (by simpa using hempty)).trans (if_neg h4)

end

section
variable {s : State} {e : SBEntry} {c : Comb} {g : Group} {l : Launch}
  (he : s.coh.sb.find? (fun x => x.eid == e.eid) = some e) (hc : s.comb? e.comb = some c) (hg : s.group? e.comb e.group = some g)
  (hready : s.goReady e = true) (hbusy : s.acceptBusy e g = false) (hl : s.launch? e.launch = some l) (hrun : l.aborted = false)
  (hopen : g.openJobs.length < 4096)

/-- A GO that drains: its entry leaves the store buffer, its group's card is cleared, and its job is open (R268, R276). -/
def State.goDrained (s : State) (e : SBEntry) : State :=
  (s.bump.modSB fun l => l.filter fun x => x.eid != e.eid).modGroup e.comb e.group fun g => { g with
    card := List.replicate 4 none, openJobs := g.openJobs ++ [{ num := s.clk.serial }] }

/-- The data of a GO. -/
def SBEntry.go (e : SBEntry) : W64 := BitVec.ofNat 64 (leNat (e.data.map fun x => x.2))

include he hc hg hready hbusy hl hrun hopen

theorem State.acceptJob_incomplete (hcard : none ∈ g.card) : s.acceptJob e.eid
    = (s.goDrained e).rejectJob e c s.clk.serial 0x10 (e.go.getLsbD 15) (wBits e.go 0 15) := by
  have hrun' : ((((s.goDrained e).launch? e.launch).map fun l => l.aborted).getD true) = false := by
    have : (s.goDrained e).launch? e.launch = some l := hl
    rw [this]
    exact hrun
  unfold State.acceptJob
  simp only [he, hc, hg]
  rw [if_neg (by simp [hready, hbusy])]
  refine (if_neg (by rw [← Bool.not_eq_true] at hrun'; exact hrun')).trans ((if_neg (by omega)).trans (if_pos ?_))
  exact List.any_eq_true.mpr ⟨none, hcard, rfl⟩

theorem State.acceptJob_complete {card : List W64} (hcard : g.card = card.map some) : s.acceptJob e.eid
    = (s.goDrained e).acceptCard e c s.clk.serial card e.go := by
  have hrun' : ((((s.goDrained e).launch? e.launch).map fun l => l.aborted).getD true) = false := by
    have : (s.goDrained e).launch? e.launch = some l := hl
    rw [this]
    exact hrun
  have hwords : (g.card.map fun w => w.getD 0) = card := by simp [hcard]
  unfold State.acceptJob
  simp only [he, hc, hg]
  rw [if_neg (by simp [hready, hbusy]), hwords]
  refine (if_neg (by rw [← Bool.not_eq_true] at hrun'; exact hrun')).trans ((if_neg (by omega)).trans (if_neg ?_))
  simp [hcard]

end

end Sys2Proof.Machine
end

section
/-! PROOF. Snapshots (R285, R343 to R345): the statement O57. -/

namespace Sys2Proof.Machine

/-! ### Arm and cancel (R285) -/

section
variable {s : State} {n : Nat} {j : Job}

/-- What an arm reads of its descriptor. -/
def State.armRead (s : State) (j : Job) : Source := s.readPlain j false (jc j.card 3).toNat 32

/-- The translation of an arm's destination. -/
def State.armDest (s : State) (j : Job) : Got :=
  (s.armRead j).s.range j .write false (jc j.card 1).toNat (dwordAt (s.armRead j).bytes 2).toNat

/-- The snapshot of an arm. -/
def State.armSnap (s : State) (n : Nat) (j : Job) : Snap :=
  { job := n, ctx := j.ctx, desc := jc j.card 3, cid := wBits (dwordAt (s.armRead j).bytes 0) 16 16
    step := (dwordAt (s.armRead j).bytes 1).toNat, extent := (dwordAt (s.armRead j).bytes 2).toNat, dest := jc j.card 1 }

/-- An arm whose cut point has passed, or whose destination is no host memory, ends; any other runs. -/
theorem armJob_reads (hj : s.startable n 5 0 = some j) (hx : (s.armRead j).fail = none) (hg : (s.armDest j).fail = none) :
    armJob s n = if (s.armRead j).s.spire.contributed.contains ((s.armSnap n j).cid, (s.armSnap n j).step) || (s.armDest j).ps.any fun p => p.tt != 2
      then (s.armDest j).s.modJob n fun q => { q with phase := .ending 0x14 0 }
      else { (s.armDest j).s with snaps := s.armSnap n j :: (s.armDest j).s.snaps }.modJob n fun q => { q with phase := .running } := by
  unfold armJob
  rw [hj]
  dsimp only
  split
  · rename_i h
    exact absurd (hx.symm.trans h) nofun
  · rename_i h
    exact absurd (hx.symm.trans h) nofun
  · split
    · rename_i h
      exact absurd (hg.symm.trans h) nofun
    · rename_i h
      exact absurd (hg.symm.trans h) nofun
    · rfl

/-- A cancel ends itself as done when it starts. -/
theorem cancelSnap_starts (hj : s.startable n 5 1 = some j) : cancelSnap s n = s.modJob n fun q => { q with phase := .ending 1 0 } := by
  rw [cancelSnap, hj]

end

/-! ### The acceptance of a cancel (R285) -/

/-- A cancel's card breaks no check of R269 that depends on its descriptor. -/
theorem cardCheck_cancel (s : State) (c d : Comb) {card : List W64} (bs bs' : List Byte) (he : jobEng card = 5) (ho : jobOp card = 1) :
    (cardCheck s c card bs).rsv = (cardCheck s d card bs').rsv ∧ (cardCheck s c card bs).form = false ∧ (cardCheck s c card bs).align = false := by
  simp [cardCheck, he, snapshotCheck, ho]

/-- The acceptance of a cancel: the arms of its descriptor end, and its own job joins the TDT. -/
theorem State.acceptCard_cancel {s s2 : State} {e : SBEntry} {c : Comb} {m : Nat} {card : List W64} {go : W64} {bs : List Byte}
    (he : jobEng card = 5) (ho : jobOp card = 1) (hread : s.devRead e.ctx (jc card 3).toNat 32 = .ok (bs, s2))
    (hrsv : (cardCheck s2 c card bs).rsv = false) (hgo : go.toNat / 2 ^ 15 = 0) :
    ∃ k : Job, k.num = m ∧ k.card = card ∧ k.phase = .waiting ∧ (s.acceptCard e c m card go).jobs = (cancelArms s2 e.ctx card).jobs ++ [k] := by
  have hblock : s.blockRead e.ctx card = .ok (bs, s2) := by
    rw [State.blockRead, acceptBlock, he]
    simpa [he] using hread
  have hpb : go.getLsbD 15 = false := by
    rw [BitVec.getLsbD, Nat.testBit_eq_decide_div_mod_eq, hgo]
    rfl
  have hhigh : wBits go 16 48 = 0 := by
    have hzero : go.toNat / 2 ^ 16 = 0 := by omega
    rw [wBits, hzero, Nat.zero_mod]
  have hbad : s2.goBad c go = false := by
    rw [State.goBad, hpb, hhigh]
    rfl
  obtain ⟨hr, hf, ha⟩ := cardCheck_cancel s2 c c (s.blockSeen e card) bs he ho
  have hcode : s2.goCode c card go (s.blockSeen e card) = none := by
    simp [State.goCode, rejectCode, hbad, jobOps, he, ho, hr, hrsv, hf, ha]
  rw [State.acceptCard_joins hblock hcode (by simp [he]) (by simp [he])]
  exact ⟨_, rfl, rfl, rfl, rfl⟩

/-! ### The drain of the last page (R345) -/

/-- A snapshot with one page more that has drained. -/
def Snap.drain (p : SnapPage) (x : Snap) : Snap :=
  { x with drained := x.drained + 1, pages := x.pages.map fun q =>
      if q.va == p.va && q.tower == p.tower then { q with done := true, shadow := [] } else q }

/-- Of a snapshot of one page, that page drains last. -/
theorem Snap.drain_done {v y : Snap} {p : SnapPage} (hp : v.pages = [p]) (hy : y.bare = v.bare) : ((y.drain p).pages.all fun q => q.done) = true := by
  have hpages : y.pages.map SnapPage.bare = [p.bare] := (congrArg Snap.pages hy).trans (congrArg (List.map SnapPage.bare) hp)
  refine List.all_eq_true.mpr fun q hq => ?_
  obtain ⟨r, hr, rfl⟩ := List.mem_map.mp hq
  have hbare : r.bare = p.bare := List.mem_singleton.mp (hpages ▸ List.mem_map_of_mem hr)
  have hva : r.va = p.va := (congrArg SnapPage.va hbare :)
  have htower : r.tower = p.tower := (congrArg SnapPage.tower hbare :)
  simp [hva, htower]

/-- When the pages of all snapshots of a job have drained, its arm ends (R345). -/
theorem State.snapDone_all {s : State} {n : Nat} (h : ∀ y ∈ s.snaps, y.job = n ∧ y.cut = true ∧ (y.pages.all fun q => q.done) = true) :
    (∀ y ∈ (s.snapDone n).snaps, y.job ≠ n) ∧ (s.snapDone n).mem = s.mem
      ∧ (s.snaps ≠ [] → (s.snapDone n).jobs = (s.modJob n fun k => { k with phase := .ending 1 0 }).jobs) := by
  unfold State.snapDone
  cases hf : s.snaps.find? fun x => x.job == n with
  | none =>
    have hnone : ∀ y ∈ s.snaps, y.job ≠ n := fun y hy => by simpa using List.find?_eq_none.mp hf y hy
    refine ⟨hnone, rfl, fun hne => ?_⟩
    obtain ⟨y, hy⟩ := List.exists_mem_of_ne_nil _ hne
    exact absurd (h y hy).1 (hnone y hy)
  | some x =>
    obtain ⟨-, hcut, hdone⟩ := h x (List.mem_of_find?_eq_some hf)
    dsimp only
    rw [if_pos (by rw [hcut, hdone]; rfl)]
    exact ⟨fun y hy => by simpa using (List.mem_filter.mp hy).2, rfl, fun _ => rfl⟩

section
variable {s : State} {n : Nat} {j : Job} {v : Snap} {p : SnapPage}

/-- The translation of a page's place in the image of a snapshot of one page. -/
def State.drainDest (s : State) (j : Job) (v : Snap) (p : SnapPage) : Got :=
  s.spend.range j .write false (v.dest.toNat + snapBase 1 v.jobs.length) (s.snapBytes p).length

/-- The translation of DRAINED. -/
def State.drainCount (s : State) (j : Job) (v : Snap) (p : SnapPage) : Got := (s.drainDest j v p).s.range j .write false (v.desc.toNat + 24) 8

/-- The page and DRAINED have been written. -/
def State.drainWritten (s : State) (j : Job) (v : Snap) (p : SnapPage) : State :=
  (byteWrites (s.drainDest j v p).ps (v.dest.toNat + snapBase 1 v.jobs.length) (s.snapBytes p) []
    ++ byteWrites (s.drainCount j v p).ps (v.desc.toNat + 24) (leBytes 8 (v.drained + 1)) []).foldl
    (fun s w => s.landHome (hiveOf j.core) w.data) (s.drainCount j v p).s

theorem State.drainWritten_maintains (s : State) (j : Job) (v : Snap) (p : SnapPage) : s.Maintains (s.drainWritten j v p) :=
  (((State.Maintains.refl s).spend.range _ _ _ _ _).range _ _ _ _ _).trans
    (State.Maintains.foldl (fun s _ => (State.Maintains.refl s).landHome _ _) _ _)

/-- The bytes count for PENDING (R273). -/
def State.drainLanded (s : State) (n : Nat) (j : Job) (v : Snap) (p : SnapPage) : State :=
  ((s.drainWritten j v p).modJob n fun q => { q with owed := q.owed - ((s.snapBytes p).length + 8) }).landCount j ((s.snapBytes p).length + 8)

variable (hs : s.snaps = [v]) (hv : v.job = n) (hj : s.job? n = some j) (hcut : v.cut = true) (hp : v.pages = [p]) (hdone : p.done = false)
  (hlost : s.snapLost p = false) (hq : (s.drainDest j v p).fail = none) (hd : (s.drainCount j v p).fail = none)
include hs hv hj hcut hp hdone hlost hq hd

theorem State.drainPage_last : s.drainPage n
    = (((s.drainLanded n j v p).freePagesOf (p.shadow.map fun x => x.2)).modSnap n (Snap.drain p)).snapDone n := by
  have hfind : (s.snaps.find? fun x => x.job == n) = some v := by simp [hs, hv]
  have htodo : ((v.pages.zip (snapOffsets (snapBase v.pages.length v.jobs.length) v.pages)).filter fun x => !x.1.done)
      = [(p, snapBase 1 v.jobs.length)] := by simp [hp, snapOffsets, hdone]
  have hpick : ([(p, snapBase 1 v.jobs.length)] : List (SnapPage × Nat))[Config.freePick s.clk.free % (max 1 1)]? = some (p, snapBase 1 v.jobs.length) := by
    rw [Nat.max_self, Nat.mod_one]
    rfl
  have hnone : ((s.drainDest j v p).fail.orElse fun _ => (s.drainCount j v p).fail) = none := by
    rw [hq, hd]
    rfl
  unfold State.drainPage
  simp only [hfind, hj]
  rw [htodo, if_pos hcut, List.length_singleton, hpick]
  dsimp only
  rw [hlost, if_neg Bool.false_ne_true]
  split
  · rename_i h
    exact absurd (hnone.symm.trans h) nofun
  · rename_i h
    exact absurd (hnone.symm.trans h) nofun
  · rfl

/-- After the last page the arm ends, and memory is as the writes left it. -/
theorem State.drainPage_ends : (∀ y ∈ (s.drainPage n).snaps, y.job ≠ n) ∧ (s.drainPage n).mem = (s.drainWritten j v p).mem
    ∧ ((s.drainWritten j v p).snaps = [v] → ((s.drainPage n).job? n).map (fun k => (k.phase, k.owed))
        = ((s.drainWritten j v p).job? n).map fun k => (.ending 1 0, k.owed - ((s.snapBytes p).length + 8))) := by
  rw [State.drainPage_last hs hv hj hcut hp hdone hlost hq hd]
  have hsnaps : (s.drainLanded n j v p).snaps = (s.drainWritten j v p).snaps := State.landCount_snaps _ _ _
  have hmem : (s.drainLanded n j v p).mem = (s.drainWritten j v p).mem := State.landCount_mem _ _ _
  have hjobs := State.landCount_jobs ((s.drainWritten j v p).modJob n fun q => { q with owed := q.owed - ((s.snapBytes p).length + 8) }) j
    ((s.snapBytes p).length + 8)
  obtain ⟨hend, hsame, hjob⟩ := State.snapDone_all (n := n)
    (s := ((s.drainLanded n j v p).freePagesOf (p.shadow.map fun x => x.2)).modSnap n (Snap.drain p)) fun y hy => by
      obtain ⟨x, hx, rfl⟩ := List.mem_map.mp hy
      obtain ⟨w, hw, hxw⟩ := (s.drainWritten_maintains j v p).snaps x (hsnaps ▸ hx)
      obtain rfl : w = v := List.mem_singleton.mp (hs ▸ hw)
      have hxn : x.job = n := (congrArg Snap.job hxw :).trans hv
      rw [if_pos (by simpa using hxn)]
      exact ⟨hxn, (congrArg Snap.cut hxw :).trans hcut, Snap.drain_done hp hxw⟩
  refine ⟨hend, hsame.trans hmem, fun hv' => ?_⟩
  have hne : (((s.drainLanded n j v p).freePagesOf (p.shadow.map fun x => x.2)).modSnap n (Snap.drain p)).snaps ≠ [] := by
    change (s.drainLanded n j v p).snaps.map _ ≠ []
    rw [hsnaps, hv']
    simp
  have hall := hjob hne
  have hfind : (((s.drainLanded n j v p).freePagesOf (p.shadow.map fun x => x.2)).modSnap n (Snap.drain p)).job? n
      = ((s.drainWritten j v p).job? n).map fun q => { q with owed := q.owed - ((s.snapBytes p).length + 8) } :=
    (congrArg (List.find? fun (k : Job) => k.num == n) hjobs).trans (State.job?_modJob _ n (by exact fun _ h => h))
  calc ((State.snapDone _ n).job? n).map (fun k => (k.phase, k.owed))
      = ((State.modJob _ n fun k => { k with phase := .ending 1 0 }).job? n).map (fun k => (k.phase, k.owed)) :=
        congrArg (fun l => (l.find? fun k => k.num == n).map fun k => (k.phase, k.owed)) hall
    _ = _ := by
        refine (congrArg (Option.map fun (k : Job) => (k.phase, k.owed)) (State.job?_modJob _ n (by exact fun _ h => h))).trans ?_
        rw [hfind, Option.map_map, Option.map_map]
        rfl

end

/-- Settles O57: an arm and a cancel as they start, the acceptance of a cancel, and the drain of a snapshot's last page. -/
theorem snapshotEvents : Obligations.SnapshotEvents := by
  unfold Obligations.SnapshotEvents
  intro s n j c x cid step extent g snap
  refine ⟨fun hj hx hg => ⟨fun hbad => ?_, fun hnew hhost => ?_⟩, fun hj => ?_, ?cancel, ?drain⟩
  · refine congrArg Host.Outcome.next ((armJob_reads hj hx hg).trans (if_pos ?_))
    rcases hbad with hc | ⟨p, hp, htt⟩
    · exact Bool.or_eq_true_iff.mpr (.inl hc)
    · exact Bool.or_eq_true_iff.mpr (.inr (List.any_eq_true.mpr ⟨p, hp, by simpa using htt⟩))
  · refine congrArg Host.Outcome.next ((armJob_reads hj hx hg).trans (if_neg ?_))
    have hall : (g.ps.any fun p => p.tt != 2) = false := List.any_eq_false.mpr fun p hp => by simp [hhost p hp]
    exact fun h => (Bool.or_eq_true_iff.mp h).elim (fun h => absurd (hnew.symm.trans h) nofun) fun h => absurd (hall.symm.trans h) nofun
  · exact congrArg Host.Outcome.next (cancelSnap_starts hj)
  case cancel =>
    intro e d r l card bs s2 he hd hr hready hl hrun hopen hcard heng hop m s1 hbusy hread hrsv halign hgo
    have hgo' : e.go.toNat / 2 ^ 15 = 0 := by rw [SBEntry.go, BitVec.toNat_ofNat]; exact hgo
    obtain ⟨k, hnum, hkcard, hphase, hjobs⟩ := State.acceptCard_cancel (c := d) (m := m) heng hop hread hrsv hgo'
    have hcancel : cancelArms s2 e.ctx card
        = (armsOf s2 e.ctx (jc card 3)).foldl (fun s o => (s.releaseSnap o.num).giveStatus o.num 0x40 0) s2 := by
      simp [cancelArms, heng, hop]
    refine ⟨_, congrArg Host.Outcome.next (State.acceptJob_complete he hd hr hready hbusy hl hrun hopen hcard), ?_, fun o ho hne y hy => ?_⟩
    · exact ⟨k, hjobs ▸ List.mem_append_right _ (List.mem_singleton.mpr rfl), hnum, hkcard, hphase⟩
    · rcases List.mem_append.mp (hjobs ▸ hy) with hy | hy
      · exact (State.cancelFold_num _ _ (hcancel ▸ hy)).1 o ho
      · rw [List.mem_singleton.mp hy, hnum]
        exact Ne.symm hne
  case drain =>
    intro v p off bs q d ws hs hv hj hcut hp hdone hlost hq hd
    obtain ⟨hend, hmem, hjob⟩ := State.drainPage_ends hs hv hj hcut hp hdone hlost hq hd
    exact ⟨_, rfl, hend, s.drainWritten j v p, rfl, hmem, hjob⟩

end Sys2Proof.Machine
end

section
/-! PROOF. Jobs at GO, while their writes land, and at their end (R268 to R273, R280, R286, R300): the statement O54. -/

namespace Sys2Proof.Machine

/-! ### The checks of a card without a block (R269) -/

section
variable {card : List W64}

theorem acceptBlock_none (h : acceptBlock card = none) : jobEng card ≠ 4 ∧ jobEng card ≠ 5 := by
  refine ⟨fun he => ?_, fun he => ?_⟩ <;> simp [acceptBlock, he] at h

theorem State.blockRead_none (s : State) (ctx : Nat) (h : acceptBlock card = none) : s.blockRead ctx card = .ok ([], s) := by
  rw [State.blockRead, h]

theorem State.blockSeen_none (s : State) (e : SBEntry) (h : acceptBlock card = none) : s.blockSeen e card = [] := by
  rw [State.blockSeen, State.blockRead_none _ _ h]

/-- Only the acceptance of a cancel ends arms. -/
theorem cancelArms_other (s : State) (x : Nat) (h : jobEng card ≠ 5) : cancelArms s x card = s :=
  if_neg (by simp [h])

theorem State.goBad_iff (s : State) (c : Comb) (go : W64) :
    s.goBad c go = true ↔ wBits go 16 48 ≠ 0 ∨ (go.getLsbD 15 = true ∧ s.barRef c (wBits go 0 15) = none) := by
  simp [State.goBad]

section
variable {s : State} {c : Comb} {go : W64}

theorem State.goCode_undefined (hop : jobOps (jobEng card) ≤ jobOp card) : s.goCode c card go [] = some 0x11 := if_pos hop

variable (h : acceptBlock card = none)
variable (hop : jobOp card < jobOps (jobEng card))
include h hop

/-- The checks of a card with a defined operation, in the order of R269. -/
theorem State.goCode_defined : s.goCode c card go [] = if (cardCheck s c card []).rsv || s.goBad c go then some 0x13
    else if (cardCheck s c card []).form then some 0x12 else if (cardCheck s c card []).align then some 0x14 else none := by
  have hlost : ¬ (jobEng card == 4 && ([] : List Byte).isEmpty) = true := by simp [(acceptBlock_none h).1]
  exact (if_neg (by omega)).trans (if_neg hlost)

theorem State.goCode_reserved (hbad : (cardCheck s c card []).rsv = true ∨ s.goBad c go = true) : s.goCode c card go [] = some 0x13 := by
  rw [State.goCode_defined h hop, if_pos (Bool.or_eq_true_iff.mpr hbad)]

variable (hrsv : (cardCheck s c card []).rsv = false) (hgo : ¬ s.goBad c go = true)
include hrsv hgo

theorem State.goCode_form (hf : (cardCheck s c card []).form = true) : s.goCode c card go [] = some 0x12 := by
  rw [State.goCode_defined h hop, hrsv, Bool.false_or, if_neg hgo, if_pos hf]

variable (hf : (cardCheck s c card []).form = false)
include hf

theorem State.goCode_align (ha : (cardCheck s c card []).align = true) : s.goCode c card go [] = some 0x14 := by
  rw [State.goCode_defined h hop, hrsv, Bool.false_or, if_neg hgo, hf, if_neg Bool.false_ne_true, if_pos ha]

theorem State.goCode_none (ha : (cardCheck s c card []).align = false) : s.goCode c card go [] = none := by
  rw [State.goCode_defined h hop, hrsv, Bool.false_or, if_neg hgo, hf, if_neg Bool.false_ne_true, ha, if_neg Bool.false_ne_true]

end

end

/-! ### A job that joins the TDT (R270) -/

/-- A new job waits for the older jobs of its core and address space that its footprints meet. -/
theorem State.newJob_edges (s : State) (e : SBEntry) (c : Comb) (n : Nat) (card : List W64) (go : W64) (k : Check) (bs : List Byte) (m : Nat) :
    m ∈ (s.newJob e c n card go k bs).edges ↔ ∃ o ∈ s.jobs, o.num = m ∧ o.core = e.core ∧ o.asid = e.asid
      ∧ (footMeets (k.src.map rangeLines).flatten o.dst = true ∨ footMeets (k.dst.map rangeLines).flatten o.src = true
        ∨ footMeets (k.dst.map rangeLines).flatten o.dst = true) := by
  simp only [State.newJob, State.tdt, List.mem_map, List.mem_filter, Bool.and_eq_true, Bool.or_eq_true, beq_iff_eq]
  constructor
  · rintro ⟨o, ⟨⟨ho, hcore⟩, hasid, hmeet⟩, rfl⟩
    exact ⟨o, ho, rfl, hcore, hasid, or_assoc.mp hmeet⟩
  · rintro ⟨o, ho, rfl, hcore, hasid, hmeet⟩
    exact ⟨o, ⟨⟨ho, hcore⟩, hasid, or_assoc.mpr hmeet⟩, rfl⟩

/-- The group of a GO that drains, once its job has joined: its card is cleared, and its last open job names the destination. -/
theorem State.joinJob_group {s : State} {e : SBEntry} {g : Group} (hg : s.group? e.comb e.group = some g) (j : Job) :
    ∃ h, ((s.goDrained e).joinJob e s.clk.serial j).group? e.comb e.group = some h ∧ h.card = List.replicate 4 none
      ∧ h.openJobs.length = g.openJobs.length + 1 ∧ h.openJobs.getLast? = some { num := s.clk.serial, dst := j.dst } := by
  have hdrained : (s.goDrained e).group? e.comb e.group = some { g with
      card := List.replicate 4 none, openJobs := g.openJobs ++ [{ num := s.clk.serial }] } := by
    refine (State.group?_modGroup_same _ (by exact fun _ => rfl)).trans ?_
    exact congrArg (Option.map _) hg
  refine ⟨_, (State.group?_modGroup_same _ (by exact fun _ => rfl)).trans (congrArg (Option.map _) hdrained), rfl, ?_, ?_⟩
  · simp
  · simp

/-! ### A write that lands (R300) -/

/-- Bytes written at one key, all the same there, are what it holds. -/
theorem Memory.get_setAll_mem (m : Memory) (hm : m.wf = true) (data : List (Nat × Byte)) {d : Nat × Byte} (hd : d ∈ data)
    (hsame : ∀ x ∈ data, x.1 = d.1 → x.2 = d.2) : (m.setAll data).get d.1 = some d.2 := by
  induction data generalizing m with
  | nil => cases hd
  | cons x xs ih =>
    by_cases hlater : ∃ y ∈ xs, y.1 = d.1
    · obtain ⟨y, hy, hkey⟩ := hlater
      have hval : y.2 = d.2 := hsame y (List.mem_cons_of_mem _ hy) hkey
      have hdy : d = y := Prod.ext hkey.symm hval.symm
      exact ih (m.set x.1 x.2) (Memory.wf_set m _ _ hm) (hdy ▸ hy) fun z hz => hsame z (List.mem_cons_of_mem _ hz)
    · have hx : x = d := by
        rcases List.mem_cons.mp hd with rfl | hd
        · rfl
        · exact absurd ⟨d, hd, rfl⟩ hlater
      rw [Memory.setAll, Memory.get_setAll_other _ _ _ (fun y hy hk => hlater ⟨y, hy, hk⟩) (Memory.wf_set m _ _ hm), hx]
      exact Memory.get_set_same m _ _ hm

/-- A hive's write of plain bytes at home is written whole: memory, what is left to rebuild, forks and copies of lines change. -/
theorem State.landHome_shape {s : State} (hs : s.snaps = []) (hive : Nat) {data : List (Nat × Byte)}
    (hd : ∀ d ∈ data, keyRegion d.1 < 7 ∧ s.Plain d.1) :
    ∃ dev combs lines, s.landHome hive data
      = { s with mem := s.mem.setAll data, dev := dev, combs := combs, coh := { s.coh with lines := lines } } := by
  have hplain : ∀ d ∈ data, s.Plain d.1 := fun d h => (hd d h).2
  have hnear : ∀ d ∈ data, (keyRegion d.1 == 7 || keyRegion d.1 == 8) = false := fun d h => by
    have hlt := (hd d h).1
    have h7 : keyRegion d.1 ≠ 7 := by omega
    have h8 : keyRegion d.1 ≠ 8 := by omega
    simp [h7, h8]
  have hfar : (data.filter fun d => keyRegion d.1 == 7 || keyRegion d.1 == 8) = [] :=
    List.filter_eq_nil_iff.mpr fun d h => by simp [hnear d h]
  have hhome : (data.filter fun d => !(keyRegion d.1 == 7 || keyRegion d.1 == 8)) = data :=
    List.filter_eq_self.mpr fun d h => by simp [hnear d h]
  obtain ⟨dev, combs, lines, hshape, -⟩ := State.perform_shape hs hplain
  unfold State.landHome State.writeHome
  simp only [State.masked_plain hplain, hfar, hhome, List.map_nil, List.eraseDups_nil, List.foldl_nil, List.isEmpty_nil, if_true, hshape]
  exact ⟨dev, combs, _, rfl⟩

/-- So is a job's write. -/
theorem State.landAt_shape {s : State} (hs : s.snaps = []) (j : Job) {data : List (Nat × Byte)}
    (hd : ∀ d ∈ data, keyRegion d.1 < 7 ∧ s.Plain d.1) :
    ∃ dev combs lines, s.landAt j data
      = { s with mem := s.mem.setAll data, dev := dev, combs := combs, coh := { s.coh with lines := lines } } := by
  unfold State.landAt
  split
  · obtain ⟨dev, combs, lines, hshape, -⟩ := State.perform_shape hs fun d h => (hd d h).2
    exact ⟨dev, combs, lines, hshape⟩
  · exact State.landHome_shape hs _ hd

section
variable {s : State} {n : Nat} {j : Job} {w : JobWrite}

/-- The only write of a job, with nothing to add or copy, lands when it can. -/
theorem State.landWrite_only (hj : s.job? n = some j) (hw : j.writes = [w]) (hadd : w.add = none) (hcopy : w.copy = [])
    (hready : s.landReady j w = true) : s.landWrite n = ((s.spend.landAt j w.data).modJob n fun q => { q with
      writes := q.writes.erase w, owed := q.owed - w.count, flags := q.flags ||| ({} : Fl).bits }).landCount j w.count := by
  have hpick : ([w] : List JobWrite)[Config.freePick s.clk.free % (max 1 1)]? = some w := by
    rw [Nat.max_self, Nat.mod_one]
    rfl
  have hcells : s.landCells j w = (w.data, {}) := by simp [State.landCells, hadd, hcopy]
  unfold State.landWrite
  simp only [hj, hw, List.length_singleton]
  rw [hpick]
  dsimp only
  rw [List.find?_cons_of_pos (by simp), Option.getD_some, hready, hcells]
  rfl

/-- Without a write of bytes nothing is performed (R290). -/
theorem State.landAt_nothing (hs : s.snaps = []) (j : Job) : ∃ lines, s.landAt j [] = s.modLines fun _ => lines := by
  have hraw : s.performRaw [] [] = s := by
    have hrebuild : s.rebuildHook [] = s := by simp [State.rebuildHook]
    have hmirror : s.mirror [] [] = [] := by simp [State.mirror, hs]
    unfold State.performRaw
    simp [hrebuild, hmirror, Memory.setAll, State.hostHook]
  have hmasked : s.masked [] = [] := by
    unfold State.masked
    split <;> rfl
  have hperform : s.perform [] = s := by rw [State.perform, State.performFor, hmasked, hraw]
  unfold State.landAt
  split
  · exact ⟨s.coh.lines, hperform⟩
  · unfold State.landHome State.writeHome
    simp only [hmasked, List.filter_nil, hperform, List.map_nil, List.eraseDups_nil, List.foldl_nil, List.isEmpty_nil, if_true]
    exact ⟨_, rfl⟩

end

/-- A barrier that more arrivals are due at does not complete (R235). -/
theorem State.tested_waiting {b : Barrier} (h : b.arrived < b.expect) : State.tested b = b :=
  if_neg fun hb => absurd (of_decide_eq_true (Bool.and_eq_true_iff.mp hb).1) (by bv_omega)

/-- Landed bytes leave PENDING of a comb barrier that still waits for arrivals (R273). -/
theorem State.landed_comb {s : State} {c : Comb} {b i k : Nat} (hc : s.comb? c.id = some c) (hk : 0 < k) (hb : s.barRef c b = some (.comb i))
    (hi : i < c.bars.length) (ha : (getAt c.bars i).arrived < (getAt c.bars i).expect) :
    ∃ d, (s.landed c b k).comb? c.id = some d
      ∧ getAt d.bars i = { getAt c.bars i with pending := (getAt c.bars i).pending - BitVec.ofNat 64 k } := by
  have hsome : (s.comb? c.id).isSome = true := by rw [hc]; rfl
  unfold State.landed
  rw [if_neg (by omega), hb]
  simp only [State.barChange, State.modCombHome, hsome, if_true]
  refine ⟨_, (s.comb?_modComb_same (by exact fun _ h => h)).trans (congrArg (Option.map _) hc), ?_⟩
  dsimp only
  rw [getAt_setAt_same, if_pos hi]
  exact State.tested_waiting ha

section
variable {s : State} {n : Nat} {j : Job} {w : JobWrite}

/-- The only write of a job leaves its bytes, and the job without it (R273, R300). -/
theorem State.landWrite_bytes (hj : s.job? n = some j) (hw : j.writes = [w]) (hadd : w.add = none) (hcopy : w.copy = [])
    (hs : s.snaps = []) (hm : s.MemOk) (hd : ∀ d ∈ w.data, keyRegion d.1 < 7 ∧ s.Plain d.1) (hpb : j.pb = false) (hready : s.landReady j w = true) :
    (s.landWrite n).job? n = some { j with writes := [], owed := j.owed - w.count }
    ∧ (∀ d ∈ w.data, (∀ x ∈ w.data, x.1 = d.1 → x.2 = d.2) → (s.landWrite n).mem.get d.1 = some d.2)
    ∧ (∀ k, (∀ d ∈ w.data, d.1 ≠ k) → (s.landWrite n).mem.get k = s.mem.get k)
    ∧ (s.landWrite n).flights = s.flights ∧ (s.landWrite n).launches = s.launches ∧ (s.landWrite n).ctxs = s.ctxs := by
  obtain ⟨dev, combs, lines, hshape⟩ := State.landAt_shape (s := s.spend) hs j hd
  have hcount : ∀ u : State, u.landCount j w.count = u := fun u => if_neg (by rw [hpb]; exact Bool.false_ne_true)
  rw [State.landWrite_only hj hw hadd hcopy hready, hcount, hshape]
  refine ⟨?_, fun d hd hsame => Memory.get_setAll_mem s.mem hm w.data hd hsame, fun k hk => Memory.get_setAll_other s.mem w.data k hk hm, rfl, rfl, rfl⟩
  refine (State.job?_modJob _ n (by exact fun _ h => h)).trans ((congrArg (Option.map _) hj).trans (congrArg some ?_))
  dsimp only
  rw [hw, List.erase_cons_head]
  exact congrArg (fun fl => { j with writes := [], owed := j.owed - w.count, flags := fl }) (BitVec.or_zero (x := j.flags))

/-- The bytes of a job's only write leave PENDING of the comb barrier that its GO named (R273). -/
theorem State.landWrite_pending {b i : Nat} {c : Comb} (hj : s.job? n = some j) (hw : j.writes = [{ count := b }]) (hpb : j.pb = true)
    (hc : s.comb? j.comb = some c) (hs : s.snaps = []) (hb : 0 < b) (hbar : s.barRef c j.bar = some (.comb i)) (hi : i < c.bars.length)
    (ha : (getAt c.bars i).arrived < (getAt c.bars i).expect) :
    ∃ d, (s.landWrite n).comb? c.id = some d
      ∧ getAt d.bars i = { getAt c.bars i with pending := (getAt c.bars i).pending - BitVec.ofNat 64 b } := by
  obtain ⟨lines, hnothing⟩ := State.landAt_nothing (s := s.spend) hs j
  have hid : c.id = j.comb := State.id_of_comb? hc
  rw [State.landWrite_only hj hw rfl rfl (by simp [State.landReady]), State.landCount, if_pos hpb, hnothing]
  generalize hu : ((s.spend.modLines fun _ => lines).modJob n fun q => { q with
      writes := q.writes.erase { count := b }, owed := q.owed - b, flags := q.flags ||| ({} : Fl).bits }) = u
  have hcomb : u.comb? c.id = some c := by rw [← hu, hid]; exact hc
  have hhome : u.jobComb j = c := by
    rw [State.jobComb, State.combHome?, ← hid, hcomb]
    rfl
  rw [hhome]
  exact State.landed_comb hcomb hb (hu ▸ hbar) hi ha

end

/-! ### Status (R272, R275, R300) -/

/-- What is written beside keeps a group's lists, whatever its forks track. -/
theorem State.Maintains.group? {s t : State} (h : s.Maintains t) {c i : Nat} {g : Group} (hg : s.group? c i = some g) :
    ∃ k, t.group? c i = some k ∧ k.unforked = g.unforked := by
  have hcomb (u : State) : (u.combs.map Comb.unforked).find? (fun x => x.id == c) = (u.comb? c).map Comb.unforked :=
    find?_map_key (key := Comb.id) (f := Comb.unforked) (fun _ => rfl) _ _
  have hgroup (x : Comb) : (x.unforked.groups).find? (fun y => y.gidx == i) = (x.group? i).map Group.unforked :=
    find?_map_key (key := Group.gidx) (f := Group.unforked) (fun _ => rfl) _ _
  have hfind (u : State) : (u.group? c i).map Group.unforked
      = ((u.combs.map Comb.unforked).find? fun x => x.id == c).bind fun x => x.groups.find? fun y => y.gidx == i := by
    rw [hcomb, State.group?]
    cases u.comb? c with
    | none => rfl
    | some x => exact (hgroup x).symm
  have hsome : (t.group? c i).map Group.unforked = some g.unforked := by rw [hfind, h.combs, ← hfind, hg]; rfl
  obtain ⟨k, hk, hkg⟩ := Option.map_eq_some_iff.mp hsome
  exact ⟨k, hk, hkg⟩

/-- DONE alone rises (R275). -/
theorem State.raiseDone_lists (n : Nat) (g : Group) :
    (State.raiseDone g n).gidx = g.gidx ∧ (State.raiseDone g n).openJobs = g.openJobs ∧ (State.raiseDone g n).batches = g.batches := by
  induction n generalizing g with
  | zero => exact ⟨rfl, rfl, rfl⟩
  | succ n ih =>
    unfold State.raiseDone
    split
    · split
      · exact ih _
      · exact ⟨rfl, rfl, rfl⟩
    · exact ⟨rfl, rfl, rfl⟩

/-- Every entry of a job's number has the status that it was given. -/
theorem marked_status {n : Nat} {w : W64} {l : List BatchJob} {b : BatchJob}
    (hb : b ∈ l.map fun (j : BatchJob) => if j.num == n then { j with status := some w } else j) (hn : b.num = n) : b.status = some w := by
  obtain ⟨x, -, rfl⟩ := List.mem_map.mp hb
  by_cases hx : (x.num == n) = true
  · rw [if_pos hx]
  · rw [if_neg hx] at hn
    exact absurd (by simpa using hn) hx

theorem Group.marked_spec (n : Nat) (w : W64) (g : Group) : (g.marked n w).gidx = g.gidx
    ∧ (∀ b ∈ (g.marked n w).openJobs, b.num = n → b.status = some w)
    ∧ ∀ b ∈ (g.marked n w).batches, ∀ x ∈ b.jobs, x.num = n → x.status = some w := by
  obtain ⟨hgidx, hopen, hbatches⟩ := State.raiseDone_lists _ { g with
    openJobs := g.openJobs.map fun (j : BatchJob) => if j.num == n then { j with status := some w } else j
    batches := g.batches.map fun b => { b with jobs := b.jobs.map fun (j : BatchJob) => if j.num == n then { j with status := some w } else j } }
  refine ⟨hgidx, fun b hb hn => marked_status (hopen ▸ hb) hn, fun b hb x hx hn => ?_⟩
  obtain ⟨y, -, rfl⟩ := List.mem_map.mp (hbatches ▸ hb)
  exact marked_status hx hn

/-- A recorded status stands in the group's lists. -/
theorem State.recordStatus_group {s : State} {c i : Nat} {g : Group} (hg : s.group? c i = some g) (n : Nat) (w : W64) (x : Nat) (lid : W64) :
    ∃ h, (s.recordStatus c i n w x lid).group? c i = some h ∧ (∀ b ∈ h.openJobs, b.num = n → b.status = some w)
      ∧ ∀ b ∈ h.batches, ∀ x ∈ b.jobs, x.num = n → x.status = some w := by
  obtain ⟨k, hk, hkg⟩ := Option.bind_eq_some_iff.mp hg
  have hhome : s.combHome? c = some k := by rw [State.combHome?, hk]
  have hgroup : s.groupHome? c i = some g := by
    unfold State.groupHome?
    rw [hhome, Option.bind_some, hkg]
  have hmod : s.modGroupHome c i (fun _ => g.marked n w) = s.modGroup c i fun _ => g.marked n w := by
    unfold State.modGroupHome State.modCombHome
    rw [hhome, hk]
    rfl
  obtain ⟨hgidx, hopen, hbatches⟩ := g.marked_spec n w
  have hmarked : (s.modGroupHome c i fun _ => g.marked n w).group? c i = some (g.marked n w) := by
    have hcomb := s.comb?_modGroup_same c i fun _ => g.marked n w
    rw [hmod, State.group?, hcomb, hk]
    refine (find?_change_same (key := Group.gidx) (fun _ _ => hgidx.trans (Comb.gidx_of_group? hkg)) k.groups).trans ?_
    exact congrArg (Option.map _) hkg
  obtain ⟨h, hh, hlists⟩ := (State.recordStatus_maintains hgroup n w x lid).group? hmarked
  have hhopen : h.openJobs = (g.marked n w).openJobs := (congrArg Group.openJobs hlists :)
  have hhbatches : h.batches = (g.marked n w).batches := (congrArg Group.batches hlists :)
  exact ⟨h, hh, hhopen ▸ hopen, hhbatches ▸ hbatches⟩

/-- Landed bytes change no group. -/
theorem State.landed_group (s : State) (c : Comb) (b n i g : Nat) : (s.landed c b n).group? i g = s.group? i g := by
  refine State.landed_keeps (p := fun s => s.group? i g) (fun _ _ => rfl) (fun s id f => ?_) (fun _ _ _ => rfl) (fun _ _ _ => rfl) s c b n
  unfold State.modCombHome
  split
  · have hfind : (s.modComb id fun x => { x with bars := f x }).comb? i = (s.comb? i).map fun x => if x.id == id then { x with bars := f x } else x :=
      find?_map_key (key := Comb.id) (fun x => by split <;> rfl) _ _
    simp only [State.group?, hfind]
    cases s.comb? i with
    | none => rfl
    | some x =>
      simp only [Option.map_some, Option.bind_some]
      split <;> rfl
  · rfl

/-- The status of a job whose group is there (R272): the job leaves the TDT and every edge, and its entry stands in the group's
lists. -/
theorem State.giveStatus_spec {s : State} {n : Nat} {j : Job} {g : Group} (hj : s.job? n = some j) (hcoll : j.coll = none)
    (hg : s.group? j.comb j.group = some g) (code detail : Nat) :
    (∀ x ∈ (s.giveStatus n code detail).jobs, x.num ≠ n ∧ n ∉ x.edges)
    ∧ ∃ h, (s.giveStatus n code detail).group? j.comb j.group = some h
      ∧ (∀ b ∈ h.openJobs, b.num = n → b.status = some (State.statusEntry code j.flags detail))
      ∧ ∀ b ∈ h.batches, ∀ x ∈ b.jobs, x.num = n → x.status = some (State.statusEntry code j.flags detail) := by
  refine ⟨fun x hx => ?_, ?_⟩
  · obtain ⟨y, -, hne, hnum, hedges⟩ := s.giveStatus_job_mem n code detail (by rw [hj]; rfl) hx
    exact ⟨hnum ▸ hne, by simp [hedges]⟩
  · have hland : ∀ b : Bool, (if b then s.landed (s.jobComb j) j.bar j.owed else s).group? j.comb j.group = some g := fun b => by
      cases b
      · exact hg
      · exact (s.landed_group _ _ _ _ _).trans hg
    unfold State.giveStatus
    rw [hj]
    dsimp only
    rw [hcoll, Option.isSome_none, if_neg Bool.false_ne_true]
    refine State.recordStatus_group (g := g) ?_ _ _ _ _
    exact hland (j.pb && decide (16 ≤ code))

/-! ### The move of a job's status (R286, R300, R340) -/

section
variable {s : State} {n code detail : Nat} {j : Job} (hj : s.job? n = some j) (vs : List Verdict)
include hj

/-- A job that the device cancels gets 0x40 (R286). -/
theorem State.jobStatus_cancels (hc : s.lateCancel j = true) : s.jobStatus n vs = (s.spend.releaseSnap n).giveStatus n 0x40 0 := by
  unfold State.jobStatus
  rw [hj]
  exact if_pos hc

variable (hc : s.lateCancel j = false)
include hc

theorem State.jobStatus_ends (hp : j.phase = .ending code detail) (hcoll : j.coll = none) (hw : j.writes = []) :
    s.jobStatus n vs = s.spend.giveStatus n code detail := by
  unfold State.jobStatus
  rw [hj]
  dsimp only
  rw [hc, if_neg Bool.false_ne_true, hp, hcoll, hw]
  rfl

theorem State.jobStatus_endsColl {c : Coll} (hp : j.phase = .ending code detail) (hcoll : j.coll = some c) (hw : j.writes = []) :
    s.jobStatus n vs = s.spend.endColl j c code detail := by
  unfold State.jobStatus
  rw [hj]
  dsimp only
  rw [hc, if_neg Bool.false_ne_true, hp, hcoll, hw]
  rfl

/-- What a running collective job has heard. -/
def State.heard (s : State) (c : Coll) (vs : List Verdict) : Coll := if s.dev.poden then State.hear c vs else c

variable {c : Coll} (hp : j.phase = .running) (hcoll : j.coll = some c)
include hp hcoll

/-- A running collective job gets its status when every chunk has been accepted, delivered or failed (R340). -/
theorem State.jobStatus_decides {r : Nat × Nat} (hr : (s.spend.modColl n fun _ => s.heard c vs).collStatus j (s.heard c vs) = some r) :
    s.jobStatus n vs = (s.spend.modColl n fun _ => s.heard c vs).endColl j (s.heard c vs) r.1 r.2 := by
  unfold State.jobStatus
  rw [hj]
  dsimp only
  rw [hc, if_neg Bool.false_ne_true, hp, hcoll]
  dsimp only
  split
  · rename_i r' h
    rw [Option.some.inj (h.symm.trans hr)]
    rfl
  · rename_i h
    exact absurd (h.symm.trans hr) nofun

theorem State.jobStatus_hears (hr : (s.spend.modColl n fun _ => s.heard c vs).collStatus j (s.heard c vs) = none) :
    s.jobStatus n vs = s.spend.modColl n fun _ => s.heard c vs := by
  unfold State.jobStatus
  rw [hj]
  dsimp only
  rw [hc, if_neg Bool.false_ne_true, hp, hcoll]
  dsimp only
  split
  · rename_i h
    exact absurd (h.symm.trans hr) nofun
  · rfl

end

/-- Settles O54: the acceptance of a card check by check, a write that lands, the bytes that it counts, and a job's status. -/
theorem jobEvents : Obligations.JobEvents := by
  unfold Obligations.JobEvents
  intro s
  refine ⟨?accept, ?land, ?count, ?status⟩
  case accept =>
    intro e c g l he hc hg hready hbusy hl hrun hopen n go pb bar s1
    refine ⟨fun hcard => ?_, fun card hcard hblock => ?_⟩
    · exact congrArg Host.Outcome.next (State.acceptJob_incomplete he hc hg hready hbusy hl hrun hopen hcard)
    · intro k bad rejected empty
      have haccept : s.acceptJob e.eid = s1.acceptCard e c n card go :=
        State.acceptJob_complete he hc hg hready hbusy hl hrun hopen hcard
      have hread : s1.blockRead e.ctx card = .ok ([], s1) := s1.blockRead_none e.ctx hblock
      have hseen : s1.blockSeen e card = [] := s1.blockSeen_none e hblock
      have hbad : bad ↔ s1.goBad c go = true := (s1.goBad_iff c go).symm
      have hrejects : ∀ {code : Nat}, s1.goCode c card go [] = some code → rejected code := fun h =>
        congrArg Host.Outcome.next (haccept.trans (State.acceptCard_rejects hread (by rw [hseen]; exact h)))
      refine ⟨fun hop => hrejects (State.goCode_undefined hop), fun hop => ⟨fun hr => ?_, fun hr hb hf => ?_, fun hr hb hf ha => ?_, ?_, ?_⟩⟩
      · exact hrejects (State.goCode_reserved hblock hop (hr.imp_right hbad.mp))
      · exact hrejects (State.goCode_form hblock hop hr (mt hbad.mpr hb) hf)
      · exact hrejects (State.goCode_align hblock hop hr (mt hbad.mpr hb) hf ha)
      · intro hr hb hf ha hempty
        have hcode : s1.goCode c card go (s1.blockSeen e card) = none := by
          rw [hseen]
          exact State.goCode_none hblock hop hr (mt hbad.mpr hb) hf ha
        have hlid : ((s1.launch? e.launch).map fun l => l.lid).getD 0 = l.lid :=
          congrArg (fun o : Option Launch => (o.map fun l => l.lid).getD 0) hl
        refine congrArg Host.Outcome.next (haccept.trans ((State.acceptCard_empty hread hcode hempty).trans ?_))
        rw [hlid]
      · intro hr hb hf ha hempty
        have hcode : s1.goCode c card go (s1.blockSeen e card) = none := by
          rw [hseen]
          exact State.goCode_none hblock hop hr (mt hbad.mpr hb) hf ha
        obtain ⟨h4, h5⟩ := acceptBlock_none hblock
        have hjoin := State.acceptCard_joins hread hcode hempty h4 (n := n)
        rw [cancelArms_other _ _ h5, hseen] at hjoin
        let j := s1.newJob e c n card go k []
        obtain ⟨h, hh, hcleared, hlength, hlast⟩ := State.joinJob_group hg j
        exact ⟨s1.joinJob e n j, j, h, congrArg Host.Outcome.next (haccept.trans hjoin), rfl, rfl, rfl, rfl, rfl, rfl, rfl, rfl, rfl, rfl, rfl, rfl,
          rfl, s1.newJob_edges e c n card go k [], hh, hcleared, hlength, hlast⟩
  case land =>
    intro n j w hj hw hadd hcopy hs hm hd hpb hready
    obtain ⟨hjob, hrest⟩ := State.landWrite_bytes hj hw hadd hcopy hs hm hd hpb hready
    exact ⟨_, _, rfl, hjob, rfl, hrest⟩
  case count =>
    intro n j c b hj hw hpb hc hs hb i hbar hi ha
    obtain ⟨d, hd⟩ := State.landWrite_pending hj hw hpb hc hs hb hbar hi ha
    exact ⟨_, d, rfl, hd⟩
  case status =>
    intro n j vs hj
    refine ⟨fun l _ _ _ => ?_, fun hc => ⟨?_, ?_, ?_⟩⟩
    · cases hc : s.lateCancel j with
      | true => exact .inl (congrArg Host.Outcome.next (State.jobStatus_cancels hj vs hc))
      | false => exact .inr rfl
    · intro code detail c g hp hcoll hw hcomb hgroup
      have hg : s.spend.group? j.comb j.group = some g := Option.bind_eq_some_iff.mpr ⟨c, hcomb, hgroup⟩
      obtain ⟨hjobs, h, hlists⟩ := State.giveStatus_spec (s := s.spend) hj hcoll hg code detail
      exact ⟨_, h, congrArg Host.Outcome.next (State.jobStatus_ends hj vs hc hp hcoll hw), hjobs, hlists⟩
    · intro code detail c hp hcoll hw
      exact congrArg Host.Outcome.next (State.jobStatus_endsColl hj vs hc hp hcoll hw)
    · intro c hp hcoll d s1
      exact ⟨fun r hr => congrArg Host.Outcome.next (State.jobStatus_decides hj vs hc hp hcoll hr),
        fun hr => congrArg Host.Outcome.next (State.jobStatus_hears hj vs hc hp hcoll hr)⟩

end Sys2Proof.Machine
end
